-- ==== Sys2Proof/Word.lean ====
section
/-!
DEFINITION. The word types of the Gwezil architecture (00_scope R5, R6) and their plainest arithmetic.
-/
namespace Sys2Proof

/-- The 32-bit word: an instruction word, a register of a lane, a scalar register (02_encoding R30, R32). -/
abbrev Word := BitVec 32

/-- A 64-bit value: a register pair, an event value, a global address with its module field (05_memory R90). -/
abbrev DWord := BitVec 64

/-- One byte of memory (00_scope R6). -/
abbrev Byte := BitVec 8

/-- A set of lanes of a group, bit L for lane L (10_group R190: at most 64 lanes). -/
abbrev Mask := BitVec 64

/-- Lane L is in the set. -/
abbrev Mask.has (m : Mask) (l : Nat) : Bool := m.getLsbD l

/-- The set with lane L alone. -/
abbrev Mask.single (l : Nat) : Mask := BitVec.ofNat 64 (2 ^ l)

end Sys2Proof
end

