-- ==== Sys2Proof/Machine/Bits.lean ====
section
/-!
DEFINITION. Bit fields, byte order and the sparse tables in which the state keeps memories and register files.
-/
namespace Sys2Proof.Machine

/-- Bits [hi:lo] of a number (00_scope R5). -/
def bits (x hi lo : Nat) : Nat := (x >>> lo) % 2 ^ (hi + 1 - lo)

/-- Bit n of a number. -/
def bit (x n : Nat) : Bool := x.testBit n

/-- `n` bits of `v` put at bit `lo`. -/
def putBits (v n lo : Nat) : Nat := (v % 2 ^ n) <<< lo

/-- A Bool as the number 0 or 1. -/
def b2n (b : Bool) : Nat := if b then 1 else 0

/-- The value of the low `w` bits of `x` read as two's complement (03_numbers R52). -/
def signed (w x : Nat) : Int :=
  let y := x % 2 ^ w
  if y < 2 ^ (w - 1) then (y : Int) else (y : Int) - (2 ^ w : Nat)

/-- An integer wrapped modulo 2^w (03_numbers R52). -/
def wrap (w : Nat) (i : Int) : Nat := (i % ((2 ^ w : Nat) : Int)).toNat

/-- An integer wrapped to a 32-bit word. -/
def wrapWord (i : Int) : Word := BitVec.ofNat 32 (wrap 32 i)

/-- Ceiling division. -/
def ceilDiv (a b : Nat) : Nat := (a + b - 1) / b

/-- `n` rounded up to a multiple of `a`. -/
def alignUp (n a : Nat) : Nat := ceilDiv n a * a

/-- The bytes of a number, least significant first (00_scope R6). -/
def toBytes : Nat → Nat → List Byte
  | 0, _ => []
  | n + 1, x => BitVec.ofNat 8 x :: toBytes n (x / 256)

/-- The number that little-endian bytes spell (00_scope R6). -/
def ofBytes : List Byte → Nat
  | [] => 0
  | b :: bs => b.toNat + 256 * ofBytes bs

/-- The 32-bit words of a byte list, first word at the lowest address (00_scope R6). -/
def wordsOf : List Byte → List Word
  | b0 :: b1 :: b2 :: b3 :: rest => BitVec.ofNat 32 (ofBytes [b0, b1, b2, b3]) :: wordsOf rest
  | _ => []

/-- Signed comparison of two words. -/
def sLt (a b : Word) : Bool := a.slt b

/-- A sparse table: keys rising, no entry equal to the default. -/
abbrev Tab (α : Type) := List (Nat × α)

/-- The entry of a key, or the default `d` where none is listed. -/
def Tab.get {α : Type} (d : α) : Tab α → Nat → α
  | [], _ => d
  | (k, v) :: m, a => if k = a then v else Tab.get d m a

/-- Every entry of key `a` removed. -/
def Tab.del {α : Type} : Tab α → Nat → Tab α
  | [], _ => []
  | (k, v) :: m, a => if k = a then Tab.del m a else (k, v) :: Tab.del m a

/-- An entry put before the first larger key. -/
def Tab.put {α : Type} : Tab α → Nat → α → Tab α
  | [], a, x => [(a, x)]
  | (k, v) :: m, a, x => if a < k then (a, x) :: (k, v) :: m else (k, v) :: Tab.put m a x

/-- The table with `x` at key `a`; writing the default removes the entry, so equal tables are equal lists. -/
def Tab.set {α : Type} [DecidableEq α] (d : α) (m : Tab α) (a : Nat) (x : α) : Tab α :=
  if x = d then Tab.del m a else Tab.put (Tab.del m a) a x

/-- The entry of a key, if one is listed. -/
def Tab.find {α : Type} : Tab α → Nat → Option α
  | [], _ => none
  | (k, v) :: m, a => if k = a then some v else Tab.find m a

/-- The table with `x` at key `a`, whatever `x` is. -/
def Tab.ins {α : Type} (m : Tab α) (a : Nat) (x : α) : Tab α := Tab.put (Tab.del m a) a x

/-- The canonical form: keys strictly rising and no entry equal to the default. -/
def Tab.wf {α : Type} [DecidableEq α] (d : α) : Tab α → Bool
  | [] => true
  | [(_, v)] => decide (v ≠ d)
  | (k, v) :: (k', v') :: m => decide (v ≠ d) && decide (k < k') && Tab.wf d ((k', v') :: m)

/-- `n` consecutive entries from key `a`. -/
def Tab.getN {α : Type} (d : α) (m : Tab α) (a : Nat) : Nat → List α
  | 0 => []
  | n + 1 => Tab.get d m a :: Tab.getN d m (a + 1) n

/-- Consecutive entries written from key `a`. -/
def Tab.setN {α : Type} [DecidableEq α] (d : α) (m : Tab α) (a : Nat) : List α → Tab α
  | [] => m
  | x :: xs => Tab.setN d (Tab.set d m a x) (a + 1) xs

/-- Element `i` of a list replaced (unchanged where there is none). -/
def setAt {α : Type} : List α → Nat → α → List α
  | [], _, _ => []
  | _ :: xs, 0, y => y :: xs
  | x :: xs, i + 1, y => x :: setAt xs i y

/-- Element `i` of a list, or `d`. -/
def nth {α : Type} (d : α) : List α → Nat → α
  | [], _ => d
  | x :: _, 0 => x
  | _ :: xs, i + 1 => nth d xs i

/-- The lanes of a mask, lowest first. -/
def lanesOf (m : Mask) : List Nat := (List.range 64).filter (fun l => m.has l)

/-- The mask of the lanes below `w`. -/
def laneMask (w : Nat) : Mask := BitVec.ofNat 64 (2 ^ w - 1)

/-- The mask of the lanes of which `p` holds, among 64. -/
def maskOf (p : Nat → Bool) : Mask :=
  (List.range 64).foldl (fun m l => if p l then m ||| Mask.single l else m) 0

/-- How many bits of a number's low `w` bits are 1. -/
def popCount : Nat → Nat → Nat
  | 0, _ => 0
  | w + 1, x => x % 2 + popCount w (x / 2)

end Sys2Proof.Machine
end

