-- ==== Sys2Proof/Machine/Num.lean ====
section
/-!
DEFINITION. Number formats and arithmetic exactness (03_numbers R47 to R63): exact dyadic values, decoding, the
rounding step RoundTo, stochastic rounding, integers and block scales.
-/
namespace Sys2Proof.Machine

/-- The sixteen type codes (02_encoding R36). -/
inductive Ty where
  | i32 | n32 | b32 | i16 | n16 | b16 | i8 | n8 | b8 | f32 | f16 | bf16 | e4m3 | e5m2 | mx4 | mt8
  deriving DecidableEq, Repr

/-- The type a 4-bit type code names (02_encoding R36). -/
def Ty.ofCode (c : Nat) : Ty :=
  nth .mt8 [.i32, .n32, .b32, .i16, .n16, .b16, .i8, .n8, .b8, .f32, .f16, .bf16, .e4m3, .e5m2, .mx4, .mt8] c

/-- The code of a type (02_encoding R36). -/
def Ty.code (t : Ty) : Nat := ((List.range 16).find? (fun c => Ty.ofCode c = t)).getD 0

/-- The width of a type in bits (02_encoding R36, 03_numbers R47). -/
def Ty.width : Ty → Nat
  | .i32 | .n32 | .b32 | .f32 => 32
  | .i16 | .n16 | .b16 | .f16 | .bf16 => 16
  | .i8 | .n8 | .b8 | .e4m3 | .e5m2 | .mt8 => 8
  | .mx4 => 4

/-- The signed integer types. -/
def Ty.isI : Ty → Bool
  | .i32 | .i16 | .i8 => true
  | _ => false

/-- The unsigned integer types. -/
def Ty.isN : Ty → Bool
  | .n32 | .n16 | .n8 => true
  | _ => false

/-- The raw bit types. -/
def Ty.isB : Ty → Bool
  | .b32 | .b16 | .b8 => true
  | _ => false

/-- The float types, MT8 and the E2M1 element among them. -/
def Ty.isFloat (t : Ty) : Bool := !(t.isI || t.isN || t.isB)

/-- How many elements a 32-bit value of a type holds (03_numbers R52). -/
def Ty.count (t : Ty) : Nat := 32 / t.width

/-- Element `i` of a value of type `t` (03_numbers R52). -/
def el (t : Ty) (x : Word) (i : Nat) : Nat := bits x.toNat (t.width * (i + 1) - 1) (t.width * i)

/-- The elements of a value of type `t`. -/
def els (t : Ty) (x : Word) : List Nat := (List.range t.count).map (el t x)

/-- The value whose element i is the i-th of a list (04_lane R64, Put). -/
def put (t : Ty) (xs : List Nat) : Word :=
  BitVec.ofNat 32 (xs.foldr (fun e acc => e % 2 ^ t.width + 2 ^ t.width * acc) 0)

/-- The bits of %fstat (03_numbers R53). -/
abbrev Flags := BitVec 6

/-- No bit of %fstat. -/
def Flags.none : Flags := 0
/-- NV: invalid. -/
def Flags.nv : Flags := 1
/-- DZ: division by zero. -/
def Flags.dz : Flags := 2
/-- OF: a finite result beyond the range, or a value clamped to the largest finite. -/
def Flags.of : Flags := 4
/-- UF: tiny and inexact, or an operand flushed. -/
def Flags.uf : Flags := 8
/-- NX: inexact. -/
def Flags.nx : Flags := 16
/-- SAT: an integer clamp. -/
def Flags.sat : Flags := 32

/-- A flag raised under a condition. -/
def Flags.when (c : Bool) (f : Flags) : Flags := if c then f else 0

/-- The two flush modes of %fmode (03_numbers R53, R56). -/
structure FMode where
  ftz32 : Bool := false
  ftzn : Bool := false
  deriving DecidableEq, Repr

/-- The rounding modes of MOD1 (02_encoding R31); `sr` carries u, bits [31:8] of the random word (03_numbers R55). -/
inductive Rnd where
  | rne | rz | ru | rd
  | sr (u : Nat)
  deriving DecidableEq, Repr

/-- The directed rounding mode of a MOD1 code. -/
def Rnd.ofCode (c : Nat) : Rnd := nth .rne [.rne, .rz, .ru, .rd] c

/-- The number of a rounding mode. -/
def Rnd.num : Rnd → Nat
  | .rne => 0 | .rz => 1 | .ru => 2 | .rd => 3 | .sr _ => 4

/-- An exact value: a NaN, an infinity, or (-1)^neg x m x 2^e (03_numbers R9, R47). -/
inductive Val where
  | nan
  | inf (neg : Bool)
  | fin (neg : Bool) (m : Nat) (e : Int)
  deriving DecidableEq, Repr

/-- Zero of a sign. -/
def Val.zero (neg : Bool) : Val := .fin neg 0 0

/-- The sign of a value (a NaN has none). -/
def Val.neg : Val → Bool
  | .nan => false
  | .inf n => n
  | .fin n _ _ => n

/-- The value is a NaN. -/
def Val.isNan : Val → Bool
  | .nan => true
  | _ => false

/-- The value is zero of either sign. -/
def Val.isZero : Val → Bool
  | .fin _ m _ => m = 0
  | _ => false

/-- The value with its sign turned. -/
def Val.negate : Val → Val
  | .nan => .nan
  | .inf n => .inf (!n)
  | .fin n m e => .fin (!n) m e

/-- The magnitude of a value. -/
def Val.abs : Val → Val
  | .nan => .nan
  | .inf _ => .inf false
  | .fin _ m e => .fin false m e

/-- A mantissa m x 2^e written at the smaller exponent e0. -/
def scaleTo (m : Nat) (e e0 : Int) : Nat := m <<< (e - e0).toNat

/-- Comparison of two magnitudes m x 2^e. -/
def cmpMag (m1 : Nat) (e1 : Int) (m2 : Nat) (e2 : Int) : Ordering :=
  let e0 := min e1 e2
  compare (scaleTo m1 e1 e0) (scaleTo m2 e2 e0)

/-- The signed mantissa of a finite value at exponent e0. -/
def signedMant (neg : Bool) (m : Nat) (e e0 : Int) : Int :=
  if neg then -(scaleTo m e e0 : Int) else (scaleTo m e e0 : Int)

/-- a < b on numbers (no NaN), zeros of either sign equal. -/
def Val.lt : Val → Val → Bool
  | .nan, _ => false
  | _, .nan => false
  | .inf n, .inf n' => n && !n'
  | .inf n, .fin _ _ _ => n
  | .fin _ _ _, .inf n => !n
  | .fin n m e, .fin n' m' e' =>
    let e0 := min e e'
    signedMant n m e e0 < signedMant n' m' e' e0

/-- a = b on numbers (no NaN), zeros of either sign equal. -/
def Val.eq (a b : Val) : Bool := !a.isNan && !b.isNan && !a.lt b && !b.lt a

/-- The parameters of an IEEE-like format (03_numbers R47); `maxCode` is the magnitude encoding of the largest finite. -/
structure FFmt where
  expBits : Nat
  manBits : Nat
  bias : Nat
  maxCode : Nat
  hasInf : Bool
  deriving DecidableEq, Repr

/-- The parameters of each float format (03_numbers R47); MT8 is decoded by R49 and has no entry of its own. -/
def Ty.fmt : Ty → FFmt
  | .f16 => ⟨5, 10, 15, 0x7BFF, true⟩
  | .bf16 => ⟨8, 7, 127, 0x7F7F, true⟩
  | .e4m3 => ⟨4, 3, 7, 0x7E, false⟩
  | .e5m2 => ⟨5, 2, 15, 0x7B, true⟩
  | .mx4 => ⟨2, 1, 1, 0x7, false⟩
  | .mt8 => ⟨0, 7, 0, 0x7F, false⟩
  | _ => ⟨8, 23, 127, 0x7F7FFFFF, true⟩

/-- The canonical NaN of a format as an encoding (03_numbers R47; MT8 R49; E2M1 and integers +0, R54). -/
def Ty.canonNan : Ty → Nat
  | .f32 => 0x7FC00000
  | .f16 => 0x7E00
  | .bf16 => 0x7FC0
  | .e4m3 => 0x7F
  | .e5m2 => 0x7E
  | .mt8 => 0x80
  | _ => 0

/-- The magnitude of an MT8 body as (m, e) (03_numbers R49). Body 0x80, one past the largest, is 16. -/
def mt8Mag (body : Nat) : Nat × Int :=
  if body = 0 then (0, 0)
  else if body ≥ 128 then (1, 4)
  else
    let z := 6 - Nat.log2 body
    let n := 6 - z
    let w := min 2 n
    let rest := body % 2 ^ n
    let e := rest / 2 ^ (n - w)
    let f := rest % 2 ^ (n - w)
    let b : Int := if z ≤ 4 then -4 * (z : Int) else if z = 5 then -20 else -24
    (2 ^ (n - w) + f, b + e - (n - w : Nat))

/-- The exponent of the smallest normal of an IEEE-like format. -/
def FFmt.emin (f : FFmt) : Int := 1 - (f.bias : Int)

/-- The magnitude of magnitude code `c` of a format, counting on past the largest finite (03_numbers R54 step 2). -/
def Ty.mag (t : Ty) (c : Nat) : Nat × Int :=
  if t = .mt8 then mt8Mag c
  else
    let f := t.fmt
    let e := c / 2 ^ f.manBits
    let m := c % 2 ^ f.manBits
    if e = 0 then (m, f.emin - f.manBits) else (2 ^ f.manBits + m, f.emin + e - 1 - f.manBits)

/-- The largest magnitude code whose value is at most m x 2^e, no more than one past the largest finite. -/
def Ty.floorCode (t : Ty) (m : Nat) (e : Int) : Nat :=
  let f := t.fmt
  if m = 0 then 0
  else if t = .mt8 then
    (List.range 128).foldl (fun acc c => if cmpMag (mt8Mag (c + 1)).1 (mt8Mag (c + 1)).2 m e = .gt then acc else c + 1) 0
  else
    let k : Int := (Nat.log2 m : Int) + e
    let ek := max k f.emin
    let ue := ek - f.manBits
    let lo := if ue ≥ e then m >>> (ue - e).toNat else m <<< (e - ue).toNat
    min (f.maxCode + 1) ((ek - f.emin).toNat * 2 ^ f.manBits + lo)

/-- A nonzero m x 2^e is tiny in a format: rounded to its precision with an unbounded exponent it lies below the smallest
normal (03_numbers R54 step 4; RNE stands for .sr; MT8: below 2^-24). -/
def Ty.tiny (t : Ty) (rnd : Rnd) (neg : Bool) (m : Nat) (e : Int) : Bool :=
  if m = 0 then false
  else if t = .mt8 then cmpMag m e 1 (-24) = .lt
  else
    let f := t.fmt
    let k : Int := (Nat.log2 m : Int) + e
    if k ≥ f.emin then false
    else if k < f.emin - 1 then true
    else
      let ue := k - f.manBits
      if ue ≤ e then true
      else
        let sh := (ue - e).toNat
        let lo := m >>> sh
        let rem := m % 2 ^ sh
        let up : Bool := match rnd with
          | .rne | .sr _ => 2 * rem > 2 ^ sh || (2 * rem = 2 ^ sh && lo % 2 = 1)
          | .rz => false
          | .ru => !neg && rem ≠ 0
          | .rd => neg && rem ≠ 0
        !(up && lo + 1 = 2 ^ (f.manBits + 1))

/-- The flush mode bit that covers a format (03_numbers R56). -/
def Ty.flushed (t : Ty) (fm : FMode) : Bool :=
  match t with
  | .f32 => fm.ftz32
  | .f16 | .bf16 | .e4m3 | .e5m2 | .mx4 => fm.ftzn
  | _ => false

/-- An encoding of a format from sign and magnitude code; MT8 has no negative zero (03_numbers R49). -/
def Ty.encode (t : Ty) (neg : Bool) (code : Nat) : Nat :=
  if t = .mt8 ∧ code = 0 then 0 else (if neg then 2 ^ (t.width - 1) else 0) + code

/-- Whether rounding goes up in magnitude, between magnitudes of codes lo and lo + 1, for an x strictly between them
(03_numbers R54 step 2, R55). -/
def roundsUp (t : Ty) (rnd : Rnd) (neg : Bool) (lo : Nat) (m : Nat) (e : Int) : Bool :=
  let (ml, el) := t.mag lo
  let (mh, eh) := t.mag (lo + 1)
  let e0 := min e (min el eh)
  let x := scaleTo m e e0
  let l := scaleTo ml el e0
  let h := scaleTo mh eh e0
  match rnd with
  | .rne => 2 * x > l + h || (2 * x = l + h && lo % 2 = 1)
  | .rz => false
  | .ru => !neg
  | .rd => neg
  | .sr u => u < (x - l) * 2 ^ 24 / (h - l)

/-- What a finite x rounding beyond the largest finite gives (03_numbers R54 step 3). -/
def overflowCode (t : Ty) (rnd : Rnd) (neg : Bool) : Nat :=
  let f := t.fmt
  match t with
  | .f32 | .f16 | .bf16 =>
    let toInf : Bool := match rnd with
      | .rne => true
      | .rz | .sr _ => false
      | .ru => !neg
      | .rd => neg
    if toInf then f.maxCode + 1 else f.maxCode
  | _ => f.maxCode

/-- RoundTo of 03_numbers R54 for a float target: the encoding and the %fstat bits raised. -/
def roundTo (t : Ty) (fm : FMode) (rnd : Rnd) : Val → Nat × Flags
  | .nan => (t.canonNan, if t = .mx4 then .nv else .none)
  | .inf neg =>
    match t with
    | .f32 | .f16 | .bf16 | .e5m2 => (t.encode neg (t.fmt.maxCode + 1), .none)
    | _ => (t.encode neg t.fmt.maxCode, .of)
  | .fin neg m e =>
    if m = 0 then (t.encode neg 0, .none)
    else
      let f := t.fmt
      let lo := t.floorCode m e
      let (ml, el) := t.mag lo
      let exact : Bool := cmpMag ml el m e = .eq
      let past : Bool := match rnd with   -- under .sr a value beyond the largest finite has no upper neighbour (R55)
        | .sr _ => lo = f.maxCode
        | _ => false
      let code := if exact || f.maxCode < lo then lo
        else if past || roundsUp t rnd neg lo m e then lo + 1 else lo
      let tiny := t.tiny rnd neg m e
      if tiny && t.flushed fm then (t.encode neg 0, .nx ||| .uf)
      else if code > f.maxCode then (t.encode neg (overflowCode t rnd neg), .of ||| .nx)
      else (t.encode neg code, Flags.when (!exact) (.nx ||| Flags.when tiny .uf))

/-- The range of an integer type. -/
def Ty.range (t : Ty) : Int × Int :=
  if t.isI then (-(2 ^ (t.width - 1) : Nat), (2 ^ (t.width - 1) : Nat) - 1) else (0, (2 ^ t.width : Nat) - 1)

/-- A finite value rounded to an integer in a mode (03_numbers R54 step 2 on the integers). -/
def roundInt (rnd : Rnd) (neg : Bool) (m : Nat) (e : Int) : Int :=
  let mag : Nat :=
    if e ≥ 0 then m <<< e.toNat
    else
      let sh := (-e).toNat
      let lo := m >>> sh
      let rem := m % 2 ^ sh
      let up : Bool := match rnd with
        | .rne | .sr _ => 2 * rem > 2 ^ sh || (2 * rem = 2 ^ sh && lo % 2 = 1)
        | .rz => false
        | .ru => !neg && rem ≠ 0
        | .rd => neg && rem ≠ 0
      if up then lo + 1 else lo
  if neg then -(mag : Int) else (mag : Int)

/-- A finite value is an integer. -/
def isIntegral (m : Nat) (e : Int) : Bool := e ≥ 0 || m % 2 ^ (-e).toNat = 0

/-- RoundTo of 03_numbers R54 for an integer target. -/
def roundToInt (t : Ty) (rnd : Rnd) : Val → Int × Flags
  | .nan => (0, .nv)
  | .inf neg => (if neg then t.range.1 else t.range.2, .nv)
  | .fin neg m e =>
    let i := roundInt rnd neg m e
    if i < t.range.1 then (t.range.1, .nv)
    else if i > t.range.2 then (t.range.2, .nv)
    else (i, Flags.when (!isIntegral m e) .nx)

/-- An integer clamped to a type's range, SAT when it moved (03_numbers R52, 04_lane R68). -/
def clampInt (t : Ty) (i : Int) : Int × Flags :=
  if i < t.range.1 then (t.range.1, .sat)
  else if i > t.range.2 then (t.range.2, .sat)
  else (i, .none)

/-- An integer as an exact value. -/
def Val.ofInt (i : Int) : Val := .fin (i < 0) i.natAbs 0

/-- The value of an encoding, before any flush (03_numbers R47 to R49). -/
def decodeRaw (t : Ty) (x : Nat) : Val :=
  let neg := bit x (t.width - 1)
  let c := x % 2 ^ (t.width - 1)
  let f := t.fmt
  if t = .mt8 then
    if x % 256 = 0x80 then .nan else .fin neg (mt8Mag c).1 (mt8Mag c).2
  else if f.hasInf && c / 2 ^ f.manBits = 2 ^ f.expBits - 1 then
    if c % 2 ^ f.manBits = 0 then .inf neg else .nan
  else if t = .e4m3 && c = 0x7F then .nan
  else .fin neg (t.mag c).1 (t.mag c).2

/-- An encoding is a nonzero subnormal of its format. -/
def isSubnormal (t : Ty) (x : Nat) : Bool :=
  let c := x % 2 ^ (t.width - 1)
  t ≠ .mt8 && c ≠ 0 && c < 2 ^ t.fmt.manBits

/-- An encoding as read under the flush modes (03_numbers R56): its value, and UF where a subnormal read as zero. -/
def decode (t : Ty) (fm : FMode) (x : Nat) : Val × Flags :=
  if isSubnormal t x && t.flushed fm then (.zero (bit x (t.width - 1)), .uf) else (decodeRaw t x, .none)

/-- The exact sum of two values; a zero sum takes the IEEE 754 sign of the mode (04_lane R74). -/
def addVal (rnd : Rnd) : Val → Val → Val × Flags
  | .nan, _ => (.nan, .none)
  | _, .nan => (.nan, .none)
  | .inf n, .inf n' => if n = n' then (.inf n, .none) else (.nan, .nv)
  | .inf n, .fin _ _ _ => (.inf n, .none)
  | .fin _ _ _, .inf n => (.inf n, .none)
  | .fin n m e, .fin n' m' e' =>
    let e0 := min e e'
    let s := signedMant n m e e0 + signedMant n' m' e' e0
    if s = 0 then
      (.zero (if m = 0 ∧ m' = 0 ∧ n = n' then n else rnd = .rd), .none)
    else (.fin (s < 0) s.natAbs e0, .none)

/-- The exact product of two values (04_lane R74; 0 x infinity is invalid, 03_numbers R53). -/
def mulVal : Val → Val → Val × Flags
  | .nan, _ => (.nan, .none)
  | _, .nan => (.nan, .none)
  | .inf n, .inf n' => (.inf (n != n'), .none)
  | .inf n, .fin n' m _ => if m = 0 then (.nan, .nv) else (.inf (n != n'), .none)
  | .fin n m _, .inf n' => if m = 0 then (.nan, .nv) else (.inf (n != n'), .none)
  | .fin n m e, .fin n' m' e' => (.fin (n != n') (m * m') (e + e'), .none)

/-- a + b rounded once in a format (04_lane R74). -/
def fAdd (t : Ty) (fm : FMode) (rnd : Rnd) (a b : Nat) : Nat × Flags :=
  let (x, f1) := decode t fm a
  let (y, f2) := decode t fm b
  let (s, f3) := addVal rnd x y
  let (r, f4) := roundTo t fm rnd s
  (r, f1 ||| f2 ||| f3 ||| f4)

/-- a - b rounded once in a format (04_lane R74). -/
def fSub (t : Ty) (fm : FMode) (rnd : Rnd) (a b : Nat) : Nat × Flags :=
  let (x, f1) := decode t fm a
  let (y, f2) := decode t fm b
  let (s, f3) := addVal rnd x y.negate
  let (r, f4) := roundTo t fm rnd s
  (r, f1 ||| f2 ||| f3 ||| f4)

/-- a x b rounded once in a format (04_lane R74). -/
def fMul (t : Ty) (fm : FMode) (rnd : Rnd) (a b : Nat) : Nat × Flags :=
  let (x, f1) := decode t fm a
  let (y, f2) := decode t fm b
  let (p, f3) := mulVal x y
  let (r, f4) := roundTo t fm rnd p
  (r, f1 ||| f2 ||| f3 ||| f4)

/-- a x b + c with no rounding of the product (04_lane R74). -/
def fFma (t : Ty) (fm : FMode) (rnd : Rnd) (a b c : Nat) : Nat × Flags :=
  let (x, f1) := decode t fm a
  let (y, f2) := decode t fm b
  let (z, f3) := decode t fm c
  let (p, f4) := mulVal x y
  let (s, f5) := addVal rnd p z
  let (r, f6) := roundTo t fm rnd s
  (r, f1 ||| f2 ||| f3 ||| f4 ||| f5 ||| f6)

/-- An encoding as a comparison reads it: a subnormal under a flush mode is zero of its sign (04_lane R75). -/
def flushEnc (t : Ty) (fm : FMode) (x : Nat) : Nat :=
  if isSubnormal t x && t.flushed fm then t.encode (bit x (t.width - 1)) 0 else x % 2 ^ t.width

/-- a is before b in the order of min and max, where -0 is less than +0 (04_lane R75). -/
def fBefore (a b : Val) : Bool := a.lt b || (a.isZero && b.isZero && a.neg && !b.neg)

/-- min of two encodings (04_lane R75). -/
def fMin (t : Ty) (fm : FMode) (a b : Nat) : Nat :=
  let a' := flushEnc t fm a
  let b' := flushEnc t fm b
  let x := decodeRaw t a'
  let y := decodeRaw t b'
  if x.isNan && y.isNan then t.canonNan
  else if x.isNan then b'
  else if y.isNan then a'
  else if fBefore y x then b' else a'

/-- max of two encodings (04_lane R75). -/
def fMax (t : Ty) (fm : FMode) (a b : Nat) : Nat :=
  let a' := flushEnc t fm a
  let b' := flushEnc t fm b
  let x := decodeRaw t a'
  let y := decodeRaw t b'
  if x.isNan && y.isNan then t.canonNan
  else if x.isNan then b'
  else if y.isNan then a'
  else if fBefore x y then b' else a'

/-- frnd: an integral value in the same format, no flag (04_lane R77). -/
def fRnd (t : Ty) (fm : FMode) (rnd : Rnd) (a : Nat) : Nat :=
  match (decode t fm a).1 with
  | .nan => t.canonNan
  | .inf n => t.encode n (t.fmt.maxCode + 1)
  | .fin n m e => (roundTo t {} .rne (.fin n (roundInt rnd n m e).natAbs 0)).1

/-- fclass: the class mask of an encoding (04_lane R78). -/
def fClass (t : Ty) (x : Nat) : Nat :=
  let n := bit x (t.width - 1)
  match decodeRaw t x with
  | .nan => if bit x (t.fmt.manBits - 1) then 512 else 256
  | .inf _ => if n then 1 else 128
  | .fin _ m _ =>
    if m = 0 then (if n then 8 else 16)
    else if isSubnormal t x then (if n then 4 else 32)
    else if n then 2 else 64

/-- One of the fourteen float conditions on two encodings (02_encoding R36, 04_lane R80). -/
def fCond (t : Ty) (fm : FMode) (cond a b : Nat) : Bool :=
  let x := (decode t fm a).1
  let y := (decode t fm b).1
  let un := x.isNan || y.isNan
  match cond with
  | 0 => !un && x.eq y
  | 1 => !un && !x.eq y
  | 2 => !un && x.lt y
  | 3 => !un && !y.lt x
  | 4 => !un && y.lt x
  | 5 => !un && !x.lt y
  | 6 => !un
  | 7 => un
  | 8 => un || x.eq y
  | 9 => un || !x.eq y
  | 10 => un || x.lt y
  | 11 => un || !y.lt x
  | 12 => un || y.lt x
  | _ => un || !x.lt y

/-- One of the ten integer conditions on two words (02_encoding R36). -/
def iCond (cond : Nat) (a b : Word) : Bool :=
  match cond with
  | 0 => a == b
  | 1 => a != b
  | 2 => a.slt b
  | 3 => a.sle b
  | 4 => b.slt a
  | 5 => b.sle a
  | 6 => a.ult b
  | 7 => a.ule b
  | 8 => b.ult a
  | _ => b.ule a

/-- One step of the stochastic generator (03_numbers R57). -/
def rngNext (s : Word) : Word :=
  let s := s ^^^ (s <<< 13)
  let s := s ^^^ (s >>> 17)
  s ^^^ (s <<< 5)

/-- u of 03_numbers R55 from a state rotated left by `k`: bits [31:8] of the random word. -/
def rngU (state : Word) (k : Nat) : Nat := (state.rotateLeft (k % 32)).toNat >>> 8

/-- A seed as a generator stores it: zero stores one (03_numbers R57). -/
def seedOf (x : Word) : Word := if x = 0 then 1 else x

/-- The E8M0 scale exponent; none is the NaN scale (03_numbers R50). -/
def e8m0 (x : Nat) : Option Int := if x = 0xFF then none else some ((x : Int) - 127)

/-- A value times a power of two. -/
def Val.scale (v : Val) (k : Int) : Val :=
  match v with
  | .fin n m e => .fin n m (e + k)
  | v => v

/-- The emax by which a block's scale is chosen (03_numbers R51). -/
def Ty.emaxBlock : Ty → Int
  | .mx4 => 2
  | .e4m3 => 8
  | .e5m2 => 15
  | _ => 3

/-- The E8M0 scale of 32 binary32 inputs (03_numbers R51). -/
def blockScale (t : Ty) (xs : List Val) : Nat :=
  let bad := xs.any (fun v => match v with | .nan | .inf _ => true | _ => false)
  let top := xs.foldl (fun (acc : Option Int) v => match v with
    | .fin _ m e =>
      if m = 0 then acc
      else
        let k : Int := (Nat.log2 m : Int) + e
        match acc with
        | none => some k
        | some a => some (max a k)
    | _ => acc) none
  if bad then 0xFF
  else match top with
    | none => 0
    | some k => (max (-127) (min 127 (k - t.emaxBlock)) + 127).toNat

/-- The elements of a block formed under a given scale (03_numbers R51): element i of x / scale, with its rounding. -/
def blockElems (t : Ty) (fm : FMode) (scale : Nat) (xs : List (Val × Rnd)) : List (Nat × Flags) :=
  match e8m0 scale with
  | none => xs.map (fun _ => (0, Flags.none))
  | some k => xs.map (fun p => roundTo t fm p.2 (p.1.scale (-k)))

end Sys2Proof.Machine
end

