-- ==== Sys2Proof/Syntax.lean ====
section
/-!
DEFINITION. The abstract syntax: one constructor of `Instr` for each row of the opcode table (02_encoding R36) and each
event of the machine. An instruction carries its encoding's fields under the specification's names (02_encoding R30, R31);
which fields are reserved, and which hold operand codes, is said in WellFormed. An event names the object it acts on and
carries the data that comes from outside the module.
-/
namespace Sys2Proof

/-- Word 0 of a VA instruction (R30), with the literal it reads where a field holds 0xF0 (else 0). -/
structure VaWord where
  guard : BitVec 4
  d : BitVec 7
  a : BitVec 8
  b : BitVec 8
  lit : Word
  deriving DecidableEq, Repr

/-- Word 0 of a VC instruction: D splits into COND and QD (R30). -/
structure VcWord where
  guard : BitVec 4
  cond : BitVec 4
  qd : BitVec 3
  a : BitVec 8
  b : BitVec 8
  lit : Word
  deriving DecidableEq, Repr

/-- The short memory format of VL and VS (R30). -/
structure ShortMem where
  guard : BitVec 4
  r : BitVec 7
  a : BitVec 8
  fs : Bool
  sp : Bool
  off : BitVec 6
  lit : Word
  deriving DecidableEq, Repr

/-- A one-word SC instruction (R30, R87). -/
structure ScWord where
  d : BitVec 6
  a : BitVec 8
  b : BitVec 8
  lit : Word
  deriving DecidableEq, Repr

/-- A CF instruction: guard and payload (R30, R202). -/
structure CfWord where
  guard : BitVec 4
  pay : BitVec 19
  deriving DecidableEq, Repr

/-- The fields that word 1 adds, but for its minor (R31). -/
structure Word1 where
  c : BitVec 8
  fs : Bool
  nr : Bool
  mod1 : BitVec 3
  mod2 : BitVec 7
  deriving DecidableEq, Repr

/-- A two-word instruction whose constructor fixes major and minor (R30, R31). -/
structure TwoWord where
  guard : BitVec 4
  d : BitVec 7
  a : BitVec 8
  b : BitVec 8
  x : Word1
  lit : Word
  deriving DecidableEq, Repr

/-- A VX instruction: the constructor fixes the operation, `ty` is the type code of MINOR[3:0] (R36, R67). -/
structure VxWord where
  ty : BitVec 4
  w : TwoWord
  deriving DecidableEq, Repr

/-- An SC escape: the scalar word 0 and word 1 (R88). -/
structure SxWord where
  d : BitVec 6
  a : BitVec 8
  b : BitVec 8
  x : Word1
  lit : Word
  deriving DecidableEq, Repr

/-- How an access of another module, or a memory read, ended (05_memory R106, 18_link R362). -/
inductive IoEnd where
  /-- performed -/
  | ok
  /-- performed, after a soft error on a die that the code corrected (19_device R384) -/
  | fixed (die : Nat)
  /-- an uncorrectable memory error -/
  | memerr
  /-- the remote module cannot be reached -/
  | link
  deriving DecidableEq, Repr

/-- The body of an append message: a launch record as its 16 words (18_link R368, 08_queue R160). -/
abbrev RecordWords := List Word

/-- What a remote access asks of its home module (18_link R364). -/
inductive RemoteOp where
  /-- a read of n bytes; `copy`: by a copy engine, which may reach a page that carries C (05_memory R124) -/
  | load (n : Nat) (copy : Bool)
  | store (bytes : List Nat) (copy : Bool)
  /-- operation and type codes of 05_memory R109, operand and compare value -/
  | atomic (op ty : Nat) (b c : Word)
  /-- one element of a copy engine's REDUCE (13_transfer R243): its type code, FTZN and FTZ32, the rounding of its result
  (number, and u where stochastic), and the binary32 value added -/
  | reduce (fd : Nat) (ftzn ftz32 : Bool) (rnd u : Nat) (x : Nat)
  deriving DecidableEq, Repr

/-- An append as it arrives: the module id of its sender, and the record (08_queue R163, 18_link R368). -/
structure AppendMsg where
  src : Nat
  words : RecordWords
  deriving DecidableEq, Repr

/-- What a write of the host carries: its bytes, and the byte enables (19_device R397). -/
structure HostData where
  data : Nat
  en : Nat
  deriving DecidableEq, Repr

/-- How the training of a port ends (18_link R360): the lanes that work, the peer, and whether its identity verifies. -/
structure Trained where
  port : Nat
  lanes : Nat
  peer : Nat
  peerPort : Nat
  verified : Bool
  deriving DecidableEq, Repr

/-- How a cold reset goes (19_device R376, R377): the image verifies, memory trains, what firmware sets, and how the enabled
ports train. -/
structure Boot where
  code384 : Bool
  imageOk : Bool
  updateComplete : Bool
  memoryOk : Bool
  version : Nat
  minVersion : Nat
  measure : List Nat
  id : Nat
  bridge : Bool
  hconf : Bool
  devKey : List Nat
  serial : Nat
  links : List Trained := []
  deriving DecidableEq, Repr

/-- Every instruction and every event of the machine: one constructor per row of the opcode table. -/
inductive Instr where
  /-- One-word add.i32: each Active lane writes (a + b) mod 2^32 to vd. (R68) -/
  | vaAddI32 (w : VaWord)
  /-- One-word sub.i32: each Active lane writes (a - b) mod 2^32 to vd. (R68) -/
  | vaSubI32 (w : VaWord)
  /-- One-word mul.i32: each Active lane writes the low 32 bits of a × b to vd. (R68) -/
  | vaMulI32 (w : VaWord)
  /-- One-word and.b32: bitwise AND of a and b in each Active lane. (R68) -/
  | vaAndB32 (w : VaWord)
  /-- One-word or.b32: bitwise OR of a and b in each Active lane. (R68) -/
  | vaOrB32 (w : VaWord)
  /-- One-word xor.b32: bitwise XOR of a and b in each Active lane. (R68) -/
  | vaXorB32 (w : VaWord)
  /-- One-word shl.b32: shifts a left by b mod 32 with zero fill. (R69) -/
  | vaShlB32 (w : VaWord)
  /-- One-word shr.n32: logical right shift of a by b mod 32. (R69) -/
  | vaShrN32 (w : VaWord)
  /-- One-word shr.i32: arithmetic right shift of a by b mod 32. (R69) -/
  | vaShrI32 (w : VaWord)
  /-- One-word min.i32: the signed smaller of a and b. (R68) -/
  | vaMinI32 (w : VaWord)
  /-- One-word max.i32: the signed larger of a and b. (R68) -/
  | vaMaxI32 (w : VaWord)
  /-- One-word min.n32: the unsigned smaller of a and b. (R68) -/
  | vaMinN32 (w : VaWord)
  /-- One-word max.n32: the unsigned larger of a and b. (R68) -/
  | vaMaxN32 (w : VaWord)
  /-- One-word add.f32: a + b rounded RNE under FTZ32. (R74) -/
  | vaAddF32 (w : VaWord)
  /-- One-word sub.f32: a - b rounded RNE under FTZ32. (R74) -/
  | vaSubF32 (w : VaWord)
  /-- One-word mul.f32: a × b rounded RNE under FTZ32. (R74) -/
  | vaMulF32 (w : VaWord)
  /-- One-word min.f32 with NaN-ignoring and -0 < +0 rules, raising no flag. (R75) -/
  | vaMinF32 (w : VaWord)
  /-- One-word max.f32 with NaN-ignoring and -0 < +0 rules, raising no flag. (R75) -/
  | vaMaxF32 (w : VaWord)
  /-- One-word andn.b32: a AND NOT b in each Active lane. (R68) -/
  | vaAndnB32 (w : VaWord)
  /-- One-word mov.b32 copies operand B to vd in each Active lane. (R83) -/
  | vaMovB32 (w : VaWord)
  /-- One-word integer compare writes the COND result per Active lane to predicate QD. (R80) -/
  | cmpInt (w : VcWord)
  /-- One-word .f32 compare writes the COND result per Active lane to predicate QD. (R80) -/
  | cmpFloat (w : VcWord)
  /-- Short load of 32 bits per lane from A + 4 × OFF in global or scratchpad space. (R102) -/
  | ldo (w : ShortMem)
  /-- Short store of 32 bits per lane to A + 4 × OFF in global or scratchpad space. (R102) -/
  | sto (w : ShortMem)
  /-- Scalar add.i32 on s-register values, once per issue. (R87) -/
  | scAddI32 (w : ScWord)
  /-- Scalar sub.i32. (R87) -/
  | scSubI32 (w : ScWord)
  /-- Scalar mul.i32. (R87) -/
  | scMulI32 (w : ScWord)
  /-- Scalar and.b32. (R87) -/
  | scAndB32 (w : ScWord)
  /-- Scalar or.b32. (R87) -/
  | scOrB32 (w : ScWord)
  /-- Scalar xor.b32. (R87) -/
  | scXorB32 (w : ScWord)
  /-- Scalar shl.b32. (R87) -/
  | scShlB32 (w : ScWord)
  /-- Scalar shr.n32. (R87) -/
  | scShrN32 (w : ScWord)
  /-- Scalar shr.i32. (R87) -/
  | scShrI32 (w : ScWord)
  /-- Scalar min.i32. (R87) -/
  | scMinI32 (w : ScWord)
  /-- Scalar max.i32. (R87) -/
  | scMaxI32 (w : ScWord)
  /-- Scalar min.n32. (R87) -/
  | scMinN32 (w : ScWord)
  /-- Scalar max.n32. (R87) -/
  | scMaxN32 (w : ScWord)
  /-- Scalar mov.b32 copies operand B to sd. (R87) -/
  | scMovB32 (w : ScWord)
  /-- Scalar slt.i32 writes 1 if a < b signed, else 0. (R87) -/
  | scSltI32 (w : ScWord)
  /-- Scalar slt.n32 writes 1 if a < b unsigned, else 0. (R87) -/
  | scSltN32 (w : ScWord)
  /-- Scalar seq.b32 writes 1 if a = b, else 0. (R87) -/
  | scSeqB32 (w : ScWord)
  /-- Scalar popc.b32 counts the 1 bits of a. (R87) -/
  | scPopcB32 (w : ScWord)
  /-- Scalar clz.b32 counts leading zeros of a. (R87) -/
  | scClzB32 (w : ScWord)
  /-- Scalar add.f32, RNE under FTZ32, setting %fstat. (R87) -/
  | scAddF32 (w : ScWord)
  /-- Scalar mul.f32, RNE under FTZ32. (R87) -/
  | scMulF32 (w : ScWord)
  /-- Scalar min.f32 under R75. (R87) -/
  | scMinF32 (w : ScWord)
  /-- Scalar max.f32 under R75. (R87) -/
  | scMaxF32 (w : ScWord)
  /-- Scalar escape mad: (a × b + c) mod 2^32. (R88) -/
  | scMad (w : SxWord)
  /-- Scalar escape fma.f32 rounded once RNE under FTZ32. (R88) -/
  | scFma (w : SxWord)
  /-- Scalar escape bit-field extract under R71. (R88) -/
  | scBfe (w : SxWord)
  /-- Scalar escape bit-field insert with base c. (R88) -/
  | scBfi (w : SxWord)
  /-- Scalar escape conversion among .f32, .f16, .bf16, .i32 and .n32. (R88) -/
  | scCvt (w : SxWord)
  /-- Scalar escape select: c != 0 ? a : b. (R88) -/
  | scSel (w : SxWord)
  /-- Branch: Active lanes go to own + 4 × simm19, other issued lanes to the next clause. (R203) -/
  | cfBra (w : CfWord)
  /-- Unconditional jump of every issued lane to own + 4 × simm19. (R203) -/
  | cfJmp (w : CfWord)
  /-- Call: checks depth, pushes the return address on each Active lane's stack and jumps. (R203) -/
  | cfCall (w : CfWord)
  /-- Return: pops each issued lane's return address from its stack. (R203) -/
  | cfRet (w : CfWord)
  /-- Indirect branch of Active lanes to the operand address, ALIGN-checked. (R203) -/
  | cfBrx (w : CfWord)
  /-- Indirect call to the operand address with a return push. (R203) -/
  | cfCallx (w : CfWord)
  /-- Writes the label address to MR in every Active lane. (R193) -/
  | cfMeet (w : CfWord)
  /-- Every issued lane exits, acting first as tcommit and releasing reservations. (R203) -/
  | cfExit (w : CfWord)
  /-- Every Active lane exits at once, marking a bound view sample discarded and dropping net rows. (R203) -/
  | cfKill (w : CfWord)
  /-- Marks the issued lanes StepAside for the next pick and closes the group's gather windows. (R197) -/
  | cfYield (w : CfWord)
  /-- Branches every issued lane when the named s-register is zero. (R203) -/
  | cfJz (w : CfWord)
  /-- Branches every issued lane when the named s-register is non-zero. (R203) -/
  | cfJnz (w : CfWord)
  /-- No effect. (R203) -/
  | cfNop (w : CfWord)
  /-- Two-word add for integer (wrapping) or float (rounded per MOD1) types. (R68) -/
  | vxAdd (w : VxWord)
  /-- Two-word sub for integer or float types. (R68) -/
  | vxSub (w : VxWord)
  /-- Two-word mul for integer or float types. (R68) -/
  | vxMul (w : VxWord)
  /-- Two-word bitwise AND on .b types. (R68) -/
  | vxAnd (w : VxWord)
  /-- Two-word bitwise OR on .b types. (R68) -/
  | vxOr (w : VxWord)
  /-- Two-word bitwise XOR on .b types. (R68) -/
  | vxXor (w : VxWord)
  /-- Two-word element shift left by b mod w. (R69) -/
  | vxShl (w : VxWord)
  /-- Two-word element shift right, logical or arithmetic by type. (R69) -/
  | vxShr (w : VxWord)
  /-- Two-word minimum of integer or float elements. (R68) -/
  | vxMin (w : VxWord)
  /-- Two-word maximum of integer or float elements. (R68) -/
  | vxMax (w : VxWord)
  /-- Two-word a AND NOT b. (R68) -/
  | vxAndn (w : VxWord)
  /-- Two-word move of operand B to vd. (R83) -/
  | vxMov (w : VxWord)
  /-- Saturating add, setting SAT when clamped. (R68) -/
  | vxAdds (w : VxWord)
  /-- Saturating subtract, setting SAT when clamped. (R68) -/
  | vxSubs (w : VxWord)
  /-- High 32 bits of the 64-bit product. (R68) -/
  | vxMulhi (w : VxWord)
  /-- Integer multiply-add (a × b + c) mod 2^32. (R68) -/
  | vxMad (w : VxWord)
  /-- Absolute value of integer elements, or sign clear of float elements. (R68) -/
  | vxAbs (w : VxWord)
  /-- Negation of integer elements, or sign flip of float elements. (R68) -/
  | vxNeg (w : VxWord)
  /-- Computes (A + (B << s)) mod 2^32. (R70) -/
  | vxLea (w : VxWord)
  /-- Extracts a bit field described by a control word. (R71) -/
  | vxBfe (w : VxWord)
  /-- Inserts a's low bits into c at the described field. (R71) -/
  | vxBfi (w : VxWord)
  /-- Funnel shift left of (A:B) by C mod 32. (R72) -/
  | vxFshl (w : VxWord)
  /-- Funnel shift right of (A:B) by C mod 32. (R72) -/
  | vxFshr (w : VxWord)
  /-- Population count of A. (R73) -/
  | vxPopc (w : VxWord)
  /-- Leading-zero count of A. (R73) -/
  | vxClz (w : VxWord)
  /-- Bit reversal of A. (R73) -/
  | vxBrev (w : VxWord)
  /-- Two-word typed compare writing a predicate per Active lane. (R80) -/
  | vxCmp (w : VxWord)
  /-- Fused multiply-add rounded once in the MOD1 mode. (R74) -/
  | vxFma (w : VxWord)
  /-- Computes min(max(A, B), C). (R75) -/
  | vxClamp (w : VxWord)
  /-- Rounds each element to an integral value in its own format. (R77) -/
  | vxFrnd (w : VxWord)
  /-- Writes a one-hot class mask of each element's encoding. (R78) -/
  | vxFclass (w : VxWord)
  /-- Correctly rounded reciprocal on the special-function unit. (R79) -/
  | vxRcp (w : VxWord)
  /-- Correctly rounded reciprocal square root. (R79) -/
  | vxRsq (w : VxWord)
  /-- Correctly rounded square root. (R79) -/
  | vxSqrt (w : VxWord)
  /-- Correctly rounded 2^x. (R79) -/
  | vxExp2 (w : VxWord)
  /-- Correctly rounded log2 x. (R79) -/
  | vxLog2 (w : VxWord)
  /-- Correctly rounded sin(πx). (R79) -/
  | vxSinpi (w : VxWord)
  /-- Correctly rounded cos(πx). (R79) -/
  | vxCospi (w : VxWord)
  /-- Correctly rounded tanh x. (R79) -/
  | vxTanh (w : VxWord)
  /-- Correctly rounded logistic sigmoid. (R79) -/
  | vxSigm (w : VxWord)
  /-- Selects A or B per lane by predicate q[k] XOR n. (R82) -/
  | vxSel (w : VxWord)
  /-- Predicate AND of two selectors into QD. (R81) -/
  | vxPand (w : VxWord)
  /-- Predicate OR of two selectors into QD. (R81) -/
  | vxPor (w : VxWord)
  /-- Predicate XOR of two selectors into QD. (R81) -/
  | vxPxor (w : VxWord)
  /-- Predicate NOT of one selector into QD. (R81) -/
  | vxPnot (w : VxWord)
  /-- Converts one element between listed types with rounding, optional .sr and amax update. (R84) -/
  | vxCvt (w : VxWord)
  /-- Converts A and B and packs them as elements of vd. (R85) -/
  | vxPack (w : VxWord)
  /-- Widens element e of A to 32 bits. (R86) -/
  | vxUnpack (w : VxWord)
  /-- Each Active lane reads the source from lane c, else its own. (R206) -/
  | xlLpullAbs (w : TwoWord)
  /-- Each Active lane reads the source from lane L - c. (R206) -/
  | xlLpullBel (w : TwoWord)
  /-- Each Active lane reads the source from lane L + c. (R206) -/
  | xlLpullAbv (w : TwoWord)
  /-- Each Active lane reads the source from lane L XOR c. (R206) -/
  | xlLpullXor (w : TwoWord)
  /-- Broadcasts va of lane k to every Active lane. (R206) -/
  | xlBcast (w : TwoWord)
  /-- Writes va of lane k into an s-register. (R206) -/
  | xlLpeek (w : TwoWord)
  /-- Writes a scalar into vd of lane k only. (R206) -/
  | xlLpoke (w : TwoWord)
  /-- Writes the AND of a predicate over Active. (R207) -/
  | xlVoteAll (w : TwoWord)
  /-- Writes the OR of a predicate over Active. (R207) -/
  | xlVoteAny (w : TwoWord)
  /-- Writes whether a predicate is uniform over Active. (R207) -/
  | xlVoteEq (w : TwoWord)
  /-- Writes the lane mask of a predicate to every Active lane. (R207) -/
  | xlBallot (w : TwoWord)
  /-- Inclusive or exclusive prefix sum over Active. (R208) -/
  | xlScanAdd (w : TwoWord)
  /-- Prefix minimum over Active. (R208) -/
  | xlScanMin (w : TwoWord)
  /-- Prefix maximum over Active. (R208) -/
  | xlScanMax (w : TwoWord)
  /-- Sum over Active written to every Active lane. (R208) -/
  | xlRedAdd (w : TwoWord)
  /-- Minimum over Active. (R208) -/
  | xlRedMin (w : TwoWord)
  /-- Maximum over Active. (R208) -/
  | xlRedMax (w : TwoWord)
  /-- Bitwise AND over Active. (R208) -/
  | xlRedAnd (w : TwoWord)
  /-- Bitwise OR over Active. (R208) -/
  | xlRedOr (w : TwoWord)
  /-- Writes the mask of Active lanes holding an equal value. (R207) -/
  | xlMatch (w : TwoWord)
  /-- Vector load of one word per Active lane from the named space. (R100) -/
  | mxLd (w : TwoWord)
  /-- Vector store forming one store-queue entry. (R100) -/
  | mxSt (w : TwoWord)
  /-- Vector load of two words per lane. (R100) -/
  | mxLdX2 (w : TwoWord)
  /-- Vector store of two words per lane. (R100) -/
  | mxStX2 (w : TwoWord)
  /-- Vector load of four words per lane. (R100) -/
  | mxLdX4 (w : TwoWord)
  /-- Vector store of four words per lane. (R100) -/
  | mxStX4 (w : TwoWord)
  /-- Acquire load at a scope, performed before every later access. (R114) -/
  | mxLdAcq (w : TwoWord)
  /-- Release store performed after every earlier access at its scope. (R114) -/
  | mxStRel (w : TwoWord)
  /-- Loads one interleaved block per lane into registers and a scale byte. (R104) -/
  | mxLdmx (w : TwoWord)
  /-- Brings a line towards the core; no architectural effect beyond A bits. (R105) -/
  | mxPref (w : TwoWord)
  /-- Scalar load once per issue into an s-register. (R101) -/
  | mxSld (w : TwoWord)
  /-- Scalar store once per issue. (R101) -/
  | mxSst (w : TwoWord)
  /-- Global load under a no-write promise. (R103) -/
  | mxLdRo (w : TwoWord)
  /-- Atomic add returning the old value. (R109) -/
  | mxAtomAdd (w : TwoWord)
  /-- Atomic minimum returning the old value. (R109) -/
  | mxAtomMin (w : TwoWord)
  /-- Atomic maximum returning the old value. (R109) -/
  | mxAtomMax (w : TwoWord)
  /-- Atomic AND returning the old value. (R109) -/
  | mxAtomAnd (w : TwoWord)
  /-- Atomic OR returning the old value. (R109) -/
  | mxAtomOr (w : TwoWord)
  /-- Atomic XOR returning the old value. (R109) -/
  | mxAtomXor (w : TwoWord)
  /-- Atomic exchange returning the old value. (R109) -/
  | mxAtomXchg (w : TwoWord)
  /-- Atomic compare-and-swap returning the old value. (R109) -/
  | mxAtomCas (w : TwoWord)
  /-- Parks the group until earlier accesses are performed at the scope and the store queue is empty. (R114) -/
  | mxFence (w : TwoWord)
  /-- Checks a tensor iterator record and queues a copy on a copy engine. (R257) -/
  | enTcopy (w : TwoWord)
  /-- Queues a copy whose outermost index comes from an index list. (R257) -/
  | enTgather (w : TwoWord)
  /-- Queues a scatter of handle rows into expert bins. (R248) -/
  | enTbin (w : TwoWord)
  /-- Loads a codebook slot directly or into its shadow. (R258) -/
  | enCbload (w : TwoWord)
  /-- Binds a Free handle to a range as Filling or Full. (R258) -/
  | enHbind (w : TwoWord)
  /-- Parks until the handle is in or enters the named state. (R258) -/
  | enHwait (w : TwoWord)
  /-- Reads a handle's state, ERR, KEEP and range into an s-register. (R258) -/
  | enHstate (w : TwoWord)
  /-- Releases a Full or idle Filling handle to Free. (R258) -/
  | enHrel (w : TwoWord)
  /-- Sets a handle's pending signal naming an event counter. (R258) -/
  | enHsig (w : TwoWord)
  /-- Sets a bin-table entry, ROWB or Drops. (R258) -/
  | enBinset (w : TwoWord)
  /-- Reads a bin-table counter or ROWB. (R258) -/
  | enBinrd (w : TwoWord)
  /-- Reads a codebook slot's status. (R258) -/
  | enCbstat (w : TwoWord)
  /-- Issues a matrix multiply-accumulate into an accumulator tile. (R272) -/
  | enMma (w : TwoWord)
  /-- Zeroes a tile. (R276) -/
  | enTzero (w : TwoWord)
  /-- Reads one tile row or column into registers. (R276) -/
  | enTget (w : TwoWord)
  /-- Writes one tile row or column from registers. (R276) -/
  | enTset (w : TwoWord)
  /-- Converts and writes a tile to memory with optional transpose, amax and clear. (R278) -/
  | enTdrain (w : TwoWord)
  /-- Sets an operand map, reserving a range-lock entry. (R270) -/
  | enOmap (w : TwoWord)
  /-- Releases an operand map and its entry once its mma complete. (R270) -/
  | enOmapRel (w : TwoWord)
  /-- Sets a tile's drain exponent. (R276) -/
  | enSxsel (w : TwoWord)
  /-- Copies a tile, optionally transposed. (R276) -/
  | enTmov (w : TwoWord)
  /-- Returns a tile's largest magnitude pattern. (R276) -/
  | enTstat (w : TwoWord)
  /-- Fills every tile row or column with one slice. (R276) -/
  | enTfill (w : TwoWord)
  /-- Enters each Active lane's network request as a row of a gather window, or hits the stitch table. (R302) -/
  | enNeval (w : TwoWord)
  /-- Closes every Open window holding a row of the group. (R302) -/
  | enNflush (w : TwoWord)
  /-- Loads an activation table's inactive bank and marks a swap pending. (R302) -/
  | enActload (w : TwoWord)
  /-- Binds or unbinds a net handle on every die of the partition. (R302) -/
  | enNbind (w : TwoWord)
  /-- Reads a net handle's status. (R302) -/
  | enNstat (w : TwoWord)
  /-- Queues amplification and rasterisation of a meshlet into every open view's tile. (R330) -/
  | gxVamp (w : TwoWord)
  /-- Closes a view, latching its strips and entering its reconstruction launch. (R330) -/
  | gxVclose (w : TwoWord)
  /-- Queues lens correction of one display tile. (R330) -/
  | gxLensmap (w : TwoWord)
  /-- Queues a copy of a display tile into the tile store for a frame. (R317) -/
  | gxPresent (w : TwoWord)
  /-- Opens the next frame after parking, latching vertical breakpoints. (R318) -/
  | gxVopen (w : TwoWord)
  /-- Binds, rebinds or unbinds a view-set slot from a record. (R314) -/
  | gxVset (w : TwoWord)
  /-- Commits a gaze pair to a gaze register. (R309) -/
  | gxGazeld (w : TwoWord)
  /-- Reads raster samples into lanes and binds their ID words. (R330) -/
  | gxVtile (w : TwoWord)
  /-- Returns the NDC sample positions of raster coordinates. (R330) -/
  | gxVcov (w : TwoWord)
  /-- Queues computation of raster coordinates for one display tile. (R330) -/
  | gxVrec (w : TwoWord)
  /-- Queues generation of primary ray records for one strip of a view. (R350) -/
  | gxRlaunch (w : TwoWord)
  /-- Loads ray records into the lanes' ray slots and binds them. (R346) -/
  | gxRload (w : TwoWord)
  /-- Writes the lanes' ray slots back to the pool, folding stacks into LOST. (R346) -/
  | gxRstore (w : TwoWord)
  /-- Tests a box node's children against each lane's ray. (R347) -/
  | gxRbox (w : TwoWord)
  /-- Tests a triangle leaf against each lane's ray and records the closest hit. (R348) -/
  | gxRtri (w : TwoWord)
  /-- Pushes a reference on the lane's short stack. (R349) -/
  | gxRspush (w : TwoWord)
  /-- Pops the short stack or reports a restart or empty marker. (R349) -/
  | gxRspop (w : TwoWord)
  /-- Writes box unions per lane or over the group. (R351) -/
  | gxBunion (w : TwoWord)
  /-- Writes the surface-area cost of each split position. (R351) -/
  | gxBsah (w : TwoWord)
  /-- Writes a quantised box node to the scratchpad. (R352) -/
  | gxBpack (w : TwoWord)
  /-- Enters a launch record from s-registers into the launch queue of its class. (R176) -/
  | syLaunch (w : TwoWord)
  /-- Appends a launch record to the entry queue of a mapped module. (R176) -/
  | syQpost (w : TwoWord)
  /-- Spawns task records into a task queue against reservations. (R176) -/
  | syTspawn (w : TwoWord)
  /-- Reserves task-queue slots for the Active lanes, all or nothing. (R176) -/
  | syTreserve (w : TwoWord)
  /-- Commits lanes and publishes their pending task records. (R176) -/
  | syTcommit (w : TwoWord)
  /-- Adds an amount to an event counter after a .sys release. (R176) -/
  | syEvsig (w : TwoWord)
  /-- Parks the group until an event counter reaches a target. (R176) -/
  | syEvwait (w : TwoWord)
  /-- Reads an event counter into an s-register. (R176) -/
  | syEvread (w : TwoWord)
  /-- Arrives at a team barrier and waits for the phase to complete. (R232) -/
  | syBsync (w : TwoWord)
  /-- Arrives at a cluster barrier with an expected count and waits. (R232) -/
  | syBsyncCluster (w : TwoWord)
  /-- Arrives at a team barrier without waiting. (R232) -/
  | syBarrive (w : TwoWord)
  /-- Waits for the team barrier phase the group arrived in. (R232) -/
  | syBwait (w : TwoWord)
  /-- Arrives on and waits at the group's sides of a role barrier. (R232) -/
  | syRsync (w : TwoWord)
  /-- Arrives on the FULL or EMPTY side by role. (R232) -/
  | syRarrive (w : TwoWord)
  /-- Waits on the opposite side of a role barrier. (R232) -/
  | syRwait (w : TwoWord)
  /-- Asks for more register granules, parking until granted. (R223) -/
  | syVgrow (w : TwoWord)
  /-- Releases register granules from the top of the allocation. (R223) -/
  | syVshrink (w : TwoWord)
  /-- Reads allocation, free capacity and waiting groups. (R223) -/
  | syVquery (w : TwoWord)
  /-- Zeroes a run of registers in the Active lanes. (R223) -/
  | syVzero (w : TwoWord)
  /-- Raises TRAP with a code when Active is not empty. (R151) -/
  | syTrap (w : TwoWord)
  /-- Raises BRK with a code when Active is not empty. (R151) -/
  | syBrk (w : TwoWord)
  /-- Reads a control register into v or s registers. (R151) -/
  | syCsrr (w : TwoWord)
  /-- Writes a control register, W1C-clearing where applicable. (R151) -/
  | syCsrw (w : TwoWord)
  /-- Sets RW bits of a control register. (R151) -/
  | syCsrs (w : TwoWord)
  /-- Clears bits of a control register. (R151) -/
  | syCsrc (w : TwoWord)
  /-- Returns from the handler, restoring lanes from the trap frame. (R151) -/
  | syTret (w : TwoWord)
  /-- Requests Draining of the context. (R151) -/
  | syCtxsave (w : TwoWord)
  /-- Places a 64-byte flit in a cluster's receive queue. (R374) -/
  | syMsend (w : TwoWord)
  /-- Takes the head flit of the own cluster's queue into s-registers. (R374) -/
  | syMrecv (w : TwoWord)
  /-- Places one flit in every queue named by a mask. (R374) -/
  | syMcast (w : TwoWord)
  /-- Reads the number of flits in the own cluster's queue. (R374) -/
  | syMprobe (w : TwoWord)
  /-- A free port selects a clause-ready group, which picks its issue set and begins a clause issue. (R192) -/
  | evClauseIssue (group : Nat)
  /-- A lane's bypass count reaching T starts a round that forces issue at bypassed PCs. (R195) -/
  | evTensionRound (group : Nat)
  /-- A group passed over 1,024 times by a port ranks ahead of non-display groups. (R199) -/
  | evPortPassoverLimit (group port : Nat)
  /-- A parked group becomes clause-ready when its park cause clears and resumes mid-clause. (R200) -/
  | evGroupResume (group : Nat)
  /-- A load's data returns, its destination registers are written and its flag decrements. (R106) -/
  | evLoadReturn (group op : Nat) (res : IoEnd) (data : List Nat)
  /-- A queued store or atomic is performed at its home, freeing its queue entry and decrementing its flag. (R106) -/
  | evStorePerformed (group : Nat) (res : IoEnd) (data : List Nat)
  /-- %wdog reaches WATCH × 1,024 and the group takes WATCH at its next clause boundary. (R148) -/
  | evWatchExpiry (group : Nat)
  /-- After the last lane exits and outstanding accesses finish, the group releases its slot, registers and tiles. (R201) -/
  | evGroupEnd (group : Nat)
  /-- A walker reads page-table lines level by level and installs a leaf or faults. (R129) -/
  | evPageWalk (group : Nat)
  /-- CMD 1 to a Posted fault slot makes it Replaying and every waiter walks again. (R134) -/
  | evFaultReplay (die slot : Nat)
  /-- CMD 2 to a Posted fault slot ends every waiter as an aborted fault and frees the slot. (R134) -/
  | evFaultAbort (die slot : Nat)
  /-- The walks of every waiter complete and the Replaying slot becomes Free. (R134) -/
  | evFaultReplayDone (die slot : Nat)
  /-- A write of 1 to BUSY of PGINV_CTL starts an invalidation, or sets ERR if busy. (R132) -/
  | evPginvStart (ctl : Word)
  /-- The invalidation's conditions hold on every die and BUSY falls to 0. (R132) -/
  | evPginvComplete
  /-- A write to CTXDESC stores the descriptor address, taking a Retired slot to Built. (R140) -/
  | evCtxdescWrite (ctx : Nat) (addr : Nat)
  /-- CTXCMD INSTALL reads and checks the descriptor and makes the context Resident. (R141) -/
  | evInstall (ctx : Nat)
  /-- CTXCMD SUSPEND drains a Running context or saves a Resident one at once. (R142) -/
  | evSuspend (ctx : Nat)
  /-- CTXCMD RESUME rereads the descriptor and restores a Saved context to Resident. (R142) -/
  | evResume (ctx : Nat) (restored : Bool)
  /-- CTXCMD RETIRE discards the context's work, queues, grants and faults and frees the slot. (R142) -/
  | evRetire (ctx : Nat)
  /-- The pre-emption sequence finishes and the context becomes Retired, Faulted or Saved. (R142) -/
  | evDrainingEnd (ctx : Nat)
  /-- A context's quantum expires, making its non-display teams pre-emptible for waiting candidates. (R168) -/
  | evQuantumExpiry (ctx : Nat)
  /-- An 8-byte host write adds AMOUNT to an event counter. (R159) -/
  | evEvpost (ctx ctr : Nat) (amount : Word)
  /-- An append message is accepted into the entry-queue ring or refused. (R163) -/
  | evEntryAppend (ctx : Nat) (rec : AppendMsg)
  /-- A host write covering byte 0x3F of APPEND k sends an append and records APPSTAT. (R368) -/
  | evHostAppend (slot : Nat)
  /-- The target's answer to a qpost writes its predicate and decrements its flag. (R175) -/
  | evQpostReply (group op : Nat) (res : IoEnd) (accepted : Bool)
  /-- The scheduler moves the head entry-queue record into a launch queue when it has room. (R164) -/
  | evEntryqMove (ctx : Nat)
  /-- A record whose waits are met becomes Ready, reads its kernel descriptor and is checked. (R165) -/
  | evRecordReady (record : Nat)
  /-- A Closing task queue with no busy slot becomes Closed and signals DONECTR. (R169) -/
  | evTaskqClosed (ctx q : Nat)
  /-- The oldest Queued task record waits GY ac, making a partial group formable. (R172) -/
  | evGatherWaitExpiry (ctx q : Nat)
  /-- The scheduler places the next team of the first fitting candidate on a cluster. (R166) -/
  | evTeamPlace
  /-- A candidate passed over 1,024 times blocks younger candidates of its class. (R166) -/
  | evSchedPassoverLimit (record : Nat)
  /-- Ready display work pre-empts lower-class teams to be placed within 15 µs. (R167) -/
  | evDisplayPreempt
  /-- An Ending team's engine work and windows finish, it releases resources and fires handle signals. (R188) -/
  | evTeamEnded (team : Nat)
  /-- Freed capacity grants waiting vgrow requests oldest first. (R224) -/
  | evVgrowGrant (group : Nat)
  /-- With every resident group parked in vgrow, the youngest request fails within 64 ac. (R224) -/
  | evVgrowDeadlockFail (group : Nat)
  /-- A copy engine starts its next queued transfer once the previous one completes. (R235) -/
  | evTransferStart (die engine elements : Nat)
  /-- A transfer's last write is performed; flag, handle counts, locks and pin are released. (R252) -/
  | evTransferComplete (die engine : Nat) (res : IoEnd)
  /-- At a lease end the arbiter grants the matrix engine to a group or a closed skein window. (R262) -/
  | evEngineGrant (core : Nat)
  /-- LEASE mma of the holder have been accepted and the lease ends. (R262) -/
  | evLeaseCountExpiry (core : Nat)
  /-- 16 ac pass with no tile instruction of the holder and the lease ends. (R262) -/
  | evLeaseIdleExpiry (core : Nat)
  /-- The matrix engine accepts an issued tile operation once occupancy and stores allow. (R263) -/
  | evTileOpAccept (core : Nat)
  /-- A tile operation completes, updating the tile and results and decrementing its flag. (R264) -/
  | evTileOpComplete (core : Nat) (res : IoEnd)
  /-- %window ac pass since a gather window opened and it closes. (R290) -/
  | evWindowTimerExpiry (core window : Nat)
  /-- A Closed window enters one range-lock entry per layer when entries are free. (R291) -/
  | evWindowEnterLocks (core window : Nat)
  /-- A window's last layer finishes; results are written, locks removed and the slot freed. (R294) -/
  | evWindowScatter (core window : Nat) (res : IoEnd)
  /-- A pending activation-table swap is made when no window pins the live bank. (R299) -/
  | evActSwap (core table : Nat)
  /-- The view unit performs its next queued operation. (R329) -/
  | evViewOpRun (cluster : Nat) (res : IoEnd)
  /-- A view or ray-launch operation completes, releasing locks and its flag. (R335) -/
  | evViewOpComplete (cluster : Nat)
  /-- After every opened frame's rows are emitted, a waiting vset replaces or removes the binding. (R314) -/
  | evVsetApply (set : Nat)
  /-- At vopen + BOUND the controller latches every unlatched strip of the view. (R312) -/
  | evBoundLatchExpiry (set view : Nat)
  /-- At E_j the serialiser emits a display row from the tile store, counting MISS. (R315) -/
  | evRowEmit (set view : Nat)
  /-- A host write to a gaze register stages X or commits the pair with SEQ + 1. (R309) -/
  | evGazeHostWrite (reg off size data : Nat)
  /-- A DisplayPort output goes up, down or changes mode and DPOUT changes. (R322) -/
  | evDpOutputChange (out width height : Nat)
  /-- A link tile stream peer grants credit for whole tiles. (R370) -/
  | evTileCreditGrant (stream tiles : Nat)
  /-- LINKCTL ENABLE starts training of a Down, Degraded or Fenced port. (R360) -/
  | evLinkEnable (port : Nat)
  /-- LINKCTL FENCE takes an Up or Degraded port to Fenced. (R360) -/
  | evLinkFence (port : Nat)
  /-- LINKCTL DRAIN stops new traffic on an Up or Degraded port. (R360) -/
  | evLinkDrain (port : Nat)
  /-- LINKCTL DISABLE takes a port Down. (R360) -/
  | evLinkDisable (port : Nat)
  /-- Training ends with 8, 4, 2 or too few lanes, giving Up, Degraded or Down. (R360) -/
  | evLinkTrainingDone (port lanes peer peerPort : Nat) (verified : Bool)
  /-- A lane fails on an Up or Degraded port, which retrains. (R360) -/
  | evLinkLaneFail (port : Nat)
  /-- Every in-flight flit of a Draining port is acknowledged and the port goes Down. (R360) -/
  | evLinkDrainDone (port : Nat)
  /-- A die-to-die bridge goes Down and firmware reroutes its traffic. (R13) -/
  | evBridgeDown (bridge : Nat)
  /-- A home module receives a remote access, checks its context and map, and performs or refuses it. (R364) -/
  | evRemoteAccess (src fctx rctx addr : Nat) (op : RemoteOp)
  /-- A host request through BAR 4 reads or writes region 0 of the bridge module. (R367) -/
  | evHostMemAccess (off n : Nat) (data : List Nat)
  /-- A write of 1 to ATTCMD starts signing the nonce and measurements. (R382) -/
  | evAttest
  /-- The 114-byte signature is ready and ATTCMD reads 0. (R382) -/
  | evAttestDone (sig : List Nat)
  /-- Firmware loads a key slot unless an installed context holds it. (R383) -/
  | evKeyLoad (slot : Nat)
  /-- Firmware clears a key slot unless an installed context holds it. (R383) -/
  | evKeyClear (slot : Nat)
  /-- Cold reset runs firmware verification, memory training, links, host port and capability list, then sets READY. (R376) -/
  | evColdReset (boot : Boot)
  /-- Firmware policy moves the module among P0, P1 and P2. (R378) -/
  | evPowerPolicyChange (state aclk : Nat)
  /-- A placement, append or host access brings the module from P2 to P0 within 50 µs. (R378) -/
  | evStandbyWake (aclk : Nat)
  /-- A junction at 105 °C or excess current sets THROT and forces P1 at 0.6 GHz. (R380) -/
  | evThrottleOn (temp : Nat)
  /-- Junctions below 100 °C and current within limit release the throttle. (R380) -/
  | evThrottleOff (aclk temp : Nat)
  /-- 115 °C, a supply fault or lost coolant flow sets TRIP, downs links and holds the module in reset. (R380) -/
  | evTrip (temp : Nat)
  /-- Firmware gates an idle cluster or slice ways. (R379) -/
  | evUnitGate (slice : Bool) (unit : Nat)
  /-- An access or placement wakes a gated unit within 2 µs. (R379) -/
  | evUnitWake (slice : Bool) (unit : Nat)
  /-- A write to a management register with no behaviour of its own changes the bytes it covers under their access codes. (R397)
  -/
  | evMgmtRegWrite (addr size : Nat) (data : HostData)
  /-- A remote operation with no route, or whose flits cannot be delivered after resending, fails and LINK becomes pending in
  the requester. (R362) -/
  | evRemoteOperationFails (group : Nat) (op : Option Nat)
  /-- A flit that fails its check is resent by the sender, and RETRY of the port increments. (R359) -/
  | evFlitResend (port : Nat)
  deriving DecidableEq, Repr

end Sys2Proof
end

