-- ==== Sys2Proof/Machine/Shape.lean ====
section
/-!
DEFINITION. The field rules of every encoding (02_encoding R30 to R37, and the field table of each family's chapter):
which fields are operand codes, which are fixed, which registers they name, and where a literal follows.
-/
namespace Sys2Proof.Machine

/-- An encoding: the major opcode, MINOR of word 1 (0 in one-word forms), and the fields of R30 and R31. In SC and CF the
minor of word 0 stands in the fields' own bits: SC [26:22], CF [22:19]. -/
structure Enc where
  major : BitVec 5
  minor : BitVec 12
  t : TwoWord
  deriving DecidableEq, Repr

/-- What an 8-bit field A, B or C is for a minor. -/
inductive Fld where
  /-- any operand code of R32 -/
  | opd
  /-- an operand code from 0x80 (a scalar, constant or literal) -/
  | sop
  /-- an operand code of brx and callx: no literal, no raw pattern (R202) -/
  | target
  /-- v0 to v127 alone -/
  | vec
  /-- an even s register alone, 0x80 to 0xBE -/
  | spair
  /-- the first of four s registers, 0x80 to 0xBC in steps of 4 -/
  | squad
  /-- the first of 16 s registers: 0x80, 0x90, 0xA0 or 0xB0 -/
  | sblock
  /-- a fixed value, never read -/
  | fixed (v : Nat)
  /-- a per-minor field; `ok` says the value is one the minor lists, `q` the predicates it names -/
  | raw (ok : Bool) (q : List Nat)
  deriving DecidableEq, Repr

/-- What the D field is for a minor. -/
inductive DFld where
  /-- a vector destination -/
  | v
  /-- a vector source (a store's data) -/
  | vsrc
  /-- an s destination, s0 to s63 -/
  | s
  /-- an s source -/
  | ssrc
  /-- [22:19] 0 and QD 1 to 7 -/
  | q
  /-- COND and QD of a comparison -/
  | cond
  /-- must be 0 -/
  | zero
  /-- a per-minor field -/
  | raw (ok : Bool) (q : List Nat)
  deriving DecidableEq, Repr

/-- The guard rule of a minor (R35). -/
inductive GRule where
  | any | zero | none
  deriving DecidableEq, Repr

/-- The field rules of one encoding. -/
structure Shape where
  /-- the minor, operation number or type is reserved: no field calls for a literal (R34) -/
  reserved : Bool := false
  guard : GRule := .any
  d : DFld := .zero
  /-- registers that D names -/
  dn : Nat := 1
  a : Fld := .fixed 0
  b : Fld := .fixed 0
  c : Fld := .fixed 0
  an : Nat := 1
  bn : Nat := 1
  /-- A is a 64-bit address: a register named by it must be even, and names a pair (R90) -/
  pair : Bool := false
  mod1 : Bool := true
  mod2 : Bool := true
  /-- FS may be 1 -/
  flag : Bool := false
  /-- every further rule of the minor -/
  extra : Bool := true
  /-- predicates read beside the guard -/
  rq : List Nat := []
  /-- D is read as well as written -/
  dread : Bool := false
  /-- B is a register that is written (the scale register of ldmx) -/
  bwrite : Bool := false
  /-- D also names the next register at this width (ballot and match at 64, tget and tset at 16) -/
  dnext : Nat := 0
  deriving DecidableEq, Repr

/-- The shape of a reserved encoding. -/
def Shape.bad : Shape := { reserved := true }

/-- MOD1 as a directed rounding mode. -/
def rnd4 (t : TwoWord) : Bool := t.x.mod1.toNat ≤ 3

/-- MOD1 as zero. -/
def mod10 (t : TwoWord) : Bool := t.x.mod1 = 0

/-- MOD1 as a scope (R31). -/
def scopeOk (t : TwoWord) : Bool := t.x.mod1.toNat ≤ 4

/-- MOD2 as zero. -/
def mod20 (t : TwoWord) : Bool := t.x.mod2 = 0

/-- A target that stochastic rounding admits (03_numbers R55). -/
def Ty.srOk : Ty → Bool
  | .f16 | .bf16 | .e4m3 | .e5m2 | .mx4 | .mt8 => true
  | _ => false

/-- The integer types of cvt. -/
def Ty.isInt (t : Ty) : Bool := t.isI || t.isN

/-- The pairs that cvt accepts (03_numbers R59). -/
def cvtPair (f t : Ty) : Bool :=
  (f = .f32 && (t.srOk || t.isInt)) || (f.srOk && t = .f32) || (f.isInt && (t = .f32 || (t.isInt && f ≠ t)))

/-- The MOD1 codes a cvt pair admits (03_numbers R59). -/
def cvtMod1 (f t : Ty) (m : Nat) : Bool :=
  if f = .f32 then (if t.srOk then m ≤ 4 else m ≤ 3)
  else if f.isInt && t = .f32 then m ≤ 3
  else m = 0

/-- The types that a VX operation accepts (02_encoding R36; cvt is by pairs). -/
def vxType (op : Nat) (ty : Ty) : Bool :=
  let inum := ty.isI || ty.isN
  let fl := ty = .f32 || ty = .f16 || ty = .bf16
  if op ≤ 2 || op = 8 || op = 9 then inum || fl
  else if op ≤ 6 then ty.isB
  else if op = 7 then inum
  else if op = 0x0A || op = 0x0B then ty = .b32
  else if op = 0x10 || op = 0x11 then inum
  else if op = 0x12 || op = 0x13 then ty = .i32 || ty = .n32
  else if op = 0x14 || op = 0x15 then ty.isI || fl
  else if op = 0x16 then ty = .n32
  else if op = 0x17 then ty = .i32 || ty = .n32
  else if op = 0x18 || op = 0x19 || op = 0x1A || op = 0x1B || op = 0x1C || op = 0x1D then ty = .b32
  else if op = 0x1E then ty = .i32 || ty = .n32 || ty = .b32 || fl
  else if op = 0x20 || op = 0x22 || op = 0x23 then fl
  else if op = 0x21 then ty = .i32 || ty = .n32 || ty = .f32
  else if 0x28 ≤ op && op ≤ 0x30 then fl
  else if op = 0x38 then ty = .b32
  else if 0x39 ≤ op && op ≤ 0x3C then ty = .i32
  else if op = 0x41 || op = 0x42 then
    ty = .f16 || ty = .bf16 || ty = .e4m3 || ty = .e5m2 || ty = .mt8 || ty = .i16 || ty = .n16 || ty = .i8 || ty = .n8
  else false

/-- A predicate selector: bits [6:3] must be 0 (04_lane R81). -/
def selFld (x : BitVec 8) : Fld := .raw (bits x.toNat 6 3 = 0) [x.toNat % 8]

/-- The shape of a VX operation (04_lane R67 to R86). -/
def shapeVx (op : Nat) (ty : Ty) (t : TwoWord) : Shape :=
  let m2 := t.x.mod2.toNat
  let m1 := t.x.mod1.toNat
  let fl := ty = .f32 || ty = .f16 || ty = .bf16
  let base : Shape := { d := .v, mod1 := mod10 t, mod2 := mod20 t }
  if op = 0x40 then
    let f := Ty.ofCode (bits t.x.c.toNat 7 4)
    if !cvtPair f ty then Shape.bad
    else
      let am := bit t.x.c.toNat 3
      { base with
        a := .opd, c := .raw (!am || (f = .f32 && ty.srOk)) [], mod1 := cvtMod1 f ty m1,
        mod2 := m2 < (if f.width = 32 then 1 else f.count) }
  else if !vxType op ty then Shape.bad
  else if op ≤ 2 then { base with a := .opd, b := .opd, mod1 := if fl then rnd4 t else mod10 t }
  else if op ≤ 0x0A then { base with a := .opd, b := .opd }
  else if op = 0x0B then { base with b := .opd }
  else if op ≤ 0x12 then { base with a := .opd, b := .opd }
  else if op = 0x13 then { base with a := .opd, b := .opd, c := .opd }
  else if op ≤ 0x15 then { base with a := .opd }
  else if op = 0x16 then { base with a := .opd, b := .opd, mod2 := m2 < 8 }
  else if op = 0x17 then { base with a := .opd, b := .opd }
  else if op ≤ 0x1A then { base with a := .opd, b := .opd, c := .opd }
  else if op ≤ 0x1D then { base with a := .opd }
  else if op = 0x1E then
    let cond := bits t.d.toNat 6 3
    let ok : Bool := if fl then cond ≤ 13 else if ty = .b32 then cond ≤ 1 else cond ≤ 5
    { base with d := .cond, a := .opd, b := .opd, mod2 := m2 < (if ty.width = 16 then 2 else 1), extra := ok }
  else if op = 0x20 then { base with a := .opd, b := .opd, c := .opd, mod1 := rnd4 t }
  else if op = 0x21 then { base with a := .opd, b := .opd, c := .opd }
  else if op = 0x22 then { base with a := .opd, mod1 := rnd4 t }
  else if op = 0x23 then { base with a := .opd }
  else if op ≤ 0x30 then { base with a := .opd, mod1 := rnd4 t }
  else if op = 0x38 then { base with a := .opd, b := .opd, mod2 := m2 < 16, rq := [m2 % 8] }
  else if op ≤ 0x3B then { base with d := .q, a := selFld t.a, b := selFld t.b }
  else if op = 0x3C then { base with d := .q, a := selFld t.a }
  else if op = 0x41 then
    { base with
      a := .opd, b := .opd, c := if ty.width = 8 then .opd else .fixed 0,
      mod1 := if ty.isFloat then m1 ≤ 4 else m1 = 0, mod2 := m2 < (if ty.width = 8 then 2 else 1) }
  else { base with a := .opd, mod2 := m2 < ty.count }

/-- The shape of an XL minor (10_group R205). -/
def shapeXl (minor : Nat) (t : TwoWord) : Shape :=
  let ty := t.x.mod2.toNat % 16
  let base : Shape := { d := .v, mod1 := mod10 t, mod2 := t.x.mod2.toNat < 16 }
  let b2 := ty = 2
  let arith := ty = 0 || ty = 1 || ty = 9
  if minor ≤ 3 then if b2 then { base with a := .opd, c := .opd } else Shape.bad
  else if minor = 4 then if b2 then { base with a := .vec, c := .sop } else Shape.bad
  else if minor = 5 then if b2 then { base with d := .s, a := .vec, c := .sop, guard := .zero } else Shape.bad
  else if minor = 6 then if b2 then { base with a := .sop, c := .sop, guard := .zero } else Shape.bad
  else if 0x10 ≤ minor && minor ≤ 0x12 then if ty = 0 then { base with d := .q, a := selFld t.a } else Shape.bad
  else if minor = 0x13 then if ty = 0 then { base with a := selFld t.a, dnext := 64 } else Shape.bad
  else if 0x20 ≤ minor && minor ≤ 0x22 then
    if arith then { base with a := .opd, c := .raw (t.x.c.toNat < 2) [] } else Shape.bad
  else if 0x28 ≤ minor && minor ≤ 0x2A then if arith then { base with a := .opd } else Shape.bad
  else if minor = 0x2B || minor = 0x2C then if b2 then { base with a := .opd } else Shape.bad
  else if minor = 0x30 then if b2 then { base with a := .opd, dnext := 64 } else Shape.bad
  else Shape.bad

/-- The memory spaces (05_memory R89). -/
def spaceOf (t : TwoWord) : Nat := bits t.x.mod2.toNat 6 4

/-- The scopes that a space admits for an atomic (05_memory R108). -/
def atomScope (space scope : Nat) : Bool :=
  match space with
  | 0 => scope = 2 || scope = 3 || scope = 4
  | 1 => scope = 0 || scope = 1
  | 2 => scope = 1
  | 3 => scope = 2 || scope = 3
  | _ => false

/-- The shape of an MX minor (05_memory R98). -/
def shapeMx (minor : Nat) (t : TwoWord) : Shape :=
  let ty := Ty.ofCode (t.x.mod2.toNat % 16)
  let sp := spaceOf t
  let ldTy := ty = .b32 || ty = .n16 || ty = .i16 || ty = .n8 || ty = .i8
  let d := t.d.toNat
  let mem : Shape := { d := .v, a := .opd, c := .opd, pair := sp = 0, flag := true, mod1 := mod10 t, extra := sp ≤ 4 }
  let pick (ok : Bool) (s : Shape) : Shape := if ok then s else Shape.bad
  if minor = 0 then pick ldTy mem
  else if minor = 1 then pick ldTy { mem with d := .vsrc }
  else if minor = 2 then pick (ty = .b32) { mem with dn := 2, extra := sp ≤ 4 && d % 2 = 0 }
  else if minor = 3 then pick (ty = .b32) { mem with d := .vsrc, dn := 2, extra := sp ≤ 4 && d % 2 = 0 }
  else if minor = 4 then pick (ty = .b32) { mem with dn := 4, extra := sp ≤ 4 && d % 4 = 0 }
  else if minor = 5 then pick (ty = .b32) { mem with d := .vsrc, dn := 4, extra := sp ≤ 4 && d % 4 = 0 }
  else if minor = 6 then pick ldTy { mem with mod1 := scopeOk t, extra := sp ≤ 3 }
  else if minor = 7 then pick ldTy { mem with d := .vsrc, mod1 := scopeOk t, extra := sp ≤ 3 }
  else if minor = 8 then
    let n := if ty = .mx4 then 4 else 8
    pick (ty = .mx4 || ty = .e4m3 || ty = .e5m2 || ty = .mt8)
      { mem with dn := n, b := .vec, bwrite := true, c := .raw (t.x.c.toNat < 4) [],
                 extra := sp ≤ 3 && d % n = 0 && !(d ≤ t.b.toNat && t.b.toNat < d + n) }
  else if minor = 9 then pick (ty = .b32) { mem with d := .zero, extra := sp = 0 || sp = 3 }
  else if minor = 0x0A then
    pick ldTy { mem with d := .s, a := .sop, c := .sop, guard := .zero, extra := sp ≤ 3 }
  else if minor = 0x0B then
    pick ldTy { mem with d := .ssrc, a := .sop, c := .sop, guard := .zero, extra := sp ≤ 3 }
  else if minor = 0x0C then pick ldTy { mem with extra := sp = 0 }
  else if 0x10 ≤ minor && minor ≤ 0x12 then
    pick (ty = .i32 || ty = .n32 || ty = .f32)
      { mem with b := .opd, mod1 := true, extra := atomScope sp t.x.mod1.toNat }
  else if 0x13 ≤ minor && minor ≤ 0x17 then
    pick (ty = .i32 || ty = .n32 || ty = .b32)
      { mem with b := .opd, mod1 := true, extra := atomScope sp t.x.mod1.toNat }
  else if minor = 0x20 then { guard := .zero, flag := true, mod1 := scopeOk t, mod2 := mod20 t }
  else Shape.bad

/-- The format codes of operand maps (14_tile R270). -/
def omapFmt (c : Nat) : Bool := c = 0xB || c = 0xC || c = 0xD || c = 0xE || c = 0xF

/-- The shape of an EN minor: transfers (13_transfer R256), tiles (14_tile R270, R271, R274, R277), nets (15_net R301). A
reserved format code of an EN word (mma's AFMT, omap's FMT, tdrain's FD, the transfers' formats) is no reserved type in the
sense of R34: the word is ILL, and an operand code 0xF0 of it still counts its literal (DESIGN CHOICE, log 81). A, and B, of an
omap whose selector C is reserved are no operand codes and count none (DESIGN CHOICE, log 84). -/
def shapeEn (minor : Nat) (t : TwoWord) : Shape :=
  let m2 := t.x.mod2.toNat
  let c := t.x.c.toNat
  let d := t.d.toNat
  let handle : Fld := .raw (c ≤ 0x3F) []
  let handleOrNone : Fld := .raw (c ≤ 0x3F || c = 0xFF) []
  let tile (x : BitVec 8) : Fld := .raw (x.toNat < 32) []
  let z : Shape := { guard := .zero, mod1 := mod10 t, mod2 := mod20 t }
  match minor with
  | 0x000 => { z with d := .q, a := .spair, c := handleOrNone, flag := true, mod2 := m2 < 16 }
  | 0x001 => { z with d := .q, a := .spair, b := .sop, c := handleOrNone, flag := true, mod2 := m2 < 16 }
  | 0x002 => { z with d := .q, a := .sop, b := .sop, c := handle, flag := true, mod2 := m2 < 64 }
  | 0x003 =>
    let f := bits c 7 4
    { z with d := .q, a := .spair, flag := true
             c := .raw (f = 0xA || f = 0xB || f = 0xC || f = 0xD || f = 0xF) [] }
  | 0x004 => { z with a := .sop, c := handle, mod2 := m2 < 2 }
  | 0x005 => { z with c := handle, mod2 := m2 < 4 }
  | 0x006 => { z with d := .s, c := handle }
  | 0x007 => { z with c := handle }
  | 0x008 => { z with d := .q, a := .sop, c := handle }
  | 0x009 => { z with d := .q, a := .sop, flag := true, c := .raw (c < 4) []
                      b := .squad }
  | 0x00A => { z with d := .s, a := .sop, c := .raw (c < 4) [] }
  | 0x00B => { z with d := .s, c := .raw (c < 16) [] }
  | 0x040 =>
    { z with d := .raw true [], a := .vec, an := 8, b := .sop, c := .raw (c < 0x80) [], flag := true
             mod2 := m2 < 64 && bits m2 5 3 ≤ 4, extra := t.a.toNat % 8 = 0 }
  | 0x041 => { z with d := .raw (d < 32) [], flag := true }
  | 0x042 => { z with d := .v, a := .sop, b := tile t.b, c := .raw (c < 32) [], flag := true, mod2 := m2 < 2, dnext := 16 }
  | 0x043 =>
    { z with d := .vsrc, a := .sop, b := tile t.b, c := .raw (c < 32) [], flag := true, mod2 := m2 < 2, dnext := 16 }
  | 0x044 =>
    let fd := Ty.ofCode (m2 % 16)
    let sp := bit m2 4
    let am := bit d 3
    let blk := bit c 7
    let ok := fd = .f32 || fd.srOk
    { z with
      d := .raw (d % 8 ≠ 0 && (am || bits d 6 4 = 0)) [], a := if sp then .sop else .spair, b := .sop, c := .raw true []
      flag := true, mod1 := if fd = .f32 then mod10 t else t.x.mod1.toNat ≤ 4, mod2 := m2 < 32
      extra := ok && (!blk || (fd.width ≤ 8 && fd.srOk)) }
  | 0x045 =>
    if c = 0 then
      { z with d := .raw (bits d 4 3 = 0 && d % 8 ≠ 0) [], a := .sop, b := .sop
               mod2 := omapFmt (m2 % 16) && (m2 % 16 ≠ 0xE || bit m2 5) && (m2 % 16 ≠ 0xB || !bit m2 5) }
    else { z with d := .raw (d % 32 = 0) [], c := .raw (c = 1) [] }
  | 0x046 => { z with d := .raw (d < 32) [], a := .sop }
  | 0x047 => { z with d := .raw (d < 32) [], b := tile t.b, flag := true, mod2 := m2 < 2 }
  | 0x048 => { z with d := .s, b := tile t.b, flag := true }
  | 0x049 => { z with d := .vsrc, b := tile t.b, flag := true, mod2 := m2 < 2, dnext := 16 }
  | 0x080 =>
    let nin := t.b.toNat % 64 + 1
    { z with guard := .any, d := .v, dn := m2 % 16 + 1, a := .vec, flag := true, mod2 := m2 < 16
             an := nin, b := .raw (!bit t.b.toNat 6) [], c := .raw true [] }
  | 0x081 => z
  | 0x082 => { z with d := .q, a := .spair, c := .raw (c < 8) [], flag := true }
  | 0x083 => { z with d := .q, a := .spair, c := .raw true [], flag := true }
  | 0x084 => { z with d := .s, c := .raw true [] }
  | _ => Shape.bad

/-- The shape of a GX minor: views (16_view R328) and rays (17_ray R344). -/
def shapeGx (minor : Nat) (t : TwoWord) : Shape :=
  let m2 := t.x.mod2.toNat
  let c := t.x.c.toNat
  let handle : Fld := .raw (c < 64) []
  let z : Shape := { guard := .zero, mod1 := mod10 t, mod2 := mod20 t }
  let set : Bool := m2 < 64
  let any : Shape := { z with guard := .any }
  let box (x : BitVec 8) : Fld := if x.toNat ≤ 0x7A then .vec else .raw false []
  match minor with
  | 0x000 => { z with d := .q, a := .sop, b := .sop, c := handle, flag := true, mod2 := set }
  | 0x001 => { z with d := .q, a := .sop, flag := true, mod2 := set }
  | 0x002 | 0x003 | 0x009 => { z with d := .q, a := .sop, b := .sop, c := handle, flag := true, mod2 := set }
  | 0x004 => { z with d := .s, mod2 := set }
  | 0x005 => { z with d := .q, a := .spair, flag := true, mod2 := set }
  | 0x006 => { z with a := .sop, b := .sop, c := handle }
  | 0x007 => { z with d := .v, dn := 3, a := .sop, c := handle }
  | 0x008 => { z with d := .v, dn := 2, a := .opd, b := .sop, mod2 := set }
  | 0x040 => { z with d := .q, a := .sop, b := .sop, c := .sop, flag := true, mod2 := set }
  | 0x041 => { any with d := .v, dn := 3, a := .opd, flag := true }
  | 0x042 => { any with a := if bit m2 1 then .opd else .fixed 0, flag := true, mod2 := m2 < 4 }
  | 0x043 => { any with d := .v, dn := 9, a := .opd, flag := true }
  | 0x044 => { any with d := .q, a := .opd, flag := true }
  | 0x045 => { any with a := .opd }
  | 0x046 => { any with d := .v }
  | 0x047 =>
    { any with d := .v, dn := 6, a := box t.a, an := 6, mod2 := m2 < 2, bn := 6
               b := if bit m2 0 then .fixed 0 else box t.b }
  | 0x048 => { any with d := .v, a := box t.a, an := 6, b := .opd }
  | 0x049 => { any with a := .sop, b := box t.b, bn := 6, c := .opd, flag := true }
  | _ => Shape.bad

/-- The control registers that exist (07_context R149, 11_register R219, 15_net R300, 17_ray R339). -/
def csrKnown (n : Nat) : Bool :=
  n ≤ 0x0A || n = 0x10 || n = 0x11 || n = 0x12 || (0x18 ≤ n && n ≤ 0x1F) || (0x28 ≤ n && n ≤ 0x2E)
    || (0x40 ≤ n && n ≤ 0x4A)

/-- The shape of a SY minor: queue (08_queue R175), barrier (12_barrier R231), register (11_register R222), context
(07_context R150) and messages (18_link R373). A of a bsync whose kind is reserved is no operand code and counts no literal
(DESIGN CHOICE, log 84). -/
def shapeSy (minor : Nat) (t : TwoWord) : Shape :=
  let m2 := t.x.mod2.toNat
  let c := t.x.c.toNat
  let z : Shape := { guard := .zero, mod1 := mod10 t, mod2 := mod20 t }
  let any : Shape := { z with guard := .any }
  let kind := bits c 7 6
  match minor with
  | 0x000 => { z with d := .q, b := .sblock, bn := 16, flag := true }
  | 0x001 => { z with d := .q, a := .sop, b := .sblock, bn := 16, flag := true }
  | 0x002 =>
    { any with d := .q, a := .opd, b := if m2 = 0 then .fixed 0 else .vec, bn := m2, c := .sop, flag := true
               mod2 := m2 ≤ 16 }
  | 0x003 => { any with d := .q, a := .sop, b := .opd, flag := true }
  | 0x004 => any
  | 0x005 => { z with a := .sop, b := .sop, flag := true }
  | 0x006 => { z with a := .sop, b := .sop }
  | 0x007 => { z with d := .s, a := .sop }
  | 0x040 =>
    if kind = 1 then { z with a := .sop, c := .raw (c % 64 < 8) [] } else { z with c := .raw (c < 16) [] }
  | 0x041 | 0x042 => { z with c := .raw (c < 16) [] }
  | 0x043 | 0x044 | 0x045 => { z with c := .raw (kind = 2 && c % 64 < 8) [] }
  | 0x080 | 0x081 => { z with d := .q, a := .sop, flag := true }
  | 0x082 => { z with d := .s }
  | 0x083 => { any with d := .v, dn := m2 + 1, mod2 := true }
  | 0x0C0 | 0x0C1 => { any with c := .raw true [] }
  | 0x0C2 =>
    if m2 = 1 then { z with d := .s, mod2 := true, c := .raw (csrKnown c && c ≠ 0) [] }
    else { any with d := .v, mod2 := m2 = 0, c := .raw (csrKnown c) [] }
  | 0x0C3 | 0x0C4 | 0x0C5 => { z with a := .sop, c := .raw (csrKnown c) [] }
  | 0x0C6 => { z with mod2 := m2 < 2 }
  | 0x0C7 => z
  | 0x100 => { z with d := .q, a := .sop, b := .sblock, bn := 16, flag := true, mod2 := m2 < 2 }
  | 0x101 => { z with d := .s, dn := 16, extra := t.d.toNat % 16 = 0 }
  | 0x102 => { z with d := .q, a := .sop, b := .sblock, bn := 16, c := .spair, flag := true, mod2 := m2 < 2 }
  | 0x103 => { z with d := .s }
  | _ => Shape.bad

/-- The SC minor of word 0, bits [26:22] (R30). -/
def scMinor (t : TwoWord) : Nat := t.guard.toNat * 2 + t.d.toNat / 64

/-- The s destination of an SC word, bits [21:16]. -/
def scDest (t : TwoWord) : Nat := t.d.toNat % 64

/-- The shape of an SC word (04_lane R87, R88). -/
def shapeSc (minor1 : Nat) (t : TwoWord) : Shape :=
  let m := scMinor t
  let u : Fld := .fixed 0x80
  let base : Shape := { guard := .none, d := .s, a := .sop, b := .sop }
  let tyc := t.x.mod2.toNat % 16
  let ty := Ty.ofCode tyc
  let esc : Shape := { base with mod1 := mod10 t, mod2 := t.x.mod2.toNat < 16 }
  if m = 13 then { base with a := u }
  else if m = 17 || m = 18 then { base with b := u }
  else if m < 23 then base
  else if m < 31 then Shape.bad
  else match minor1 with
    | 0 => if tyc ≤ 1 then { esc with c := .sop } else Shape.bad
    | 1 => if ty = .f32 then { esc with c := .sop } else Shape.bad
    | 2 => if tyc ≤ 1 then { esc with c := u } else Shape.bad
    | 3 => if ty = .b32 then { esc with c := .sop } else Shape.bad
    | 4 =>
      let f := Ty.ofCode (bits t.x.c.toNat 7 4)
      let ok (x : Ty) : Bool := x = .f32 || x = .f16 || x = .bf16 || x = .i32 || x = .n32
      if cvtPair f ty && ok f && ok ty then
        { esc with b := u, c := .raw (t.x.c.toNat % 16 = 0) []
                   mod1 := cvtMod1 f ty t.x.mod1.toNat && t.x.mod1.toNat ≤ 3 }
      else Shape.bad
    | 5 => if ty = .b32 then { esc with c := .sop } else Shape.bad
    | _ => Shape.bad

/-- The CF minor of word 0, bits [22:19] (R30). -/
def cfMinor (t : TwoWord) : Nat := bits t.d.toNat 6 3

/-- The CF payload, bits [18:0]. -/
def cfPay (t : TwoWord) : BitVec 19 := (t.d.extractLsb' 0 3 ++ t.a ++ t.b)

/-- The shape of a CF word (10_group R202). -/
def shapeCf (t : TwoWord) : Shape :=
  let pay := (cfPay t).toNat
  let free : Shape := { d := .raw true [], a := .raw true [], b := .raw true [] }
  match cfMinor t with
  | 0 | 2 | 6 => free
  | 1 => { free with guard := .zero }
  | 3 | 7 | 9 | 12 => { free with guard := .zero, extra := pay = 0 }
  | 4 | 5 => { free with extra := pay % 2 ^ 11 = 0, c := .target }
  | 8 => { free with extra := pay = 0 }
  | 10 | 11 => { free with guard := .zero }
  | _ => Shape.bad

/-- The field rules of an encoding. -/
def Enc.shape (e : Enc) : Shape :=
  let t := e.t
  let major := e.major.toNat
  if major < 0x13 then { d := .v, a := .opd, b := .opd }
  else if major = 0x13 then { d := .v, b := .opd }
  else if major = 0x14 then { d := .cond, a := .opd, b := .opd, extra := bits t.d.toNat 6 3 ≤ 9 }
  else if major = 0x15 then { d := .cond, a := .opd, b := .opd, extra := bits t.d.toNat 6 3 ≤ 13 }
  else if major = 0x16 then { d := .v, a := .opd, b := .raw true [], pair := !bit t.b.toNat 6, flag := true }
  else if major = 0x17 then { d := .vsrc, a := .opd, b := .raw true [], pair := !bit t.b.toNat 6, flag := true }
  else if major = 0x18 then shapeVx (e.minor.toNat / 16) (Ty.ofCode (e.minor.toNat % 16)) t
  else if major = 0x19 then shapeXl e.minor.toNat t
  else if major = 0x1A then shapeMx e.minor.toNat t
  else if major = 0x1B then shapeSc e.minor.toNat t
  else if major = 0x1C then shapeCf t
  else if major = 0x1D then shapeEn e.minor.toNat t
  else if major = 0x1E then shapeGx e.minor.toNat t
  else shapeSy e.minor.toNat t

/-- A code that R32 reserves. -/
def codeReserved (c : Nat) : Bool := (0xC0 ≤ c && c ≤ 0xC7) || 0xF1 ≤ c

/-- A field holds a value its rule admits. -/
def Fld.ok (f : Fld) (x : BitVec 8) : Bool :=
  let c := x.toNat
  match f with
  | .opd => !codeReserved c
  | .sop => 0x80 ≤ c && !codeReserved c
  | .target => c < 0xC0 || (0xC8 ≤ c && c ≤ 0xEA)
  | .vec => c < 0x80
  | .spair => 0x80 ≤ c && c ≤ 0xBE && c % 2 = 0
  | .squad => 0x80 ≤ c && c ≤ 0xBC && c % 4 = 0
  | .sblock => c = 0x80 || c = 0x90 || c = 0xA0 || c = 0xB0
  | .fixed v => c = v
  | .raw ok _ => ok

/-- The field admits the literal code (R34). -/
def Fld.isLit (f : Fld) (x : BitVec 8) : Bool :=
  match f with
  | .opd | .sop => x = 0xF0
  | _ => false

/-- The D field holds a value its rule admits. -/
def DFld.ok (f : DFld) (d : BitVec 7) (n : Nat) : Bool :=
  match f with
  | .v | .vsrc => d.toNat + n ≤ 128
  | .s | .ssrc => d.toNat + n ≤ 64
  | .q => bits d.toNat 6 3 = 0 && d.toNat % 8 ≠ 0
  | .cond => d.toNat % 8 ≠ 0
  | .zero => d = 0
  | .raw ok _ => ok

/-- The operand code of brx and callx, payload [18:11] (R202). -/
def cfTarget (t : TwoWord) : BitVec 8 := (cfPay t).extractLsb' 11 8

/-- The C field as the rules see it: CF keeps brx's operand code there. -/
def Enc.cField (e : Enc) : BitVec 8 := if e.major = 0x1C then cfTarget e.t else e.t.x.c

/-- The D field as the rules see it: six bits in SC. -/
def Enc.dField (e : Enc) : BitVec 7 := if e.major = 0x1B then BitVec.ofNat 7 (scDest e.t) else e.t.d

/-- The C rule as it applies: CF words without an operand keep none. -/
def Enc.cRule (e : Enc) : Fld :=
  if e.major = 0x1C then (match e.shape.c with | .target => .target | _ => .raw true []) else e.shape.c

/-- The SC escape (R36). -/
def Enc.isEscape (e : Enc) : Bool := e.major = 0x1B && scMinor e.t = 31

/-- The encoding has a second word (R30). -/
def Enc.two (e : Enc) : Bool :=
  let m := e.major.toNat
  m = 0x18 || m = 0x19 || m = 0x1A || m ≥ 0x1D || e.isEscape

/-- The literal code stands in a field that calls for it (R34). -/
def Enc.hasLit (e : Enc) : Bool :=
  let s := e.shape
  !s.reserved && e.major ≠ 0x1C && (s.a.isLit e.t.a || s.b.isLit e.t.b || s.c.isLit e.t.x.c)

/-- The words of the instruction: one or two, and the literal (R34). -/
def Enc.len (e : Enc) : Nat := 1 + b2n e.two + b2n e.hasLit

/-- The guard obeys its rule (R35). -/
def Enc.guardOk (e : Enc) : Bool :=
  match e.shape.guard with
  | .any => e.t.guard ≠ 8
  | .zero => e.t.guard = 0
  | .none => true

/-- Why an encoding is illegal (R37): the first rule that it breaks. -/
inductive Illegal where
  | reservedCode | guardField | dField | aField | bField | cField | mod1Field | mod2Field | flagSelect | fieldRule
  | oddPair | strayLiteral | strayWord1
  deriving DecidableEq, Repr

/-- The decode-level legality of an encoding (R37): none where it is legal. -/
def Enc.illegal (e : Enc) : Option Illegal :=
  let s := e.shape
  let t := e.t
  if s.reserved then some .reservedCode
  else if !e.guardOk then some .guardField
  else if !s.d.ok e.dField s.dn then some .dField
  else if !s.a.ok t.a then some .aField
  else if !s.b.ok t.b then some .bField
  else if !e.cRule.ok e.cField then some .cField
  else if !s.mod1 then some .mod1Field
  else if !s.mod2 then some .mod2Field
  else if t.x.fs && !s.flag then some .flagSelect
  else if !s.extra then some .fieldRule
  else if s.pair && t.a.toNat < 0xC0 && t.a.toNat % 2 = 1 then some .oddPair
  else if !e.hasLit && t.lit ≠ 0 then some .strayLiteral
  else if !e.two && t.x ≠ ⟨0, false, false, 0, 0⟩ then some .strayWord1
  else none

end Sys2Proof.Machine
end

