-- ==== Sys2Proof/WellFormed.lean ====
section
/-!
DEFINITION. The encoding of each instruction as major, minor and fields (02_encoding R36), and when an instruction is
well formed: when its encoding breaks no rule of R37 that can be decided without the machine's state.
-/
namespace Sys2Proof

open Sys2Proof.Machine

/-- No second word. -/
def noWord1 : Word1 := ⟨0, false, false, 0, 0⟩

/-- The fields of a one-word vector instruction. -/
def encVa (major : BitVec 5) (w : VaWord) : Enc := ⟨major, 0, ⟨w.guard, w.d, w.a, w.b, noWord1, w.lit⟩⟩

/-- The fields of a comparison: D is COND and QD (R30). -/
def encVc (major : BitVec 5) (w : VcWord) : Enc := ⟨major, 0, ⟨w.guard, w.cond ++ w.qd, w.a, w.b, noWord1, w.lit⟩⟩

/-- The fields of the short memory format (R30). -/
def encSm (major : BitVec 5) (w : ShortMem) : Enc :=
  ⟨major, 0, ⟨w.guard, w.r, w.a, BitVec.ofBool w.fs ++ BitVec.ofBool w.sp ++ w.off, noWord1, w.lit⟩⟩

/-- The fields of a one-word SC instruction: the minor stands in [26:22] (R30). -/
def encSc (minor : BitVec 5) (w : ScWord) : Enc :=
  ⟨0x1B, 0, ⟨minor.extractLsb' 1 4, minor.extractLsb' 0 1 ++ w.d, w.a, w.b, noWord1, w.lit⟩⟩

/-- The fields of an SC escape: minor 31 (R88). -/
def encSx (minor : BitVec 12) (w : SxWord) : Enc := ⟨0x1B, minor, ⟨15, (1 : BitVec 1) ++ w.d, w.a, w.b, w.x, w.lit⟩⟩

/-- The fields of a CF instruction: the minor stands in [22:19] (R30). -/
def encCf (minor : BitVec 4) (w : CfWord) : Enc :=
  ⟨0x1C, 0, ⟨w.guard, minor ++ w.pay.extractLsb' 16 3, w.pay.extractLsb' 8 8, w.pay.extractLsb' 0 8, noWord1, 0⟩⟩

/-- The fields of a VX instruction: MINOR is the operation and the type (R67). -/
def encVx (op : BitVec 8) (w : VxWord) : Enc := ⟨0x18, op ++ w.ty, w.w⟩

/-- The encoding of an instruction; an event has none (R36). -/
def Instr.enc : Instr → Option Enc
  | .vaAddI32 w => some (encVa 0x00 w)
  | .vaSubI32 w => some (encVa 0x01 w)
  | .vaMulI32 w => some (encVa 0x02 w)
  | .vaAndB32 w => some (encVa 0x03 w)
  | .vaOrB32 w => some (encVa 0x04 w)
  | .vaXorB32 w => some (encVa 0x05 w)
  | .vaShlB32 w => some (encVa 0x06 w)
  | .vaShrN32 w => some (encVa 0x07 w)
  | .vaShrI32 w => some (encVa 0x08 w)
  | .vaMinI32 w => some (encVa 0x09 w)
  | .vaMaxI32 w => some (encVa 0x0A w)
  | .vaMinN32 w => some (encVa 0x0B w)
  | .vaMaxN32 w => some (encVa 0x0C w)
  | .vaAddF32 w => some (encVa 0x0D w)
  | .vaSubF32 w => some (encVa 0x0E w)
  | .vaMulF32 w => some (encVa 0x0F w)
  | .vaMinF32 w => some (encVa 0x10 w)
  | .vaMaxF32 w => some (encVa 0x11 w)
  | .vaAndnB32 w => some (encVa 0x12 w)
  | .vaMovB32 w => some (encVa 0x13 w)
  | .cmpInt w => some (encVc 0x14 w)
  | .cmpFloat w => some (encVc 0x15 w)
  | .ldo w => some (encSm 0x16 w)
  | .sto w => some (encSm 0x17 w)
  | .scAddI32 w => some (encSc 0 w)
  | .scSubI32 w => some (encSc 1 w)
  | .scMulI32 w => some (encSc 2 w)
  | .scAndB32 w => some (encSc 3 w)
  | .scOrB32 w => some (encSc 4 w)
  | .scXorB32 w => some (encSc 5 w)
  | .scShlB32 w => some (encSc 6 w)
  | .scShrN32 w => some (encSc 7 w)
  | .scShrI32 w => some (encSc 8 w)
  | .scMinI32 w => some (encSc 9 w)
  | .scMaxI32 w => some (encSc 10 w)
  | .scMinN32 w => some (encSc 11 w)
  | .scMaxN32 w => some (encSc 12 w)
  | .scMovB32 w => some (encSc 13 w)
  | .scSltI32 w => some (encSc 14 w)
  | .scSltN32 w => some (encSc 15 w)
  | .scSeqB32 w => some (encSc 16 w)
  | .scPopcB32 w => some (encSc 17 w)
  | .scClzB32 w => some (encSc 18 w)
  | .scAddF32 w => some (encSc 19 w)
  | .scMulF32 w => some (encSc 20 w)
  | .scMinF32 w => some (encSc 21 w)
  | .scMaxF32 w => some (encSc 22 w)
  | .scMad w => some (encSx 0x000 w)
  | .scFma w => some (encSx 0x001 w)
  | .scBfe w => some (encSx 0x002 w)
  | .scBfi w => some (encSx 0x003 w)
  | .scCvt w => some (encSx 0x004 w)
  | .scSel w => some (encSx 0x005 w)
  | .cfBra w => some (encCf 0 w)
  | .cfJmp w => some (encCf 1 w)
  | .cfCall w => some (encCf 2 w)
  | .cfRet w => some (encCf 3 w)
  | .cfBrx w => some (encCf 4 w)
  | .cfCallx w => some (encCf 5 w)
  | .cfMeet w => some (encCf 6 w)
  | .cfExit w => some (encCf 7 w)
  | .cfKill w => some (encCf 8 w)
  | .cfYield w => some (encCf 9 w)
  | .cfJz w => some (encCf 10 w)
  | .cfJnz w => some (encCf 11 w)
  | .cfNop w => some (encCf 12 w)
  | .vxAdd w => some (encVx 0x00 w)
  | .vxSub w => some (encVx 0x01 w)
  | .vxMul w => some (encVx 0x02 w)
  | .vxAnd w => some (encVx 0x03 w)
  | .vxOr w => some (encVx 0x04 w)
  | .vxXor w => some (encVx 0x05 w)
  | .vxShl w => some (encVx 0x06 w)
  | .vxShr w => some (encVx 0x07 w)
  | .vxMin w => some (encVx 0x08 w)
  | .vxMax w => some (encVx 0x09 w)
  | .vxAndn w => some (encVx 0x0A w)
  | .vxMov w => some (encVx 0x0B w)
  | .vxAdds w => some (encVx 0x10 w)
  | .vxSubs w => some (encVx 0x11 w)
  | .vxMulhi w => some (encVx 0x12 w)
  | .vxMad w => some (encVx 0x13 w)
  | .vxAbs w => some (encVx 0x14 w)
  | .vxNeg w => some (encVx 0x15 w)
  | .vxLea w => some (encVx 0x16 w)
  | .vxBfe w => some (encVx 0x17 w)
  | .vxBfi w => some (encVx 0x18 w)
  | .vxFshl w => some (encVx 0x19 w)
  | .vxFshr w => some (encVx 0x1A w)
  | .vxPopc w => some (encVx 0x1B w)
  | .vxClz w => some (encVx 0x1C w)
  | .vxBrev w => some (encVx 0x1D w)
  | .vxCmp w => some (encVx 0x1E w)
  | .vxFma w => some (encVx 0x20 w)
  | .vxClamp w => some (encVx 0x21 w)
  | .vxFrnd w => some (encVx 0x22 w)
  | .vxFclass w => some (encVx 0x23 w)
  | .vxRcp w => some (encVx 0x28 w)
  | .vxRsq w => some (encVx 0x29 w)
  | .vxSqrt w => some (encVx 0x2A w)
  | .vxExp2 w => some (encVx 0x2B w)
  | .vxLog2 w => some (encVx 0x2C w)
  | .vxSinpi w => some (encVx 0x2D w)
  | .vxCospi w => some (encVx 0x2E w)
  | .vxTanh w => some (encVx 0x2F w)
  | .vxSigm w => some (encVx 0x30 w)
  | .vxSel w => some (encVx 0x38 w)
  | .vxPand w => some (encVx 0x39 w)
  | .vxPor w => some (encVx 0x3A w)
  | .vxPxor w => some (encVx 0x3B w)
  | .vxPnot w => some (encVx 0x3C w)
  | .vxCvt w => some (encVx 0x40 w)
  | .vxPack w => some (encVx 0x41 w)
  | .vxUnpack w => some (encVx 0x42 w)
  | .xlLpullAbs w => some ⟨0x19, 0x000, w⟩
  | .xlLpullBel w => some ⟨0x19, 0x001, w⟩
  | .xlLpullAbv w => some ⟨0x19, 0x002, w⟩
  | .xlLpullXor w => some ⟨0x19, 0x003, w⟩
  | .xlBcast w => some ⟨0x19, 0x004, w⟩
  | .xlLpeek w => some ⟨0x19, 0x005, w⟩
  | .xlLpoke w => some ⟨0x19, 0x006, w⟩
  | .xlVoteAll w => some ⟨0x19, 0x010, w⟩
  | .xlVoteAny w => some ⟨0x19, 0x011, w⟩
  | .xlVoteEq w => some ⟨0x19, 0x012, w⟩
  | .xlBallot w => some ⟨0x19, 0x013, w⟩
  | .xlScanAdd w => some ⟨0x19, 0x020, w⟩
  | .xlScanMin w => some ⟨0x19, 0x021, w⟩
  | .xlScanMax w => some ⟨0x19, 0x022, w⟩
  | .xlRedAdd w => some ⟨0x19, 0x028, w⟩
  | .xlRedMin w => some ⟨0x19, 0x029, w⟩
  | .xlRedMax w => some ⟨0x19, 0x02A, w⟩
  | .xlRedAnd w => some ⟨0x19, 0x02B, w⟩
  | .xlRedOr w => some ⟨0x19, 0x02C, w⟩
  | .xlMatch w => some ⟨0x19, 0x030, w⟩
  | .mxLd w => some ⟨0x1A, 0x000, w⟩
  | .mxSt w => some ⟨0x1A, 0x001, w⟩
  | .mxLdX2 w => some ⟨0x1A, 0x002, w⟩
  | .mxStX2 w => some ⟨0x1A, 0x003, w⟩
  | .mxLdX4 w => some ⟨0x1A, 0x004, w⟩
  | .mxStX4 w => some ⟨0x1A, 0x005, w⟩
  | .mxLdAcq w => some ⟨0x1A, 0x006, w⟩
  | .mxStRel w => some ⟨0x1A, 0x007, w⟩
  | .mxLdmx w => some ⟨0x1A, 0x008, w⟩
  | .mxPref w => some ⟨0x1A, 0x009, w⟩
  | .mxSld w => some ⟨0x1A, 0x00A, w⟩
  | .mxSst w => some ⟨0x1A, 0x00B, w⟩
  | .mxLdRo w => some ⟨0x1A, 0x00C, w⟩
  | .mxAtomAdd w => some ⟨0x1A, 0x010, w⟩
  | .mxAtomMin w => some ⟨0x1A, 0x011, w⟩
  | .mxAtomMax w => some ⟨0x1A, 0x012, w⟩
  | .mxAtomAnd w => some ⟨0x1A, 0x013, w⟩
  | .mxAtomOr w => some ⟨0x1A, 0x014, w⟩
  | .mxAtomXor w => some ⟨0x1A, 0x015, w⟩
  | .mxAtomXchg w => some ⟨0x1A, 0x016, w⟩
  | .mxAtomCas w => some ⟨0x1A, 0x017, w⟩
  | .mxFence w => some ⟨0x1A, 0x020, w⟩
  | .enTcopy w => some ⟨0x1D, 0x000, w⟩
  | .enTgather w => some ⟨0x1D, 0x001, w⟩
  | .enTbin w => some ⟨0x1D, 0x002, w⟩
  | .enCbload w => some ⟨0x1D, 0x003, w⟩
  | .enHbind w => some ⟨0x1D, 0x004, w⟩
  | .enHwait w => some ⟨0x1D, 0x005, w⟩
  | .enHstate w => some ⟨0x1D, 0x006, w⟩
  | .enHrel w => some ⟨0x1D, 0x007, w⟩
  | .enHsig w => some ⟨0x1D, 0x008, w⟩
  | .enBinset w => some ⟨0x1D, 0x009, w⟩
  | .enBinrd w => some ⟨0x1D, 0x00A, w⟩
  | .enCbstat w => some ⟨0x1D, 0x00B, w⟩
  | .enMma w => some ⟨0x1D, 0x040, w⟩
  | .enTzero w => some ⟨0x1D, 0x041, w⟩
  | .enTget w => some ⟨0x1D, 0x042, w⟩
  | .enTset w => some ⟨0x1D, 0x043, w⟩
  | .enTdrain w => some ⟨0x1D, 0x044, w⟩
  | .enOmap w => some ⟨0x1D, 0x045, w⟩
  | .enOmapRel w => some ⟨0x1D, 0x045, w⟩
  | .enSxsel w => some ⟨0x1D, 0x046, w⟩
  | .enTmov w => some ⟨0x1D, 0x047, w⟩
  | .enTstat w => some ⟨0x1D, 0x048, w⟩
  | .enTfill w => some ⟨0x1D, 0x049, w⟩
  | .enNeval w => some ⟨0x1D, 0x080, w⟩
  | .enNflush w => some ⟨0x1D, 0x081, w⟩
  | .enActload w => some ⟨0x1D, 0x082, w⟩
  | .enNbind w => some ⟨0x1D, 0x083, w⟩
  | .enNstat w => some ⟨0x1D, 0x084, w⟩
  | .gxVamp w => some ⟨0x1E, 0x000, w⟩
  | .gxVclose w => some ⟨0x1E, 0x001, w⟩
  | .gxLensmap w => some ⟨0x1E, 0x002, w⟩
  | .gxPresent w => some ⟨0x1E, 0x003, w⟩
  | .gxVopen w => some ⟨0x1E, 0x004, w⟩
  | .gxVset w => some ⟨0x1E, 0x005, w⟩
  | .gxGazeld w => some ⟨0x1E, 0x006, w⟩
  | .gxVtile w => some ⟨0x1E, 0x007, w⟩
  | .gxVcov w => some ⟨0x1E, 0x008, w⟩
  | .gxVrec w => some ⟨0x1E, 0x009, w⟩
  | .gxRlaunch w => some ⟨0x1E, 0x040, w⟩
  | .gxRload w => some ⟨0x1E, 0x041, w⟩
  | .gxRstore w => some ⟨0x1E, 0x042, w⟩
  | .gxRbox w => some ⟨0x1E, 0x043, w⟩
  | .gxRtri w => some ⟨0x1E, 0x044, w⟩
  | .gxRspush w => some ⟨0x1E, 0x045, w⟩
  | .gxRspop w => some ⟨0x1E, 0x046, w⟩
  | .gxBunion w => some ⟨0x1E, 0x047, w⟩
  | .gxBsah w => some ⟨0x1E, 0x048, w⟩
  | .gxBpack w => some ⟨0x1E, 0x049, w⟩
  | .syLaunch w => some ⟨0x1F, 0x000, w⟩
  | .syQpost w => some ⟨0x1F, 0x001, w⟩
  | .syTspawn w => some ⟨0x1F, 0x002, w⟩
  | .syTreserve w => some ⟨0x1F, 0x003, w⟩
  | .syTcommit w => some ⟨0x1F, 0x004, w⟩
  | .syEvsig w => some ⟨0x1F, 0x005, w⟩
  | .syEvwait w => some ⟨0x1F, 0x006, w⟩
  | .syEvread w => some ⟨0x1F, 0x007, w⟩
  | .syBsync w => some ⟨0x1F, 0x040, w⟩
  | .syBsyncCluster w => some ⟨0x1F, 0x040, w⟩
  | .syBarrive w => some ⟨0x1F, 0x041, w⟩
  | .syBwait w => some ⟨0x1F, 0x042, w⟩
  | .syRsync w => some ⟨0x1F, 0x043, w⟩
  | .syRarrive w => some ⟨0x1F, 0x044, w⟩
  | .syRwait w => some ⟨0x1F, 0x045, w⟩
  | .syVgrow w => some ⟨0x1F, 0x080, w⟩
  | .syVshrink w => some ⟨0x1F, 0x081, w⟩
  | .syVquery w => some ⟨0x1F, 0x082, w⟩
  | .syVzero w => some ⟨0x1F, 0x083, w⟩
  | .syTrap w => some ⟨0x1F, 0x0C0, w⟩
  | .syBrk w => some ⟨0x1F, 0x0C1, w⟩
  | .syCsrr w => some ⟨0x1F, 0x0C2, w⟩
  | .syCsrw w => some ⟨0x1F, 0x0C3, w⟩
  | .syCsrs w => some ⟨0x1F, 0x0C4, w⟩
  | .syCsrc w => some ⟨0x1F, 0x0C5, w⟩
  | .syTret w => some ⟨0x1F, 0x0C6, w⟩
  | .syCtxsave w => some ⟨0x1F, 0x0C7, w⟩
  | .syMsend w => some ⟨0x1F, 0x100, w⟩
  | .syMrecv w => some ⟨0x1F, 0x101, w⟩
  | .syMcast w => some ⟨0x1F, 0x102, w⟩
  | .syMprobe w => some ⟨0x1F, 0x103, w⟩
  | .evClauseIssue _ => none
  | .evTensionRound _ => none
  | .evPortPassoverLimit _ _ => none
  | .evGroupResume _ => none
  | .evLoadReturn _ _ _ _ => none
  | .evStorePerformed _ _ _ => none
  | .evWatchExpiry _ => none
  | .evGroupEnd _ => none
  | .evPageWalk _ => none
  | .evFaultReplay _ _ => none
  | .evFaultAbort _ _ => none
  | .evFaultReplayDone _ _ => none
  | .evPginvStart _ => none
  | .evPginvComplete => none
  | .evCtxdescWrite _ _ => none
  | .evInstall _ => none
  | .evSuspend _ => none
  | .evResume _ _ => none
  | .evRetire _ => none
  | .evDrainingEnd _ => none
  | .evQuantumExpiry _ => none
  | .evEvpost _ _ _ => none
  | .evEntryAppend _ _ => none
  | .evHostAppend _ => none
  | .evQpostReply _ _ _ _ => none
  | .evEntryqMove _ => none
  | .evRecordReady _ => none
  | .evTaskqClosed _ _ => none
  | .evGatherWaitExpiry _ _ => none
  | .evTeamPlace => none
  | .evSchedPassoverLimit _ => none
  | .evDisplayPreempt => none
  | .evTeamEnded _ => none
  | .evVgrowGrant _ => none
  | .evVgrowDeadlockFail _ => none
  | .evTransferStart _ _ _ => none
  | .evTransferComplete _ _ _ => none
  | .evEngineGrant _ => none
  | .evLeaseCountExpiry _ => none
  | .evLeaseIdleExpiry _ => none
  | .evTileOpAccept _ => none
  | .evTileOpComplete _ _ => none
  | .evWindowTimerExpiry _ _ => none
  | .evWindowEnterLocks _ _ => none
  | .evWindowScatter _ _ _ => none
  | .evActSwap _ _ => none
  | .evViewOpRun _ _ => none
  | .evViewOpComplete _ => none
  | .evVsetApply _ => none
  | .evBoundLatchExpiry _ _ => none
  | .evRowEmit _ _ => none
  | .evGazeHostWrite _ _ _ _ => none
  | .evDpOutputChange _ _ _ => none
  | .evTileCreditGrant _ _ => none
  | .evLinkEnable _ => none
  | .evLinkFence _ => none
  | .evLinkDrain _ => none
  | .evLinkDisable _ => none
  | .evLinkTrainingDone _ _ _ _ _ => none
  | .evLinkLaneFail _ => none
  | .evLinkDrainDone _ => none
  | .evBridgeDown _ => none
  | .evRemoteAccess _ _ _ _ _ => none
  | .evHostMemAccess _ _ _ => none
  | .evAttest => none
  | .evAttestDone _ => none
  | .evKeyLoad _ => none
  | .evKeyClear _ => none
  | .evColdReset _ => none
  | .evPowerPolicyChange _ _ => none
  | .evStandbyWake _ => none
  | .evThrottleOn _ => none
  | .evThrottleOff _ _ => none
  | .evTrip _ => none
  | .evUnitGate _ _ => none
  | .evUnitWake _ _ => none
  | .evMgmtRegWrite _ _ _ => none
  | .evRemoteOperationFails _ _ => none
  | .evFlitResend _ => none

/-- A well-formed instruction: its encoding breaks no rule of R37 that the encoding alone decides, and the group minors
told apart by C carry their own C (R231, R270). -/
def Instr.wf (i : Instr) : Bool :=
  match i.enc with
  | none => true
  | some e =>
    e.illegal = none &&
    (match i with
     | .syBsync w => bits w.x.c.toNat 7 6 ≠ 1
     | .syBsyncCluster w => bits w.x.c.toNat 7 6 = 1
     | .enOmap w => w.x.c = 0
     | .enOmapRel w => w.x.c ≠ 0
     | _ => true)

/-- A decoded instruction as it stands in a clause: the instruction and its length in words. -/
abbrev Sized := Instr × Nat

end Sys2Proof
end

