-- ==== Sys2Proof/Decode.lean ====
section
/-!
DEFINITION. The decoder, total on any list of words and rejecting by name, and after it the encoder (02_encoding R30 to
R36). A literal is taken where R34 says that one follows.
-/
namespace Sys2Proof

open Sys2Proof.Machine

/-- The VA instruction of a major opcode (R36). -/
def vaInstr (major : Nat) (w : VaWord) : Option Instr :=
  match major with
  | 0x00 => some (.vaAddI32 w)
  | 0x01 => some (.vaSubI32 w)
  | 0x02 => some (.vaMulI32 w)
  | 0x03 => some (.vaAndB32 w)
  | 0x04 => some (.vaOrB32 w)
  | 0x05 => some (.vaXorB32 w)
  | 0x06 => some (.vaShlB32 w)
  | 0x07 => some (.vaShrN32 w)
  | 0x08 => some (.vaShrI32 w)
  | 0x09 => some (.vaMinI32 w)
  | 0x0A => some (.vaMaxI32 w)
  | 0x0B => some (.vaMinN32 w)
  | 0x0C => some (.vaMaxN32 w)
  | 0x0D => some (.vaAddF32 w)
  | 0x0E => some (.vaSubF32 w)
  | 0x0F => some (.vaMulF32 w)
  | 0x10 => some (.vaMinF32 w)
  | 0x11 => some (.vaMaxF32 w)
  | 0x12 => some (.vaAndnB32 w)
  | 0x13 => some (.vaMovB32 w)
  | _ => none

/-- The one-word SC instruction of a minor (R36). -/
def scInstr (minor : Nat) (w : ScWord) : Option Instr :=
  match minor with
  | 0 => some (.scAddI32 w)
  | 1 => some (.scSubI32 w)
  | 2 => some (.scMulI32 w)
  | 3 => some (.scAndB32 w)
  | 4 => some (.scOrB32 w)
  | 5 => some (.scXorB32 w)
  | 6 => some (.scShlB32 w)
  | 7 => some (.scShrN32 w)
  | 8 => some (.scShrI32 w)
  | 9 => some (.scMinI32 w)
  | 10 => some (.scMaxI32 w)
  | 11 => some (.scMinN32 w)
  | 12 => some (.scMaxN32 w)
  | 13 => some (.scMovB32 w)
  | 14 => some (.scSltI32 w)
  | 15 => some (.scSltN32 w)
  | 16 => some (.scSeqB32 w)
  | 17 => some (.scPopcB32 w)
  | 18 => some (.scClzB32 w)
  | 19 => some (.scAddF32 w)
  | 20 => some (.scMulF32 w)
  | 21 => some (.scMinF32 w)
  | 22 => some (.scMaxF32 w)
  | _ => none

/-- The SC escape of a minor (R36). -/
def sxInstr (minor : Nat) (w : SxWord) : Option Instr :=
  match minor with
  | 0 => some (.scMad w)
  | 1 => some (.scFma w)
  | 2 => some (.scBfe w)
  | 3 => some (.scBfi w)
  | 4 => some (.scCvt w)
  | 5 => some (.scSel w)
  | _ => none

/-- The CF instruction of a minor (R36). -/
def cfInstr (minor : Nat) (w : CfWord) : Option Instr :=
  match minor with
  | 0 => some (.cfBra w)
  | 1 => some (.cfJmp w)
  | 2 => some (.cfCall w)
  | 3 => some (.cfRet w)
  | 4 => some (.cfBrx w)
  | 5 => some (.cfCallx w)
  | 6 => some (.cfMeet w)
  | 7 => some (.cfExit w)
  | 8 => some (.cfKill w)
  | 9 => some (.cfYield w)
  | 10 => some (.cfJz w)
  | 11 => some (.cfJnz w)
  | 12 => some (.cfNop w)
  | _ => none

/-- The VX instruction of an operation number (R36). -/
def vxInstr (op : Nat) (w : VxWord) : Option Instr :=
  match op with
  | 0x00 => some (.vxAdd w)
  | 0x01 => some (.vxSub w)
  | 0x02 => some (.vxMul w)
  | 0x03 => some (.vxAnd w)
  | 0x04 => some (.vxOr w)
  | 0x05 => some (.vxXor w)
  | 0x06 => some (.vxShl w)
  | 0x07 => some (.vxShr w)
  | 0x08 => some (.vxMin w)
  | 0x09 => some (.vxMax w)
  | 0x0A => some (.vxAndn w)
  | 0x0B => some (.vxMov w)
  | 0x10 => some (.vxAdds w)
  | 0x11 => some (.vxSubs w)
  | 0x12 => some (.vxMulhi w)
  | 0x13 => some (.vxMad w)
  | 0x14 => some (.vxAbs w)
  | 0x15 => some (.vxNeg w)
  | 0x16 => some (.vxLea w)
  | 0x17 => some (.vxBfe w)
  | 0x18 => some (.vxBfi w)
  | 0x19 => some (.vxFshl w)
  | 0x1A => some (.vxFshr w)
  | 0x1B => some (.vxPopc w)
  | 0x1C => some (.vxClz w)
  | 0x1D => some (.vxBrev w)
  | 0x1E => some (.vxCmp w)
  | 0x20 => some (.vxFma w)
  | 0x21 => some (.vxClamp w)
  | 0x22 => some (.vxFrnd w)
  | 0x23 => some (.vxFclass w)
  | 0x28 => some (.vxRcp w)
  | 0x29 => some (.vxRsq w)
  | 0x2A => some (.vxSqrt w)
  | 0x2B => some (.vxExp2 w)
  | 0x2C => some (.vxLog2 w)
  | 0x2D => some (.vxSinpi w)
  | 0x2E => some (.vxCospi w)
  | 0x2F => some (.vxTanh w)
  | 0x30 => some (.vxSigm w)
  | 0x38 => some (.vxSel w)
  | 0x39 => some (.vxPand w)
  | 0x3A => some (.vxPor w)
  | 0x3B => some (.vxPxor w)
  | 0x3C => some (.vxPnot w)
  | 0x40 => some (.vxCvt w)
  | 0x41 => some (.vxPack w)
  | 0x42 => some (.vxUnpack w)
  | _ => none

/-- The XL instruction of a minor (R36). -/
def xlInstr (minor : Nat) (w : TwoWord) : Option Instr :=
  match minor with
  | 0x000 => some (.xlLpullAbs w)
  | 0x001 => some (.xlLpullBel w)
  | 0x002 => some (.xlLpullAbv w)
  | 0x003 => some (.xlLpullXor w)
  | 0x004 => some (.xlBcast w)
  | 0x005 => some (.xlLpeek w)
  | 0x006 => some (.xlLpoke w)
  | 0x010 => some (.xlVoteAll w)
  | 0x011 => some (.xlVoteAny w)
  | 0x012 => some (.xlVoteEq w)
  | 0x013 => some (.xlBallot w)
  | 0x020 => some (.xlScanAdd w)
  | 0x021 => some (.xlScanMin w)
  | 0x022 => some (.xlScanMax w)
  | 0x028 => some (.xlRedAdd w)
  | 0x029 => some (.xlRedMin w)
  | 0x02A => some (.xlRedMax w)
  | 0x02B => some (.xlRedAnd w)
  | 0x02C => some (.xlRedOr w)
  | 0x030 => some (.xlMatch w)
  | _ => none

/-- The MX instruction of a minor (R36). -/
def mxInstr (minor : Nat) (w : TwoWord) : Option Instr :=
  match minor with
  | 0x000 => some (.mxLd w)
  | 0x001 => some (.mxSt w)
  | 0x002 => some (.mxLdX2 w)
  | 0x003 => some (.mxStX2 w)
  | 0x004 => some (.mxLdX4 w)
  | 0x005 => some (.mxStX4 w)
  | 0x006 => some (.mxLdAcq w)
  | 0x007 => some (.mxStRel w)
  | 0x008 => some (.mxLdmx w)
  | 0x009 => some (.mxPref w)
  | 0x00A => some (.mxSld w)
  | 0x00B => some (.mxSst w)
  | 0x00C => some (.mxLdRo w)
  | 0x010 => some (.mxAtomAdd w)
  | 0x011 => some (.mxAtomMin w)
  | 0x012 => some (.mxAtomMax w)
  | 0x013 => some (.mxAtomAnd w)
  | 0x014 => some (.mxAtomOr w)
  | 0x015 => some (.mxAtomXor w)
  | 0x016 => some (.mxAtomXchg w)
  | 0x017 => some (.mxAtomCas w)
  | 0x020 => some (.mxFence w)
  | _ => none

/-- The EN instruction of a minor (R36). -/
def enInstr (minor : Nat) (w : TwoWord) : Option Instr :=
  match minor with
  | 0x000 => some (.enTcopy w)
  | 0x001 => some (.enTgather w)
  | 0x002 => some (.enTbin w)
  | 0x003 => some (.enCbload w)
  | 0x004 => some (.enHbind w)
  | 0x005 => some (.enHwait w)
  | 0x006 => some (.enHstate w)
  | 0x007 => some (.enHrel w)
  | 0x008 => some (.enHsig w)
  | 0x009 => some (.enBinset w)
  | 0x00A => some (.enBinrd w)
  | 0x00B => some (.enCbstat w)
  | 0x040 => some (.enMma w)
  | 0x041 => some (.enTzero w)
  | 0x042 => some (.enTget w)
  | 0x043 => some (.enTset w)
  | 0x044 => some (.enTdrain w)
  | 0x045 => some (if w.x.c = 0 then .enOmap w else .enOmapRel w)
  | 0x046 => some (.enSxsel w)
  | 0x047 => some (.enTmov w)
  | 0x048 => some (.enTstat w)
  | 0x049 => some (.enTfill w)
  | 0x080 => some (.enNeval w)
  | 0x081 => some (.enNflush w)
  | 0x082 => some (.enActload w)
  | 0x083 => some (.enNbind w)
  | 0x084 => some (.enNstat w)
  | _ => none

/-- The GX instruction of a minor (R36). -/
def gxInstr (minor : Nat) (w : TwoWord) : Option Instr :=
  match minor with
  | 0x000 => some (.gxVamp w)
  | 0x001 => some (.gxVclose w)
  | 0x002 => some (.gxLensmap w)
  | 0x003 => some (.gxPresent w)
  | 0x004 => some (.gxVopen w)
  | 0x005 => some (.gxVset w)
  | 0x006 => some (.gxGazeld w)
  | 0x007 => some (.gxVtile w)
  | 0x008 => some (.gxVcov w)
  | 0x009 => some (.gxVrec w)
  | 0x040 => some (.gxRlaunch w)
  | 0x041 => some (.gxRload w)
  | 0x042 => some (.gxRstore w)
  | 0x043 => some (.gxRbox w)
  | 0x044 => some (.gxRtri w)
  | 0x045 => some (.gxRspush w)
  | 0x046 => some (.gxRspop w)
  | 0x047 => some (.gxBunion w)
  | 0x048 => some (.gxBsah w)
  | 0x049 => some (.gxBpack w)
  | _ => none

/-- The SY instruction of a minor (R36). -/
def syInstr (minor : Nat) (w : TwoWord) : Option Instr :=
  match minor with
  | 0x000 => some (.syLaunch w)
  | 0x001 => some (.syQpost w)
  | 0x002 => some (.syTspawn w)
  | 0x003 => some (.syTreserve w)
  | 0x004 => some (.syTcommit w)
  | 0x005 => some (.syEvsig w)
  | 0x006 => some (.syEvwait w)
  | 0x007 => some (.syEvread w)
  | 0x040 => some (if bits w.x.c.toNat 7 6 = 1 then .syBsyncCluster w else .syBsync w)
  | 0x041 => some (.syBarrive w)
  | 0x042 => some (.syBwait w)
  | 0x043 => some (.syRsync w)
  | 0x044 => some (.syRarrive w)
  | 0x045 => some (.syRwait w)
  | 0x080 => some (.syVgrow w)
  | 0x081 => some (.syVshrink w)
  | 0x082 => some (.syVquery w)
  | 0x083 => some (.syVzero w)
  | 0x0C0 => some (.syTrap w)
  | 0x0C1 => some (.syBrk w)
  | 0x0C2 => some (.syCsrr w)
  | 0x0C3 => some (.syCsrw w)
  | 0x0C4 => some (.syCsrs w)
  | 0x0C5 => some (.syCsrc w)
  | 0x0C6 => some (.syTret w)
  | 0x0C7 => some (.syCtxsave w)
  | 0x100 => some (.syMsend w)
  | 0x101 => some (.syMrecv w)
  | 0x102 => some (.syMcast w)
  | 0x103 => some (.syMprobe w)
  | _ => none

/-- The instruction of an encoding, whether legal or not; none where major and minor name no instruction. -/
def Machine.Enc.instr (e : Enc) : Option Instr :=
  let t := e.t
  let major := e.major.toNat
  if major < 0x14 then vaInstr major ⟨t.guard, t.d, t.a, t.b, t.lit⟩
  else if major = 0x14 then some (.cmpInt ⟨t.guard, t.d.extractLsb' 3 4, t.d.extractLsb' 0 3, t.a, t.b, t.lit⟩)
  else if major = 0x15 then some (.cmpFloat ⟨t.guard, t.d.extractLsb' 3 4, t.d.extractLsb' 0 3, t.a, t.b, t.lit⟩)
  else if major = 0x16 then some (.ldo ⟨t.guard, t.d, t.a, t.b.getLsbD 7, t.b.getLsbD 6, t.b.extractLsb' 0 6, t.lit⟩)
  else if major = 0x17 then some (.sto ⟨t.guard, t.d, t.a, t.b.getLsbD 7, t.b.getLsbD 6, t.b.extractLsb' 0 6, t.lit⟩)
  else if major = 0x18 then vxInstr (e.minor.extractLsb' 4 8).toNat ⟨e.minor.extractLsb' 0 4, t⟩
  else if major = 0x19 then xlInstr e.minor.toNat t
  else if major = 0x1A then mxInstr e.minor.toNat t
  else if major = 0x1B then
    if scMinor t = 31 then sxInstr e.minor.toNat ⟨t.d.extractLsb' 0 6, t.a, t.b, t.x, t.lit⟩
    else scInstr (scMinor t) ⟨t.d.extractLsb' 0 6, t.a, t.b, t.lit⟩
  else if major = 0x1C then cfInstr (cfMinor t) ⟨t.guard, cfPay t⟩
  else if major = 0x1D then enInstr e.minor.toNat t
  else if major = 0x1E then gxInstr e.minor.toNat t
  else syInstr e.minor.toNat t

/-- The fields of word 0 (R30). -/
def fields0 (w : Word) (x : Word1) (lit : Word) : TwoWord :=
  ⟨w.extractLsb' 23 4, w.extractLsb' 16 7, w.extractLsb' 8 8, w.extractLsb' 0 8, x, lit⟩

/-- The fields of word 1, but for MINOR (R31). -/
def fields1 (w : Word) : Word1 :=
  ⟨w.extractLsb' 12 8, w.getLsbD 11, w.getLsbD 10, w.extractLsb' 7 3, w.extractLsb' 0 7⟩

/-- Why words give no instruction. -/
inductive DecodeError where
  /-- word 1 or the literal lies beyond the words given -/
  | truncated
  /-- an illegal encoding, by the rule it breaks (R37) -/
  | illegal (why : Illegal)
  deriving DecidableEq, Repr

/-- The encoding at the head of a list of words: none where word 1 or the literal lies beyond it (R27, R34). -/
def readEnc : List Word → Option Enc
  | [] => none
  | w0 :: ws =>
    let major := w0.extractLsb' 27 5
    let one : Enc := ⟨major, 0, fields0 w0 noWord1 0⟩
    let e? : Option (Enc × List Word) :=
      if one.two then
        match ws with
        | [] => none
        | w1 :: rest => some (⟨major, w1.extractLsb' 20 12, fields0 w0 (fields1 w1) 0⟩, rest)
      else some (one, ws)
    match e? with
    | none => none
    | some (e, rest) =>
      if e.hasLit then
        match rest with
        | [] => none
        | l :: _ => some { e with t := { e.t with lit := l } }
      else some e

/-- The decoder: the instruction at the head of a list of words and its length, or why there is none. -/
def decode (ws : List Word) : Except DecodeError Sized :=
  match readEnc ws with
  | none => .error .truncated
  | some e =>
    match e.illegal with
    | some why => .error (.illegal why)
    | none =>
      match e.instr with
      | none => .error (.illegal .reservedCode)
      | some i => .ok (i, e.len)

/-- Word 0 of an encoding (R30). -/
def Machine.Enc.word0 (e : Enc) : Word := e.major ++ e.t.guard ++ e.t.d ++ e.t.a ++ e.t.b

/-- Word 1 of an encoding (R31). -/
def Machine.Enc.word1 (e : Enc) : Word :=
  e.minor ++ e.t.x.c ++ BitVec.ofBool e.t.x.fs ++ BitVec.ofBool e.t.x.nr ++ e.t.x.mod1 ++ e.t.x.mod2

/-- The words of an encoding: word 0, word 1 where there is one, and the literal where one follows. -/
def Machine.Enc.words (e : Enc) : List Word :=
  e.word0 :: ((if e.two then [e.word1] else []) ++ (if e.hasLit then [e.t.lit] else []))

/-- The encoder: the words of an instruction; an event has none. -/
def encode (i : Instr) : List Word :=
  match i.enc with
  | none => []
  | some e => Enc.words e

/-- The words that a table word spells: bit 0 is the least significant bit of the first word, and every bit above `nbits`
is 0 (the longest instruction has three words). -/
def tableWords (nbits w : Nat) : List Word :=
  let v := w % 2 ^ nbits
  [BitVec.ofNat 32 v, BitVec.ofNat 32 (v >>> 32), BitVec.ofNat 32 (v >>> 64)]

/-- The instruction that the decoder reads from a table word. -/
def decodeTableWord (nbits w : Nat) : Option Instr :=
  match decode (tableWords nbits w) with
  | .ok (i, _) => some i
  | .error _ => none

end Sys2Proof
end

