-- ==== Sys2Proof/Config.lean ====
section
/-!
DEFINITION. What an implementation or the outside fixes and the specification leaves open. Each constant is opaque: no
proof can see a value of it (notes/assumptions names each).
-/
namespace Sys2Proof.Config

/-- A special-function result that the model's evaluation does not decide: by operation and mode, and operand (log 9). -/
opaque sfuFree : Nat → Nat → Nat

/-- A fresh free value, by the state's free-value counter (log 9). -/
opaque freeValue : Nat → Nat

/-- How many ac pass in a step, by the number of the step (log 2). -/
opaque acPerStep : Nat → Nat

/-- The byte that host memory holds at an address which the module has not written (log 8). -/
opaque hostByte : Nat → Byte

/-- A granule of memory as read under a key other than the one it was written under: the key it is read under, the granule,
the key it was written under with its 256 bytes, and the number of the byte read (log 7). -/
opaque cipherByte : Nat → Nat → List Nat → Nat → Nat

/-- The signature of a register cell, by its width and the lanes that do not hold 0 (11_register R210; log 67). -/
opaque signature : Nat → List (Nat × Nat) → BitVec 32

/-- The hottest junction of the module in °C, by the number of the step, before the limits of R380 bound it (log 79). -/
opaque junction : Nat → Nat

/-- The worst slack on a die, by the number of the step and the die (19_device R380; log 79). -/
opaque slack : Nat → Nat → Nat

/-- A byte of the Ed448 signature of a device over the SHAKE256 of some data: the device's public key, the data, and the number of
the byte (19_device R382; log 58). -/
opaque attestByte : List Nat → List Nat → Nat → Byte

end Sys2Proof.Config
end

