-- ==== Sys2Proof/Machine/Parts.lean ====
section
/-!
DEFINITION. The parts of the machine's state that groups, memory, translation, contexts and queues hold (chapters 05 to
11 and 17). Plain data; the names are the specification's.
-/
namespace Sys2Proof.Machine

/-- A register as the scoreboard knows it (02_encoding R28). -/
inductive Reg where
  | v (n : Nat)
  | s (n : Nat)
  | q (n : Nat)
  deriving DecidableEq, Repr

/-- The trap causes (07_context R144). -/
inductive Cause where
  | ill | priv | align | page | prot | rlock | peer | compr | memerr | neth | mcast | watch | stack | link | hstate
  | brk | trap
  deriving DecidableEq, Repr

/-- The code of a cause (07_context R144). -/
def Cause.code : Cause → Nat
  | .ill => 1 | .priv => 2 | .align => 3 | .page => 4 | .prot => 5 | .rlock => 6 | .peer => 7 | .compr => 8
  | .memerr => 9 | .neth => 10 | .mcast => 11 | .watch => 12 | .stack => 13 | .link => 14 | .hstate => 15
  | .brk => 16 | .trap => 17

/-- A trap as the frame records it (07_context R146). -/
structure Trap where
  cause : Cause
  tmask : Mask := 0
  addr : Nat := 0
  info : Nat := 0
  deriving DecidableEq, Repr

/-- The lane states (10_group R190). -/
inductive LaneSt where
  | ready | held | waiting | exited
  deriving DecidableEq, Repr

/-- The code of a lane state (10_group R190). -/
def LaneSt.code : LaneSt → Nat
  | .ready => 0 | .held => 1 | .waiting => 2 | .exited => 3

/-- The lane state of a code. -/
def LaneSt.ofCode (c : Nat) : LaneSt := nth .exited [.ready, .held, .waiting] c

/-- A ray slot of a lane (17_ray R341): the binding, the record's fields, the current reference and the short stack. -/
structure RaySlot where
  /-- the index of the bound ray in the pool, if a ray is bound -/
  index : Option Nat := none
  /-- the record's 16 words -/
  words : List Word := []
  /-- the current node reference -/
  ref : Word := 0
  /-- the short stack, top first, at most 8 -/
  stack : List Word := []
  lost : Nat := 0
  deriving DecidableEq, Repr

/-- The state of one lane (10_group R190, R191, R204; 08_queue R171). -/
structure Lane where
  pc : Word
  /-- MR; the clear value is 0xFFFF_FFFF -/
  mr : Word := 0xFFFFFFFF
  /-- the clause base that the trap frame records (07_context R146) -/
  cb : Word := 0xFFFFFFFF
  st : LaneSt := .ready
  bypass : Nat := 0
  depth : Nat := 0
  committed : Bool := true
  /-- the queue of the lane's reservations, and their count -/
  resQ : Nat := 0
  res : Nat := 0
  /-- the Running task slot that the lane executes -/
  taskSlot : Option Nat := none
  /-- the Pending slots it has spawned, in spawn order, with their queue -/
  pending : List (Nat × Nat) := []
  /-- the address of the bound ID word of a pixel lane (16_view R333) -/
  vbind : Option Nat := none
  ray : RaySlot := {}
  deriving DecidableEq, Repr

/-- The registers of a group; v[n] of lane L stands at key 64 n + L (10_group, 11_register). -/
structure Regs where
  s : Tab Word := []
  v : Tab Word := []
  q : Tab Mask := []
  f : Tab Nat := []
  deriving DecidableEq, Repr

/-- The control registers of a group (07_context R149, 17_ray R339). -/
structure Ctl where
  fmode : Nat := 0
  fstat : Flags := 0
  tdepth : Nat := 0
  /-- %wdog is now - wdog0 while the group holds a slot -/
  wdog0 : Int := 0
  /-- %wdog of a saved group -/
  wdogSaved : Nat := 0
  clockh : Nat := 0
  sppriv : Nat := 0
  spteam : Nat := 0
  stklim : Nat := 0
  stkbase : Nat := 0
  tfbase : Nat := 0
  rpbase : Nat := 0
  rpcap : Nat := 0
  bvhbase : Nat := 0
  deriving DecidableEq, Repr

/-- The place of one byte that an access reaches (05_memory R89, R90, R94). -/
inductive Loc where
  /-- a byte of a core's scratchpad -/
  | sp (core off : Nat)
  /-- a byte of a die's chip scratchpad -/
  | csp (die off : Nat)
  /-- a byte at a physical address, under a key -/
  | mem (pa key : Nat)
  /-- a byte of a stack, reached through the group's stack cache -/
  | stk (pa key : Nat)
  /-- a byte of another module, as the module map names it: the module, the context slot there, the requesting context and the
  52-bit address (18_link R363, R364) -/
  | far (mod rctx fctx addr : Nat)
  deriving DecidableEq, Repr

/-- The atomic operations (05_memory R109). -/
inductive AtomOp where
  | add | min | max | and | or | xor | xchg | cas
  deriving DecidableEq, Repr

/-- One lane's part of an atomic: its place, operand and compare value. -/
structure AtomLane where
  lane : Nat
  loc : Loc
  b : Word
  c : Word
  deriving DecidableEq, Repr

/-- What a store-queue entry performs (05_memory R100, R109). -/
inductive SqWork where
  | store (cells : List (Loc × Byte))
  /-- an atomic; `d` is the register that takes the old values, if any -/
  | atomic (op : AtomOp) (ty : Ty) (lanes : List AtomLane) (d : Option Nat)
  deriving DecidableEq, Repr

/-- A leaf held in a translation cache (06_page R132). -/
structure Leaf where
  /-- none: a global leaf -/
  ctx : Option Nat
  level : Nat
  vpn : Nat
  pte : Nat
  /-- the physical address of the entry -/
  entry : Nat
  /-- the partition, PBASE and PSIZE, whose contexts a global leaf serves -/
  part : Nat × Nat := (0, 0)
  deriving DecidableEq, Repr

/-- A store-queue entry (05_memory R97): its work, the flag it holds, and what a later MEMERR or LINK reports. -/
structure SqEnt where
  work : SqWork
  flag : Option Nat
  pc : Word
  lanes : Mask
  addr : Nat
  far : Bool
  /-- performed only after every earlier access of the group (st.rel) -/
  rel : Bool := false
  /-- the pending entry of an atomic's destination -/
  pend : Option Nat := none
  /-- the loads of other modules that were in flight when it was issued: it is performed after them (R113) -/
  after : List Nat := []
  /-- the translations that it uses: none is gone while it waits (06_page R132) -/
  via : List Leaf := []
  deriving DecidableEq, Repr

/-- One word that a load of another module awaits: where it goes and how it is extended. -/
structure FarWord where
  reg : Reg
  lane : Nat
  ty : Ty
  /-- the one byte of the register that it replaces -/
  byte : Option Nat := none
  deriving DecidableEq, Repr

/-- A ray instruction that reads memory, with its destination and, by lane, the ray's index or the reference (17_ray R346 to
R348). -/
inductive RayWork where
  | load (d : Nat) (lanes : List (Nat × Nat))
  | box (d : Nat) (lanes : List (Nat × Word)) (fm : FMode := {})
  | tri (qd : Nat) (lanes : List (Nat × Word)) (fm : FMode := {})
  deriving DecidableEq, Repr

/-- What an operation in flight is. -/
inductive PendKind where
  /-- a load whose values are known -/
  | load
  /-- a load of another module -/
  | far (words : List FarWord)
  /-- an atomic whose store-queue entry is not yet performed -/
  | atomic
  /-- a ray instruction, with the words read for each lane; none: awaited from another module -/
  | ray (w : RayWork) (words : List (Option (List Word)))
  /-- an append to another module's entry queue: QD and the lanes that receive the answer (08_queue R175) -/
  | qpost (qd : Nat) (lanes : Mask)
  /-- an engine operation, by its unique number; its results are written when it completes -/
  | engine (op : Nat)
  /-- a prefetch, which raises no trap (05_memory R105) -/
  | pref
  /-- the stack load of a ret, with the word read for each lane (10_group R202) -/
  | ret (words : List (Nat × Word))
  /-- a record in another module that an instruction reads before its effect: its bytes, once they have returned (log 69) -/
  | block (n : Nat) (bytes : Option (List Byte))
  deriving DecidableEq, Repr

/-- The key of a neval that has missed in the stitch table, the contents that it names as sources, its destination and outputs
(15_net R303). -/
structure NetKey where
  key : List (List Nat)
  srcs : List (Nat × Tab Word)
  d : Nat
  nout : Nat
  deriving DecidableEq, Repr

/-- An operation in flight: the registers the scoreboard holds for it, the values it will write, and its flag
(02_encoding R28, 05_memory R106). -/
structure Pend where
  id : Nat
  regs : List Reg
  vals : List (Reg × Nat × Word) := []
  flag : Option Nat
  pc : Word
  lanes : Mask
  addr : Nat := 0
  kind : PendKind
  /-- performed before every later access of the group (ld.acq) -/
  acq : Bool := false
  /-- where its bytes lie: dies 0 to 7, 8 host memory, 9 another module (01_module R13, 18_link R362) -/
  homes : List Nat := []
  /-- what a neval enters in the stitch table when it completes -/
  key : Option NetKey := none
  deriving DecidableEq, Repr

/-- An error found after issue and not yet taken (05_memory R106; also stopped engine operations, R253, R296, R335). -/
structure Late where
  trap : Trap
  /-- the registers whose next read takes it; empty: only a fence, release, acquire or exit -/
  regs : List Reg
  /-- the handle whose next naming takes it (R253) -/
  handle : Option Nat := none
  /-- the next tile instruction takes it (14_tile R273) -/
  tile : Bool := false
  /-- the neval whose rows failed: an instruction that writes one of its registers takes it too, and the failures are
  taken in program order (15_net R296) -/
  neval : Option Nat := none
  deriving DecidableEq, Repr

/-- Who waits on a fault slot (06_page R134). -/
inductive Party where
  | group (g : Nat)
  | fetch (g : Nat)
  | copy (op : Nat)
  | skein (core window : Nat)
  | view (op : Nat)
  | ray (op : Nat)
  deriving DecidableEq, Repr

/-- Why a group is parked (10_group R200). -/
inductive Park where
  /-- a register of the list is pending -/
  | reg (rs : List Reg)
  /-- flag f is at 63 -/
  | flag (f : Nat)
  /-- the store queue is full -/
  | storeFull
  /-- an own atomic on the bytes read is still queued -/
  | ownAtomic
  /-- scratchpad lines (core, line) that must be present -/
  | absent (lines : List (Nat × Nat))
  /-- every earlier access must be performed (fence, releases and signals) -/
  | drain
  /-- a translation is missing: address, write and fetch -/
  | walk (va : Nat) (write fetch : Bool)
  /-- parked on a fault slot of a die -/
  | fault (die slot : Nat)
  /-- faulting, with no free fault slot -/
  | slotless
  /-- evwait on counter c with its target -/
  | event (c : Nat) (target : Word)
  /-- a barrier wait, completed by the barrier itself (12_barrier) -/
  | barrier (kind index : Nat)
  /-- hwait for a state of the core's handle (13_transfer R258) -/
  | handle (h st : Nat)
  /-- at a tile instruction, for the matrix engine or for room among issued operations (14_tile R262, R263) -/
  | tile
  /-- csrr %fstat waits for the flags of the group's tile operations (14_tile R280) -/
  | fstat
  /-- behind a ctxsave, until the group has been saved and restored (07_context R151) -/
  | saved
  /-- the cause has cleared: the group waits for its port to resume inside its clause (10_group R199, 02_encoding R29) -/
  | ready
  /-- ret, until its stack load returns (10_group R202) -/
  | ret (op : Nat)
  /-- until a record of another module returns (log 69) -/
  | block (op : Nat)
  /-- a load of this module behind a load of another module that has not returned (05_memory R113) -/
  | earlierLoad
  /-- vgrow for a count of granules (11_register R224) -/
  | vgrow (n : Nat)
  /-- neval waiting for a window slot or for rows to enter (15_net R289) -/
  | window
  /-- a message wait: msend or mcast for room in clusters, mrecv for a flit (18_link R374) -/
  | message (clusters : List Nat)
  | receive
  /-- vclose behind the group's own vamp operations of a set (16_view R330) -/
  | vamps (set : Nat)
  /-- vopen of a set (16_view R318) -/
  | vopen (set : Nat)
  /-- a trap whose frame cannot be written yet (log 11): the trap, IPC, NPC, CBASE and IMASK it will record -/
  | frame (t : Trap) (ipc npc cbase : Word) (imask : Mask)
  /-- a trap is fatal: the group has stopped (07_context R145) -/
  | fatal
  deriving DecidableEq, Repr

/-- The open clause issue of a group (10_group R192, 02_encoding R29). -/
structure Clause where
  base : Word
  hdr : Word
  /-- words 1 to COUNT as fetched -/
  words : List Word
  /-- the word at which issue stands, 1 to COUNT -/
  pos : Nat
  /-- the length of the instruction being issued -/
  ilen : Nat := 1
  /-- the issued lanes I -/
  lanes : Mask
  /-- `yield` has marked I for StepAside (R197) -/
  aside : Bool := false
  /-- the port that the clause holds, 0 V0 to 4 E; a mixed clause holds none from word to word (R199) -/
  port : Option Nat := none
  deriving DecidableEq, Repr

/-- The issue state of a group. -/
structure Flow where
  round : Mask := 0
  stepAside : Mask := 0
  clause : Option Clause := none
  park : Option Park := none
  /-- decisions by which each port has passed the group over, and the ports at which it ranks ahead (R199) -/
  passed : Tab Nat := []
  ahead : List Nat := []
  /-- an aborted PAGE, or the LINK of a fetch's walk, to be taken when the group next issues (07_context R145; log 82) -/
  abort : Option Trap := none
  /-- issue is stopped at the next clause boundary (R153 step 1) -/
  stop : Bool := false
  /-- the last lane has exited -/
  ended : Bool := false
  /-- the frame address of the fatal trap is recorded -/
  fatal : Bool := false
  /-- the lanes and the address that a PAGE would report for the walk or fault slot that the group waits for -/
  pageLanes : Mask := 0
  pageAddr : Nat := 0
  /-- the operations withdrawn at a pre-emption, by number, with the lanes that went back to their words (14_tile R281,
  16_view R336) -/
  redo : List (Nat × Mask) := []
  deriving DecidableEq, Repr

/-- An operand map m0 to m3 (14_tile R268). -/
structure OMap where
  fmt : Nat
  t : Bool
  sc : Bool
  h : Bool
  base : Nat
  stride : Nat
  /-- the range-lock entry that the map holds -/
  lock : Nat
  deriving DecidableEq, Repr

/-- The barrier state of a group (12_barrier R226): the parities it has arrived in, and its role counters. -/
structure GroupBar where
  arr : Tab Nat := []
  /-- AE reads 1 at start: an unlisted number is 1 -/
  ae : Tab Nat := []
  af : Tab Nat := []
  we : Tab Nat := []
  wf : Tab Nat := []
  /-- the bsync and rsync words at which it has arrived and still waits, with the phase count that a cluster barrier
  had (R232) -/
  arrived : List (Word × Nat) := []
  deriving DecidableEq, Repr

/-- A bank of an activation table (15_net R299): bounds and 64 segments, an unlisted one zero. -/
structure ActBank where
  lo : Word := 0xBF800000
  hi : Word := 0x3F800000
  segs : List Word := []
  deriving DecidableEq, Repr

/-- A net handle of a context (15_net R283): the record's 64 words as bound, and their generation. -/
structure NetRec where
  words : List Word := []
  gen : Nat := 0
  deriving DecidableEq, Repr

/-- A row of a gather window (15_net R288): one lane's request. -/
structure NetRow where
  group : Nat
  team : Nat
  lane : Nat
  input : List Word
  vd : Nat
  nout : Nat
  /-- the neval, by the number of its pending entry, and its word -/
  op : Nat
  pc : Word
  deriving DecidableEq, Repr

/-- What a window's rows are evaluated with: the snapshot, and each pinned table's number, generation and bank (15_net
R288). -/
structure NetSnap where
  net : NetRec
  handle : Nat
  pins : List (Nat × Nat × ActBank)
  deriving DecidableEq, Repr

/-- A neval that waits with some of its rows entered (15_net R289). -/
structure NevalWait where
  pc : Word
  op : Nat
  entered : Mask
  deriving DecidableEq, Repr

/-- The accesses of a group in flight. -/
structure Io where
  sq : List SqEnt := []
  pend : List Pend := []
  late : List Late := []
  /-- bytes of the stack cache not yet written back: physical address to byte, with the page's key -/
  stk : Tab (Nat × Nat) := []
  maps : Tab (Option OMap) := []
  /-- the nevals that wait with rows entered, one at each word (15_net R289) -/
  nevals : List NevalWait := []
  /-- rows taken out of Faulted windows and saved with the group (15_net R297) -/
  rows : List (NetRow × NetSnap) := []
  deriving DecidableEq, Repr

/-- A group (10_group R190 to R201). -/
structure Group where
  team : Nat
  gid : Nat
  /-- module core number -/
  core : Nat
  slot : Nat
  /-- the group holds a slot -/
  on : Bool := true
  w : Nat
  /-- registers a lane, a multiple of 8 (%vregs) -/
  alloc : Nat
  /-- the register block of each granule, lowest registers first (09_kernel R183) -/
  grans : List Nat := []
  lanes : List Lane
  regs : Regs := {}
  ctl : Ctl := {}
  flow : Flow := {}
  io : Io := {}
  bar : GroupBar := {}
  /-- the first of its accumulator tiles on the core, and how many -/
  tile0 : Nat := 0
  tiles : Nat := 0
  /-- its stack area -/
  area : Nat := 0
  deriving DecidableEq, Repr

/-- A kernel descriptor as the scheduler keeps it (09_kernel R178). -/
structure Kernel where
  stkAreas : Nat := 1
  stkArena : Nat := 0
  stkLim : Nat := 0
  tension : Nat := 256
  lease : Nat := 16
  promise : Bool := true
  reuse : Bool := true
  spPriv : Nat := 0
  spTeam : Nat := 0
  acc : Nat := 0
  width : Nat := 0
  team : Nat := 1
  prod : Nat := 0
  vgp : Nat := 0
  vgc : Nat := 1
  hndl : Nat := 0
  msg : Bool := false
  entry : Word := 0
  deriving DecidableEq, Repr

/-- W of a kernel (09_kernel R178). -/
def Kernel.w (k : Kernel) : Nat := if k.width = 0 then 16 else if k.width = 1 then 32 else 64

/-- The states of a launch-queue record (08_queue R165). -/
inductive RecSt where
  | waiting | ready | placing | placed
  deriving DecidableEq, Repr

/-- A record in a launch queue (08_queue R160, R165). -/
structure Record where
  ctx : Nat
  words : RecordWords
  age : Nat
  st : RecSt := .waiting
  met0 : Bool := false
  met1 : Bool := false
  /-- the kernel descriptor has been read and the checks of R161 passed -/
  kern : Option Kernel := none
  /-- the next %teamid to place for the first time -/
  next : Nat := 0
  /-- teams that are Ended -/
  ended : Nat := 0
  /-- placement decisions by which it has been passed over, and whether it blocks younger records (R166) -/
  passed : Nat := 0
  blocks : Bool := false
  deriving DecidableEq, Repr

/-- The states of a team (09_kernel R188). -/
inductive TeamSt where
  | placed | saved | ending
  deriving DecidableEq, Repr

/-- Where a team stands on one core: team region and handle run (09_kernel R185). -/
structure TeamCore where
  core : Nat
  region : Nat
  handle0 : Nat
  deriving DecidableEq, Repr

/-- The barriers of a team (12_barrier R226): team barriers' arrivals and phase, role barriers F and E. -/
structure TeamBar where
  p : Tab Nat := []
  f : Tab Nat := []
  /-- E reads 1 at placement: an unlisted number is 1 -/
  e : Tab Nat := []
  deriving DecidableEq, Repr

/-- A team (09_kernel R188). -/
structure Team where
  ctx : Nat
  /-- the launch record it belongs to; none for a task group -/
  record : Option Nat
  /-- the task queue of a task group -/
  taskq : Option Nat := none
  teamid : Nat := 0
  kern : Kernel
  /-- its class and its age (R165, R172) -/
  cls : Nat := 2
  age : Nat := 0
  /-- groups in the team -/
  size : Nat := 1
  cluster : Nat
  st : TeamSt := .placed
  cores : List TeamCore := []
  /-- the stack areas that its groups hold -/
  areas : List Nat := []
  /-- private regions: group number, core, first line, lines, whether its group still lives (05_memory R92) -/
  privs : List (Nat × Nat × Nat × Bool) := []
  bar : TeamBar := {}
  /-- pre-emption of the team has been asked for (07_context R152) -/
  preempt : Bool := false
  /-- a saved task group: placement decisions by which it has been passed over (08_queue R166) -/
  passed : Nat := 0
  blocks : Bool := false
  deriving DecidableEq, Repr

/-- The states of a context slot (07_context R142). -/
inductive CtxSt where
  | retired | built | resident | running | draining | saved | faulted
  deriving DecidableEq, Repr

/-- The code of a context state (07_context R140). -/
def CtxSt.code : CtxSt → Nat
  | .retired => 0 | .built => 1 | .resident => 2 | .running => 3 | .draining => 4 | .saved => 5 | .faulted => 6

/-- A context descriptor as read at INSTALL and RESUME (07_context R139). -/
structure Desc where
  cspg : List Nat := []
  map : Nat := 0
  entryq : Nat := 0
  codebase : Nat := 0
  trappc : Word := 0xFFFFFFFF
  save : Nat := 0
  root : Nat := 0
  watch : Nat := 0
  key : Nat := 0
  pbase : Nat := 0
  psize : Nat := 0
  classes : Nat := 0
  deriving DecidableEq, Repr

/-- The state of a task slot (08_queue R170). -/
inductive SlotSt where
  | reserved | pending | queued | running
  deriving DecidableEq, Repr

/-- A task record in its slot (08_queue R170). -/
structure TaskRec where
  st : SlotSt := .reserved
  entry : Word := 0
  args : List Word := []
  seq : Nat := 0
  /-- when it became Queued, for the gather wait -/
  since : Nat := 0
  age : Nat := 0
  deriving DecidableEq, Repr

/-- The states of a task queue (08_queue R169). -/
inductive TqSt where
  | closed | opened | closing
  deriving DecidableEq, Repr

/-- A task queue (08_queue R169, R170). -/
structure TaskQ where
  st : TqSt := .closed
  cap : Nat := 0
  cls : Nat := 2
  gy : Nat := 0
  /-- ARG0 to ARG3 and ARGPTR as s0 to s5 receive them -/
  args : List Word := []
  kern : Kernel := {}
  slots : Tab (Option TaskRec) := []
  seq : Nat := 0
  /-- the counter that the closing record signals -/
  done : Option Nat := none
  /-- the gather wait of the oldest record has expired -/
  expired : Bool := false
  passed : Nat := 0
  blocks : Bool := false
  deriving DecidableEq, Repr

/-- A bin table of a die (13_transfer R247). -/
structure BinTable where
  rowb : Nat := 0
  /-- base, CAP and counter of each of the 256 entries -/
  entries : Tab (Nat × Nat × Nat) := []
  /-- overflow base, capacity and counter -/
  ovf : Nat × Nat × Nat := (0, 0, 0)
  drops : Nat := 0
  deriving DecidableEq, Repr

/-- The record of a core that a context has left (07_context R153). -/
structure CoreRec where
  srseed : Word := 1
  am : Tab Word := []
  /-- the live activation banks with their generations -/
  acts : Tab (ActBank × Nat) := []
  deriving DecidableEq, Repr

/-- A context slot (07_context R140 to R143). -/
structure Ctx where
  /-- CTXDESC -/
  descAddr : Nat := 0
  busy : Bool := false
  err : Bool := false
  ecode : Nat := 0
  st : CtxSt := .retired
  how : Nat := 0
  cause : Nat := 0
  frame : Nat := 0
  d : Desc := {}
  gen : Nat := 0
  /-- what the pre-emption sequence was asked to end in -/
  fatal : Bool := false
  retire : Bool := false
  /-- the module map as read (18_link R363) -/
  map : Tab Word := []
  ctr : Tab Word := []
  tq : Tab TaskQ := []
  net : Tab (Option NetRec) := []
  /-- bin tables, at 4 die + table -/
  bins : Tab BinTable := []
  quantumOut : Bool := false
  coreRec : Tab (Option CoreRec) := []
  /-- receive-queue contents saved with the context, by cluster (18_link R371) -/
  flits : Tab (List (List Word)) := []
  /-- stack areas in use: arena address and area number -/
  areas : List (Nat × Nat) := []
  moveStopped : Bool := false
  deriving DecidableEq, Repr

/-- An upper-level entry that the walkers of a die hold: an entry above the leaves that a walk has read (06_page R132). -/
structure Upper where
  ctx : Nat
  level : Nat
  vpn : Nat
  pte : Nat
  deriving DecidableEq, Repr

/-- The states of a fault slot (06_page R134). -/
inductive FaultSt where
  | free | posted | replaying
  deriving DecidableEq, Repr

/-- A fault slot (06_page R134); WAITERS is the number of parties. -/
structure FaultSlot where
  st : FaultSt := .free
  src : Nat := 0
  unit : Nat := 0
  entry : Nat := 0
  /-- the physical address of the entry, by which faults coalesce -/
  entryAddr : Nat := 0
  ctx : Nat := 0
  access : Nat := 0
  level : Nat := 0
  reason : Nat := 0
  va : Nat := 0
  parties : List Party := []
  deriving DecidableEq, Repr

/-- A fault that waits for a free slot: its die and what it will post (06_page R134). -/
structure Slotless where
  die : Nat
  slot : FaultSlot
  deriving DecidableEq, Repr

end Sys2Proof.Machine
end

