-- ==== Sys2Proof/Machine/Parts2.lean ====
section
/-!
DEFINITION. The parts of the machine's state that cores, clusters, engines, views, links and the device hold (chapters 05
and 11 to 19). Plain data; the names are the specification's.
-/
namespace Sys2Proof.Machine

/-- The spaces of a range lock (05_memory R121). -/
inductive LockSpace where
  | glob | sp | csp
  deriving DecidableEq, Repr

/-- A range-lock entry (05_memory R121): bytes lo up to but not including hi, and the operation that entered it. -/
structure Lock where
  space : LockSpace
  lo : Nat
  hi : Nat
  dst : Bool
  owner : Nat
  /-- the further ranges of an operand map's entry, with several mma in flight (14_tile R268) -/
  also : List (Nat × Nat)
  deriving DecidableEq, Repr

/-- A cell of the register unit (11_register R210): its width, its content by lane (an unlisted lane holds 0), and the way of
its signature; none: unindexed. -/
structure Cell where
  w : Nat
  words : Tab Word
  way : Option Nat
  deriving DecidableEq, Repr

/-- An entry of the stitch table (11_register R214, R215, R217): its key, cells named by their contents; its value and the
%fstat bits that it raised; the numbers of the cells that it names as sources and as results, and the rename-map entries, with
their width, from which the results are still to be named; the lines a load read (scratchpad lines, or those of `roLine`). Of a
load in flight: its number, its source contents at their width, and whether it hit. -/
structure Stitch where
  key : List (List Nat)
  value : List (List Nat) := []
  flags : Flags := 0
  cells : List Nat := []
  res : List Nat := []
  todo : List (Nat × Nat) := []
  lines : List Nat := []
  ro : Bool := false
  load : Option Nat := none
  srcs : List (Nat × Tab Word) := []
  hit : Bool := false
  deriving DecidableEq, Repr

/-- The register unit of a core (11_register R210 to R219): its cells by number; the zero cell of each width, by its number plus
1; the rename maps (register n of group g at key 128 g + n; 0 the zero cell, k + 1 cell k), how many of their entries at each
width map to the zero cell, and those written since the last step that map to an unindexed cell; the stitch table, most
recently used first, whose length is LIVE; the loads in flight that may enter it; %reuse and %collide. -/
structure Pool where
  cells : Tab Cell := []
  zero : Tab Nat := []
  names : Tab Nat := []
  zeros : Tab Nat := []
  again : List Nat := []
  stitch : List Stitch := []
  loads : List Stitch := []
  reuse : Word := 0
  collide : Word := 0
  deriving DecidableEq, Repr

/-- The states of a buffer handle (13_transfer R250). -/
inductive HSt where
  | free | filling | full | draining
  deriving DecidableEq, Repr

/-- The code of a handle state (13_transfer R256, R258). -/
def HSt.code : HSt → Nat
  | .free => 0 | .filling => 1 | .full => 2 | .draining => 3

/-- A buffer handle (13_transfer R249). -/
structure Handle where
  st : HSt := .free
  /-- the range, in 128-byte lines -/
  base : Nat := 0
  size : Nat := 0
  fills : Nat := 0
  drains : Nat := 0
  keep : Bool := false
  err : Bool := false
  /-- the pending signal: a context and its event counter -/
  sig : Option (Nat × Nat) := none
  deriving DecidableEq, Repr

/-- A dimension entry of a tensor iterator record (13_transfer R239). -/
structure TDim where
  ext : Nat
  bcast : Bool
  mstr : Int
  dstr : Int
  deriving DecidableEq, Repr

/-- A tensor iterator record (13_transfer R237, R238). -/
structure TRec where
  mbase : Nat := 0
  dbase : Nat := 0
  scbase : Nat := 0
  amax : Nat := 0
  ctrl : Nat := 0
  seed : Word := 0
  mcsp : Bool := false
  dcsp : Bool := false
  dims : List TDim := []
  deriving DecidableEq, Repr

/-- The transfer instructions (13_transfer R256). -/
inductive CopyOp where
  | copy | gather | bin
  deriving DecidableEq, Repr

/-- A transfer in a copy engine's queue (13_transfer R235, R252 to R254). -/
structure Transfer where
  uid : Nat
  ctx : Nat
  team : Nat
  group : Nat
  core : Nat
  pc : Word
  lanes : Mask
  op : CopyOp
  ti : TRec := {}
  /-- the core's handle, and the number by which the instruction named it -/
  handle : Option Nat := none
  hnum : Nat := 0
  /-- first scratchpad byte of the handle's range -/
  base : Nat := 0
  /-- offset of the index list -/
  list : Nat := 0
  rows : Nat := 0
  table : Nat := 0
  /-- the codebook slot and the generation that it pins -/
  pin : Option (Nat × Nat) := none
  /-- the index counter: elements (rows of a bin) done -/
  next : Nat := 0
  started : Bool := false
  /-- parked on a fault slot, or waiting for one, and the address at which it faulted -/
  parked : Bool := false
  faultVa : Nat := 0
  /-- the place that the next row of a tbin has been given: its number, in the overflow or in its bin (R248) -/
  place : Option (Bool × Nat) := none
  /-- stopped at step 3 of a pre-emption, with its ranges and the generator state to restore -/
  held : Option (List Lock × Word) := none
  /-- restored, with the generator state that it loads when it goes on (R254) -/
  resume : Option Word := none
  deriving DecidableEq, Repr

/-- CEERR (13_transfer R255). -/
structure CeErr where
  valid : Bool := false
  cause : Nat := 0
  ctx : Nat := 0
  va : Nat := 0
  deriving DecidableEq, Repr

/-- A copy engine (13_transfer R235, R255). -/
structure Engine where
  seed : Word := 1
  err : CeErr := {}
  queue : List Transfer := []
  deriving DecidableEq, Repr

/-- A codebook slot (13_transfer R245). -/
structure Codebook where
  live : List Nat := []
  fmt : Nat := 0
  owner : Option Nat := none
  gen : Nat := 0
  /-- the pending contents and format -/
  shadow : Option (List Nat × Nat) := none
  deriving DecidableEq, Repr

/-- The holder of a core's matrix engine (14_tile R262). -/
inductive Holder where
  | group (g : Nat)
  /-- the skein unit, for one window -/
  | skein (window : Nat)
  deriving DecidableEq, Repr

/-- What a tdrain will write (14_tile R277, R278). -/
structure Drain where
  tile : Nat
  fd : Ty
  rnd : Nat
  am : Option Nat
  tr : Bool
  z : Bool
  blk : Bool
  sx : Int
  /-- the address that the instruction names -/
  addr : Nat
  /-- the bytes of each output row -/
  rows : List (List Loc)
  /-- the translations that it uses (06_page R132) -/
  via : List Leaf := []
  deriving DecidableEq, Repr

/-- The operation of a tile instruction, its sources captured at issue (14_tile R263). -/
inductive TileWork where
  /-- tile, A format, transposed layout, the codes of A in register order, scale bytes of A (row-major, 4 a row), the map,
  its first scratchpad byte, k0 -/
  | mma (tile : Nat) (af : Ty) (at_ : Bool) (codes scales : List Nat) (map : OMap) (base k0 : Nat)
  | zero (tile : Nat)
  | fill (tile : Nat) (col : Bool) (slice : List Word)
  | put (tile : Nat) (col : Bool) (n : Nat) (slice : List Word)
  | get (tile : Nat) (col : Bool) (n d : Nat)
  | mov (dst src : Nat) (tr : Bool)
  | stat (d tile : Nat)
  | drain (x : Drain)
  deriving DecidableEq, Repr

/-- An issued tile operation (14_tile R263). -/
structure TileOp where
  uid : Nat
  group : Nat
  team : Nat := 0
  fm : FMode
  lanes : Mask
  pc : Word
  /-- the header of the clause that holds pc -/
  cbase : Word
  accepted : Bool := false
  /-- the entries of its group's maps, freed when it completes: the last mma of a group that has exited (R268) -/
  frees : List Nat := []
  work : TileWork
  deriving DecidableEq, Repr

/-- The states of a window (15_net R288). -/
inductive WinSt where
  | free | opened | closed | running | faulted
  deriving DecidableEq, Repr

/-- A window slot of a skein unit (15_net R288). -/
structure Window where
  st : WinSt := .free
  ctx : Nat := 0
  snap : Option NetSnap := none
  rows : List NetRow := []
  openedAt : Nat := 0
  /-- %window when it opened -/
  timer : Nat := 0
  /-- its place in closing order -/
  order : Nat := 0
  /-- its ranges are entered, under this owner (R291) -/
  locked : Bool := false
  /-- the address at which a Faulted window faulted -/
  faultVa : Nat := 0
  uid : Nat := 0
  deriving DecidableEq, Repr

/-- An activation table (15_net R299). -/
structure ActTable where
  live : ActBank := {}
  pending : Option ActBank := none
  gen : Nat := 0
  deriving DecidableEq, Repr

/-- A core (01_module R18). -/
structure Core where
  /-- the context whose groups were last on the core (11_register R218) -/
  owner : Option Nat := none
  srseed : Word := 1
  am : Tab Word := []
  window : Nat := 96
  nrows : Word := 0
  windows : Tab Window := []
  acts : Tab ActTable := []
  /-- the range-lock table: 64 entries -/
  locks : Tab (Option Lock) := []
  handles : Tab Handle := []
  /-- the accumulator store: tile x 1,024 + row x 32 + column; unlisted elements are +0.0 -/
  acc : Tab Word := []
  /-- the drain exponent of each tile -/
  sx : Tab Int := []
  /-- the matrix engine: its holder, mma accepted in the lease, and when a tile instruction was last at work (14_tile
  R262) -/
  holder : Option Holder := none
  leaseUsed : Nat := 0
  /-- the group whose lease began last: the engine alternates with the others that wait (14_tile R282) -/
  leased : Option Nat := none
  lastTile : Nat := 0
  /-- tile operations issued and not complete, in issue order -/
  tileq : List TileOp := []
  /-- groups waiting in vgrow, oldest first, with the granules they ask for (11_register R224) -/
  vgrowq : List (Nat × Nat) := []
  deriving DecidableEq, Repr

end Sys2Proof.Machine
end

