-- ==== Sys2Proof/Machine/Parts3.lean ====
section
/-!
DEFINITION. The parts of the machine's state that clusters, views, links and the management controller hold (chapters 12
and 16 to 19). Plain data; the names are the specification's.
-/
namespace Sys2Proof.Machine

/-- A cluster barrier (12_barrier R226): phase count, expected count and the groups that have arrived. -/
structure ClusterBar where
  p : Nat := 0
  n : Nat := 0
  s : List Nat := []
  deriving DecidableEq, Repr

/-- What a view-unit operation does (16_view R330, 17_ray R350). Scratchpad places are byte offsets on the issuing core. -/
inductive ViewWork where
  /-- tile column and row, meshlet record, first raster tile -/
  | vamp (col row mesh base : Nat)
  /-- view, display column and row, frame, destination -/
  | vrec (view col row frame base : Nat)
  | lensmap (view col row base : Nat)
  /-- source; once read, the bytes and their homes -/
  | present (view col row frame base : Nat) (cells : List (Loc × Byte))
  /-- view, strip, mask, frame, camera record, pool base, first ray index -/
  | rlaunch (view strip mask frame camera pool first : Nat)
  deriving DecidableEq, Repr

/-- An operation in a view unit's queue (16_view R329). -/
structure ViewOp where
  uid : Nat
  ctx : Nat
  team : Nat
  group : Nat
  core : Nat
  pc : Word
  /-- the header of the clause that holds pc -/
  cbase : Word
  lanes : Mask
  set : Nat
  /-- the handle as the instruction named it -/
  hnum : Option Nat
  work : ViewWork
  /-- performed, and awaiting its completion -/
  ran : Bool := false
  /-- the translations that a present uses from its read to its completion (06_page R132) -/
  via : List Leaf := []
  /-- parked on a fault slot, or waiting for one, and the address at which it faulted -/
  parked : Bool := false
  faultVa : Nat := 0
  deriving DecidableEq, Repr

/-- A cluster (01_module R17). -/
structure Cluster where
  cb : Tab ClusterBar := []
  /-- the receive queue, oldest flit first (18_link R371) -/
  flits : List (List Word) := []
  /-- groups waiting in mrecv, oldest first (18_link R374) -/
  mrecvq : List Nat := []
  /-- the view unit's queue, oldest first -/
  viewq : List ViewOp := []
  gated : Bool := false
  deriving DecidableEq, Repr

/-- A warp block (16_view R307): NSEG, OFF1 onward, BND1 onward. -/
structure Warp where
  nseg : Nat
  offs : List Word
  bnds : List Nat
  deriving DecidableEq, Repr

/-- A view record (16_view R306). -/
structure ViewRec where
  m : List Word
  hw : Warp
  vw : Warp
  rw : Nat
  rh : Nat
  dw : Nat
  dh : Nat
  gaze : Nat
  out : Nat
  bound : Nat
  ox : Nat
  oy : Nat
  pitch : Nat
  lens : Nat
  prelens : Nat
  tstore : Nat
  rkdesc : Nat
  deriving DecidableEq, Repr

/-- A view in a frame (16_view R312, R315): vertical breakpoints, whether it is open, the latched strips with their
horizontal breakpoints and latch times, and the display rows emitted. -/
structure FView where
  vbrk : List Word
  isOpen : Bool := true
  strips : Tab (Option (List Word × Nat)) := []
  emitted : Nat := 0
  deriving DecidableEq, Repr

/-- An opened frame (16_view R314, R318). -/
structure Frame where
  num : Nat
  /-- when vopen opened it -/
  openedAt : Nat
  views : List FView
  deriving DecidableEq, Repr

/-- The states of a view-set slot (16_view R314). -/
inductive VsSt where
  | unbound | bound | opened | closed
  deriving DecidableEq, Repr

/-- The code of a view-set state (16_view R319). -/
def VsSt.code : VsSt → Nat
  | .unbound => 0 | .bound => 1 | .opened => 2 | .closed => 3

/-- A view-set slot (16_view R305, R314, R316, R319). -/
structure ViewSet where
  st : VsSt := .unbound
  ctx : Nat := 0
  /-- F -/
  f : Nat := 0
  /-- the record's address and its views -/
  addr : Nat := 0
  views : List ViewRec := []
  /-- a vset that waits: its address, 0 to unbind, and views -/
  waiting : Option (Nat × List ViewRec) := none
  cur : Option Frame := none
  prev : Option Frame := none
  /-- the frame of the last present of each slot, plus 1, at 2^15 view + 2 tile + slot -/
  tags : Tab Nat := []
  /-- the slot presented last, plus 1, at 2^15 view + tile -/
  last : Tab Nat := []
  /-- when each view's last row was emitted -/
  lastOut : Tab Nat := []
  miss : Tab Word := []
  late : Tab Word := []
  deriving DecidableEq, Repr

/-- A gaze register (16_view R309): the committed pair, its sequence number, and the staged X. -/
structure Gaze where
  x : Word := 0
  y : Word := 0
  seq : Word := 0
  staged : Word := 0
  deriving DecidableEq, Repr

/-- A link tile stream (18_link R370). -/
structure TStream where
  drop : Word := 0
  en : Bool := false
  port : Nat := 0
  dest : Nat := 0
  /-- tiles that the peer has granted and the stream has not sent -/
  credit : Nat := 0
  deriving DecidableEq, Repr

/-- The states of a link port (18_link R360). -/
inductive PortSt where
  | down | training | up | degraded | fenced | draining
  deriving DecidableEq, Repr

/-- The code of a port state (18_link R361). -/
def PortSt.code : PortSt → Nat
  | .down => 0 | .training => 1 | .up => 2 | .degraded => 3 | .fenced => 4 | .draining => 5

/-- A link port (18_link R360, R361). -/
structure Port where
  st : PortSt := .down
  lanes : Nat := 0
  peerMod : Nat := 0
  peerPort : Nat := 0
  retry : Word := 0
  deriving DecidableEq, Repr

/-- MODID (18_link R357). -/
structure ModId where
  id : Nat := 0
  bridge : Bool := false
  hconf : Bool := false
  deriving DecidableEq, Repr

/-- The host interrupt registers (18_link R369). -/
structure Ints where
  stat : Nat := 0
  en : Nat := 0
  grp : Nat := 0
  /-- the MSI-X table, by 32-bit word, and its pending bits -/
  table : Tab Nat := []
  pending : Nat := 0
  deriving DecidableEq, Repr

/-- PWRSTAT and the throttle's conditions (19_device R378, R380). -/
structure Power where
  ready : Bool := false
  trip : Bool := false
  throt : Bool := false
  /-- the hottest junction that the last hardware limit reported -/
  tmax : Nat := 0
  /-- in units of 0.1 GHz -/
  aclk : Nat := 0
  st : Nat := 0
  deriving DecidableEq, Repr

/-- The firmware, identity and attestation state of the management controller (19_device R376, R377, R381, R382). -/
structure Firmware where
  /-- the recovery loader runs, and the bytes of a new image that it has been given through BAR 0 (R377) -/
  recovery : Bool := false
  image : Tab Nat := []
  version : Nat := 0
  /-- the fused minimum of R377 -/
  minVersion : Nat := 0
  measure : List Nat := []
  devKey : List Nat := []
  serial : Nat := 0
  nonce : Tab Nat := []
  busy : Bool := false
  /-- the signature under way, and the one that is ready -/
  next : List Nat := []
  sig : List Nat := []
  deriving DecidableEq, Repr

/-- What leaves the module, as the rules describe it: the model's own record, newest first (log 6). -/
inductive Sent where
  /-- an MSI-X message: its vector, and the address and data of the table entry (18_link R369) -/
  | msix (vector addr data : Nat)
  /-- a tile on a link tile stream: stream, destination id, header and pixel bytes (18_link R370) -/
  | tile (stream dest header : Nat) (bytes : List Nat)
  /-- pixels sent on a DisplayPort output: output, and (x, y, R G B) (16_view R316, R320, R322) -/
  | pixels (out : Nat) (ps : List (Nat × Nat × Nat))
  /-- what a DisplayPort output sends as zero from here on: output, active width and height, and the display rectangles
  (x, y, width, height) of the bound views, which it leaves out (16_view R314, R320) -/
  | zero (out width height : Nat) (bound : List (Nat × Nat × Nat × Nat))
  /-- an append to another module: destination, context slot there, the record, and the sender's module id (18_link R368) -/
  | append (mod ctx : Nat) (words : List Word) (sender : Nat)
  /-- a remote access: home module, context slot there, the issuing context, address and operation (18_link R364) -/
  | access (mod rctx fctx addr : Nat) (op : RemoteOp)
  /-- the answer to a remote access: performed with its data, or refused (18_link R364) -/
  | reply (mod : Nat) (ok : Bool) (data : List Nat)
  /-- the answer to an append received: accepted or refused (08_queue R163) -/
  | appendReply (mod : Nat) (ok : Bool)
  /-- the answer to a host read (18_link R367) -/
  | hostData (bytes : List Nat)
  deriving DecidableEq, Repr

/-- A scratchpad region as saved: core within the cluster, first line, lines, its bytes by offset, its present lines
(07_context R153). -/
structure RegionImg where
  core : Nat
  line : Nat
  count : Nat
  bytes : Tab Byte
  present : List Nat
  deriving DecidableEq, Repr

/-- What the save area holds of a team beside its groups: its regions, its handles by core within the cluster, and each
group's tiles and drain exponents (07_context R153). -/
structure Save where
  regions : List RegionImg := []
  handles : List (Nat × List Handle) := []
  tiles : List (Nat × Tab Word × Tab Int) := []
  deriving DecidableEq, Repr

end Sys2Proof.Machine
end

