-- ==== Sys2Proof/Machine/State.lean ====
section
/-!
DEFINITION. The state of a module: plain data, everything the specification names (INVENTORY, State), the machine right
after reset, and the reasons a step can stop.
-/
namespace Sys2Proof.Machine

/-- The ordering codes (00_scope R1). -/
inductive OrderCode where
  | sx8_512 | sx8_384
  deriving DecidableEq, Repr

/-- One entry of the schedule: an event, the next word of a group, or a soft error that the code of a die corrects, in no access
of its own event (log 1; 19_device R384). -/
inductive Move where
  | event (i : Instr)
  | word (g : Nat)
  | soft (die : Nat)
  deriving DecidableEq, Repr

/-- The model's own schedule, clock and counters (logs 1, 2 and 9). -/
structure Sched where
  agenda : List Move := []
  /-- the group whose clause issue goes on -/
  turn : Option Nat := none
  steps : Nat := 0
  /-- ac since reset -/
  now : Nat := 0
  /-- time since reset, in units of which a microsecond holds 2,772,000 (log 2) -/
  time : Nat := 0
  /-- the free-value counter -/
  free : Nat := 0
  /-- the next unique number -/
  uid : Nat := 0
  deriving DecidableEq, Repr

/-- PGINV_VA and PGINV_CTL (06_page R132). -/
structure PgInv where
  va : Nat := 0
  busy : Bool := false
  err : Bool := false
  kind : Nat := 0
  ctx : Nat := 0
  deriving DecidableEq, Repr

/-- Byte memory: addresses rising, no byte equal to 0 listed. -/
abbrev Memory := List Host.Cell

/-- The canonical form of a memory: its unlisted bytes read 0 (19_device R376; log 5). -/
abbrev Memory.wf (m : Memory) : Bool := Tab.wf (0 : Byte) m

/-- The state of the module. -/
structure State where
  code : OrderCode := .sx8_512
  sched : Sched := {}
  /-- region 0 of module memory (06_page R127) -/
  mem : Memory := []
  /-- the key that each 256-byte granule was last written under: slot + 256 x loads of the slot + 1 (06_page R136; log 7) -/
  keyTag : Tab Nat := []
  /-- bytes of region 1 that the module has written, plus 1 (log 8) -/
  hostMem : Tab Nat := []
  /-- scratchpads, at core x 2^19 + offset (05_memory R89) -/
  sp : Memory := []
  /-- presence bits, at core x 4096 + line (05_memory R95) -/
  presence : Tab Bool := []
  /-- chip scratchpads, at die x 2^28 + offset (05_memory R93) -/
  csp : Memory := []
  /-- key slots that hold a key, with LOADS (19_device R383) -/
  keyFull : Tab Bool := []
  keyLoads : Tab Nat := []
  pginv : PgInv := {}
  /-- cached leaves: of core k at k, of cluster k at 2,560 + k, of die d at 3,200 + d (06_page R132) -/
  tlb : Tab (List Leaf) := []
  /-- upper-level entries that each die's walkers hold (06_page R132) -/
  uppers : Tab (List Upper) := []
  /-- fault slots, at 256 die + slot (06_page R134) -/
  faults : Tab FaultSlot := []
  slotless : List Slotless := []
  records : Tab Record := []
  teams : Tab Team := []
  groups : Tab Group := []
  /-- save areas, by team -/
  saves : Tab Save := []
  ctxs : Tab Ctx := []
  cores : Tab Core := []
  /-- the register unit of each core (11_register R210 to R219) -/
  pools : Tab Pool := []
  /-- copy engines, at 8 die + engine, and codebook slots, at 16 die + slot -/
  engines : Tab Engine := []
  books : Tab Codebook := []
  clusters : Tab Cluster := []
  /-- L2 slices that are gated, at 24 die + slice (19_device R379) -/
  gatedSlices : Tab Bool := []
  vsets : Tab ViewSet := []
  gazes : Tab Gaze := []
  /-- DPOUT: active width and height (16_view R321) -/
  dpout : Tab (Nat × Nat) := []
  streams : Tab TStream := []
  ports : Tab Port := []
  /-- bridges that are Down, by the numbers of `bridges` (01_module R13) -/
  bridgeDown : Tab Bool := []
  modid : ModId := {}
  ints : Ints := {}
  /-- APPEND and APPSTAT (18_link R368): bytes at 64 slot + offset; SEQ and RES by slot -/
  appendBuf : Tab Nat := []
  appSeq : Tab Word := []
  appRes : Tab Nat := []
  pwr : Power := {}
  /-- TMAX: the hottest junction as the sensors give it now (19_device R378) -/
  tmax : Nat := 0
  /-- GAUGE as the monitors give it now, and CERR, by die (19_device R380, R384) -/
  gauge : List Nat := []
  cerr : Tab Word := []
  fw : Firmware := {}
  sent : List Sent := []
  deriving DecidableEq, Repr

/-- No instruction and no event of this model ends in a fault: every trap the specification names is taken (07_context
R145), so the type has one constructor that nothing raises (safe: the model never stops here). -/
inductive Fault where
  /-- raised by nothing -/
  | none
  deriving DecidableEq, Repr

/-- Why a step gives no next state. -/
inductive Refusal where
  /-- the arm of exec has no meaning yet; raised by the dispatcher alone (safe) -/
  | notModelled (mnemonic : String)
  /-- an instruction was given to exec with no group in turn at an open clause (log 14; safe: no such step exists) -/
  | noGroup
  /-- an event was given to exec in a state in which it cannot happen (log 14; safe: no such step exists) -/
  | notEnabled
  deriving DecidableEq, Repr

/-- The machine right after reset: every field at the value INVENTORY gives. -/
def State.reset : State := {}

end Sys2Proof.Machine
end

