-- ==== Sys2Proof/Machine/Cell.lean ====
section
/-!
DEFINITION. The register unit's cells (11_register R210 to R213): names, matching, reference counts, and the cells that the
registers of a core's groups map to. A register's value stands in its group; here stands the cell that holds it (log 67).
-/
namespace Sys2Proof.Machine

/-- The register unit of a core. -/
def State.pool (s : State) (k : Nat) : Pool := Tab.get {} s.pools k

/-- The register unit of a core changed in place. -/
def State.modPool (s : State) (k : Nat) (f : Pool → Pool) : State := { s with pools := Tab.set {} s.pools k (f (s.pool k)) }

/-- The content of v[n] over the lanes: the lanes that do not hold 0. -/
def Regs.content (r : Regs) (n : Nat) : Tab Word := (r.v.filter (fun e => e.1 / 64 = n)).map (fun e => (e.1 % 64, e.2))

/-- The registers of a group that do not hold 0 in every lane, with their contents. -/
def contentsOf : Tab Word → Tab (Tab Word)
  | [] => []
  | e :: es =>
    match contentsOf es with
    | (n, ws) :: rest =>
      if e.1 / 64 = n then (n, (e.1 % 64, e.2) :: ws) :: rest else (e.1 / 64, [(e.1 % 64, e.2)]) :: (n, ws) :: rest
    | [] => [(e.1 / 64, [(e.1 % 64, e.2)])]

/-- The signature of a content, with its width (R210). -/
def cellSig (w : Nat) (ws : Tab Word) : Word := Config.signature w (ws.map (fun e => (e.1, e.2.toNat)))

/-- The number of the cell that a name stands for at a width: 0 names the zero cell of the width (R211); none where there is no
such cell yet. -/
def Pool.cellOf (p : Pool) (w name : Nat) : Option Nat :=
  if name ≠ 0 then some (name - 1)
  else match Tab.get 0 p.zero w with
    | 0 => none
    | n + 1 => some n

/-- The content that a name stands for at a width. -/
def Pool.words (p : Pool) (w name : Nat) : Tab Word :=
  match (p.cellOf w name).bind (Tab.find p.cells) with
  | some c => c.words
  | none => []

/-- A name's cell has a way, and a later match can find it (R210). -/
def Pool.indexed (p : Pool) (w name : Nat) : Bool :=
  match (p.cellOf w name).bind (Tab.find p.cells) with
  | some c => c.way.isSome
  | none => name = 0

/-- The live indexed cell that matches a content at a width (R210). -/
def Pool.found (p : Pool) (w : Nat) (ws : Tab Word) : Option Nat :=
  (p.cells.find? (fun c => c.2.w = w && c.2.words = ws && c.2.way.isSome)).map (·.1)

/-- The reference count of a cell: rename-map entries that map to it and stitch-table entries that name it as a source or a
result (R211). -/
def Pool.refs (p : Pool) (id : Nat) : Nat :=
  (p.names.filter (fun e => e.2 = id + 1)).length
    + ((p.zero.filter (fun e => e.2 = id + 1)).map (fun e => Tab.get 0 p.zeros e.1)).sum
    + (p.stitch.map (fun e => ((e.cells ++ e.res).filter (fun c => c = id)).length)).sum

/-- A cell whose count is zero is freed (R211). -/
def Pool.freeCell (p : Pool) (id : Nat) : Pool :=
  if 0 < p.refs id then p
  else { p with cells := Tab.del p.cells id, zero := p.zero.filter (fun e => e.2 ≠ id + 1) }

/-- Every cell whose count is zero is freed (R211). -/
def Pool.gc (p : Pool) : Pool := p.cells.foldl (fun p c => p.freeCell c.1) p

/-- The 2 KiB blocks that cells of a width fill (R183, R210). -/
def cellBlocks (w n : Nat) : Nat := ceilDiv n (512 / w)

/-- The 256 blocks hold the cells, but one that a write is about to free, and one more of a width (R183, R213). -/
def Pool.hasRoom (p : Pool) (w : Nat) (spare : Option Nat := none) : Bool :=
  ([16, 32, 64].map (fun x =>
    cellBlocks x ((p.cells.filter (fun c => c.2.w = x && some c.1 ≠ spare)).length + (if x = w then 1 else 0)))).sum ≤ 256

/-- The old cell of a register that is written, where nothing else refers to it: its room is free (R213). -/
def Pool.spare (p : Pool) (old : Option Nat) : Option Nat :=
  match old with
  | some id => if p.refs id ≤ 1 then some id else none
  | none => none

/-- Stitch-table entries go, least recently used first, until a cell of a width has room; at most n of them (R213). -/
def Pool.room (p : Pool) (w : Nat) (old : Option Nat) : Nat → Pool
  | 0 => p
  | n + 1 => if p.hasRoom w (p.spare old) then p else ({ p with stitch := p.stitch.dropLast }.gc).room w old n

/-- The ways of a content's signature that live cells of its width use (R210). -/
def Pool.ways (p : Pool) (w : Nat) (ws : Tab Word) : List Nat :=
  p.cells.filterMap (fun c => if c.2.w = w && cellSig w c.2.words = cellSig w ws then c.2.way else none)

/-- A new cell for a content, under the lowest free way of its signature, unindexed where all eight are in use (R210); the first
all-zero one of a width is its zero cell. Its number. -/
def Pool.make (p : Pool) (w : Nat) (ws : Tab Word) : Pool × Nat :=
  let used := p.ways w ws
  let id := (List.range (p.cells.length + 1)).find? (fun i => (Tab.find p.cells i).isNone) |>.getD 0
  let cells := Tab.ins p.cells id ⟨w, ws, (List.range 8).find? (fun k => !used.contains k)⟩
  let first : Bool := decide (ws = []) && (p.cellOf w 0).isNone
  ({ p with cells := cells, zero := if first then Tab.set 0 p.zero w (id + 1) else p.zero }, id)

/-- The name of a cell that holds a content. -/
def Pool.nameOf (p : Pool) (w : Nat) (ws : Tab Word) (id : Nat) : Nat := if ws = [] ∧ p.cellOf w 0 = some id then 0 else id + 1

/-- A content produced at a width (R210): the name of the live cell that matches it, or of a new cell. A failed compare counts
in %collide. `old`: the cell of the register that is written. -/
def Pool.place (p : Pool) (w : Nat) (ws : Tab Word) (old : Option Nat := none) : Pool × Nat :=
  match p.found w ws with
  | some id => (p, p.nameOf w ws id)
  | none =>
    let p := p.room w old p.stitch.length
    let n := if p.ways w ws = [] then 0 else 1
    let (p, id) := p.make w ws
    ({ p with collide := p.collide + n }, p.nameOf w ws id)

/-- A rename-map entry of a width takes a name; the cell that it leaves is freed where nothing refers to it (R211). -/
def Pool.setName (p : Pool) (key w name : Nat) : Pool :=
  let old := Tab.get 0 p.names key
  let cell := p.cellOf w old
  let n := Tab.get 0 p.zeros w + (if name = 0 then 1 else 0) - (if old = 0 then 1 else 0)
  let p := { p with names := Tab.set 0 p.names key name, zeros := Tab.set 0 p.zeros w n }
  match cell with
  | some id => p.freeCell id
  | none => p

/-- A register's rename-map entry follows a content that is written to it (R212). -/
def Pool.write (p : Pool) (key w : Nat) (ws : Tab Word) : Pool :=
  let (p, name) := p.place w ws (p.cellOf w (Tab.get 0 p.names key))
  p.setName key w name

/-- A register's rename-map entry follows its content (R212): where it has changed, or was written while its cell was unindexed,
which no match finds (R210). A write of W = 64 forms the content of its lower half first. -/
def Pool.nameReg (p : Pool) (key w : Nat) (ws : Tab Word) : Pool :=
  let old := p.words w (Tab.get 0 p.names key)
  if old = ws && !p.again.contains key then p
  else
    let half := ws.filter (fun e => e.1 < 32) ++ old.filter (fun e => 32 ≤ e.1)
    (if w = 64 && half ≠ old && half ≠ ws then p.write key w half else p).write key w ws

/-- The rename-map entries of one group, register n of group g at key 128 g + n. -/
def Pool.nameGroup (p : Pool) (g : Nat) (x : Group) : Pool :=
  let cs := (contentsOf x.regs.v).filter (fun c => c.1 < x.alloc)
  let named := ((p.names.map (·.1) ++ p.again).eraseDups.filter (fun k => k / 128 = g)).map (fun k => k % 128)
  let p := cs.foldl (fun p c => p.nameReg (128 * g + c.1) x.w c.2) p
  named.foldl (fun p n => if (Tab.find cs n).isSome then p else p.nameReg (128 * g + n) x.w []) p

/-- The rename maps of the groups of a core as they stand: entries of registers that are no more go, and those that map to the
zero cell are counted (R211). -/
def Pool.standing (p : Pool) (gs : List (Nat × Group)) : Pool :=
  let live (k : Nat) : Bool := gs.any (fun g => g.1 = k / 128 && k % 128 < g.2.alloc)
  let names := p.names.filter (fun e => live e.1)
  let count (w : Nat) : Nat :=
    let mine := gs.filter (fun g => g.2.w = w)
    (mine.map (·.2.alloc)).sum - (names.filter (fun e => mine.any (fun g => g.1 = e.1 / 128))).length
  { p with
    names := names, again := p.again.filter live
    zeros := [16, 32, 64].foldl (fun m w => Tab.set 0 m w (count w)) [] }

/-- The zero cell of a width, made where registers map to it and there is none (R211). -/
def Pool.zeroed (p : Pool) (w : Nat) : Pool :=
  if Tab.get 0 p.zeros w = 0 || (p.cellOf w 0).isSome then p
  else match p.found w [] with
    | some id => { p with zero := Tab.set 0 p.zero w (id + 1) }
    | none => (p.make w []).1

/-- The results of the entries that have entered since the last step, named by the cells that their registers map to (R211,
R215). -/
def Pool.settled (p : Pool) : Pool :=
  { p with
    again := []
    stitch := p.stitch.map (fun e =>
      if e.todo = [] then e
      else { e with todo := [], res := e.todo.filterMap (fun k => p.cellOf k.2 (Tab.get 0 p.names k.1)) }) }

/-- The rename maps of the groups of a core follow their registers, and cells without a reference are freed. -/
def Pool.rename (p : Pool) (gs : List (Nat × Group)) : Pool :=
  let p := [16, 32, 64].foldl (fun p w => p.zeroed w) (p.standing gs)
  ((gs.foldl (fun p g => p.nameGroup g.1 g.2) p).settled).gc

/-- Registers of a width have been written: those whose cell is unindexed take part in the next match though their content may be
the same (R210). -/
def Pool.mark (p : Pool) (w : Nat) (keys : List Nat) : Pool :=
  { p with again := p.again ++ keys.filter (fun k => !p.indexed w (Tab.get 0 p.names k)) }

/-- Every core's register unit after what a step has written (R210 to R213). -/
def State.rename (s : State) : State :=
  let on := s.groups.filter (fun g => g.2.on)
  let ks := (on.map (fun g => g.2.core) ++ s.pools.map (·.1)).eraseDups
  { s with pools := ks.foldl (fun m k => Tab.set {} m k ((Tab.get {} m k).rename (on.filter (fun g => g.2.core = k)))) s.pools }

end Sys2Proof.Machine
end

