-- ==== Sys2Proof/Machine/Base.lean ====
section
/-!
DEFINITION. The accessors of the state: objects by number, registers, flags, time, free values, and one byte of each
memory (05_memory R89; 06_page R127, R136).
-/
namespace Sys2Proof.Machine

/-- What exec answers. -/
abbrev Out := Host.Outcome State Fault Refusal

/-- Dies and cores: the die of a module core number (01_module R20). -/
def dieOfCore (core : Nat) : Nat := core / 320

/-- The module cluster number of a core (01_module R20). -/
def clusterOfCore (core : Nat) : Nat := core / 4

/-- %coreid of a core (01_module R21). -/
def coreid (core : Nat) : Nat := (core / 320) * 512 + ((core % 320) / 4) * 4 + core % 4

/-- A group by number. -/
def State.group (s : State) (g : Nat) : Option Group := Tab.find s.groups g

/-- A group replaced. -/
def State.setGroup (s : State) (g : Nat) (x : Group) : State := { s with groups := Tab.ins s.groups g x }

/-- A group changed in place, if it exists. -/
def State.modGroup (s : State) (g : Nat) (f : Group → Group) : State :=
  match s.group g with
  | some x => s.setGroup g (f x)
  | none => s

/-- A team by number. -/
def State.team (s : State) (t : Nat) : Option Team := Tab.find s.teams t

/-- A team replaced. -/
def State.setTeam (s : State) (t : Nat) (x : Team) : State := { s with teams := Tab.ins s.teams t x }

/-- A team changed in place, if it exists. -/
def State.modTeam (s : State) (t : Nat) (f : Team → Team) : State :=
  match s.team t with
  | some x => s.setTeam t (f x)
  | none => s

/-- A context slot. -/
def State.ctx (s : State) (c : Nat) : Ctx := Tab.get {} s.ctxs c

/-- A context slot replaced. -/
def State.setCtx (s : State) (c : Nat) (x : Ctx) : State := { s with ctxs := Tab.set {} s.ctxs c x }

/-- A context slot changed in place. -/
def State.modCtx (s : State) (c : Nat) (f : Ctx → Ctx) : State := s.setCtx c (f (s.ctx c))

/-- A core. -/
def State.core (s : State) (k : Nat) : Core := Tab.get {} s.cores k

/-- A core replaced. -/
def State.setCore (s : State) (k : Nat) (x : Core) : State := { s with cores := Tab.set {} s.cores k x }

/-- A core changed in place. -/
def State.modCore (s : State) (k : Nat) (f : Core → Core) : State := s.setCore k (f (s.core k))

/-- A cluster. -/
def State.cluster (s : State) (k : Nat) : Cluster := Tab.get {} s.clusters k

/-- A cluster changed in place. -/
def State.modCluster (s : State) (k : Nat) (f : Cluster → Cluster) : State :=
  { s with clusters := Tab.set {} s.clusters k (f (s.cluster k)) }

/-- What the junction sensors give at a moment: below the limit at which a trip, or a throttle where none holds, would have come
(19_device R378, R380; log 79). -/
def State.sensed (s : State) : Nat := Config.junction s.sched.steps % (if s.pwr.throt then 115 else 105)

/-- A step has taken place: the register units follow the registers (11_register R210), the sensors give what they then read
(19_device R378, R380), and the clock, real time and the step count advance: one ac lasts 27,720 / ACLK units of time, and
none passes while the arithmetic clock is stopped in P2 (19_device R378; log 2). -/
def State.tick (s : State) : State :=
  let n := Config.acPerStep s.sched.steps
  { s.rename with
    sched := { s.sched with
      steps := s.sched.steps + 1
      now := s.sched.now + (if s.pwr.st = 2 then 0 else n)
      time := s.sched.time + n * 27720 / max 1 s.pwr.aclk }
    tmax := s.sensed
    gauge := (List.range 8).map (fun d => Config.slack s.sched.steps d % 65536) }

/-- A message leaves the module. -/
def State.send (s : State) (m : Sent) : State := { s with sent := m :: s.sent }

/-- An MSI-X message of the bridge module: sent, or pending where its vector is masked (18_link R369). -/
def State.msix (s : State) (b : Nat) : State :=
  if !s.modid.bridge then s
  else if bit (Tab.get 0 s.ints.table (4 * b + 3)) 0 then
    { s with ints := { s.ints with pending := s.ints.pending ||| 2 ^ b } }
  else s.send (.msix b (Tab.get 0 s.ints.table (4 * b) + 2 ^ 32 * Tab.get 0 s.ints.table (4 * b + 1))
    (Tab.get 0 s.ints.table (4 * b + 2)))

/-- INTSTAT and INTEN take new values: a bit whose AND rises sends its message (18_link R369). -/
def State.setInts (s : State) (stat en : Nat) : State :=
  let old := s.ints.stat &&& s.ints.en
  let s := { s with ints := { s.ints with stat := stat, en := en } }
  (List.range 10).foldl (fun s b => if bit (stat &&& en) b && !bit old b then s.msix b else s) s

/-- An event sets its INTSTAT bit (18_link R369). -/
def State.interrupt (s : State) (b : Nat) : State := s.setInts (s.ints.stat ||| 2 ^ b) s.ints.en

/-- A step that ends well: time passes. -/
def answer (s : State) : Out := .next s.tick

/-- How an access ends, with a corrected soft error counted in CERR of its die: it is performed as any other (19_device
R384). -/
def State.corrected (s : State) : IoEnd → State × IoEnd
  | .fixed d =>
    (if d < 8 then { s with cerr := Tab.set 0 s.cerr d (Tab.get 0 s.cerr d + 1) } else s, .ok)
  | r => (s, r)

/-- A soft error of a die is corrected: it counts in CERR, and changes nothing else; a trip holds the module in reset (19_device
R380, R384). -/
def State.softError (s : State) (die : Nat) : State := if s.pwr.trip then s else (s.corrected (.fixed die)).1

/-- An event that reaches the module from outside, or that firmware makes: none does while a trip holds the module in reset
(19_device R380). -/
def outside (s : State) (r : Option State) : Option State := if s.pwr.trip then none else r

/-- Link traffic, or work of the firmware: the recovery loader, which accepts only a new image, does none (19_device R377). -/
def served (s : State) (r : Option State) : Option State := outside s (if s.fw.recovery then none else r)

/-- An event: it happens, or it cannot happen in this state (log 14). -/
def event (r : Option State) : Out :=
  match r with
  | some s => answer s
  | none => .refused .notEnabled

/-- A host access or an append brings the module out of standby (19_device R378). -/
def State.wakeModule (s : State) : State :=
  if s.pwr.st = 2 then
    { s with pwr := if s.pwr.throt then { s.pwr with st := 1, aclk := 6 } else { s.pwr with st := 0, aclk := 12 } }
  else s

/-- A write that reaches the management register space: every register but PWRSTAT ignores it until READY is 1 (19_device
R376). -/
def hostWrite (s : State) (f : State → State) : Out := answer (if s.pwr.ready then f s.wakeModule else s)

/-- A fresh unique number. -/
def State.fresh (s : State) : Nat × State :=
  (s.sched.uid, { s with sched := { s.sched with uid := s.sched.uid + 1 } })

/-- A fresh free value (log 9). -/
def State.freeVal (s : State) : Nat × State :=
  (Config.freeValue s.sched.free, { s with sched := { s.sched with free := s.sched.free + 1 } })

/-- The group in turn set. -/
def State.setTurn (s : State) (t : Option Nat) : State := { s with sched := { s.sched with turn := t } }

/-- v[n] of lane l. -/
def Regs.getV (r : Regs) (n l : Nat) : Word := Tab.get 0 r.v (64 * n + l)

/-- v[n] of lane l written. -/
def Regs.setV (r : Regs) (n l : Nat) (x : Word) : Regs := { r with v := Tab.set 0 r.v (64 * n + l) x }

/-- s[n]. -/
def Regs.getS (r : Regs) (n : Nat) : Word := Tab.get 0 r.s n

/-- s[n] written. -/
def Regs.setS (r : Regs) (n : Nat) (x : Word) : Regs := { r with s := Tab.set 0 r.s n x }

/-- q[n]; q0 is true in every lane (04_lane R81). -/
def Regs.getQ (r : Regs) (n : Nat) : Mask := if n = 0 then BitVec.allOnes 64 else Tab.get 0 r.q n

/-- q[n] written in the lanes of `m`; the other lanes keep their bit (00_scope R8). -/
def Regs.setQ (r : Regs) (n : Nat) (m x : Mask) : Regs :=
  { r with q := Tab.set 0 r.q n ((r.getQ n &&& ~~~m) ||| (x &&& m)) }

/-- Completion flag f[n]. -/
def Regs.getF (r : Regs) (n : Nat) : Nat := Tab.get 0 r.f n

/-- Completion flag f[n] written. -/
def Regs.setF (r : Regs) (n : Nat) (x : Nat) : Regs := { r with f := Tab.set 0 r.f n x }

/-- One value written to a register: a lane of v, an s register, or one lane's bit of q. -/
def Regs.write (r : Regs) (reg : Reg) (l : Nat) (x : Word) : Regs :=
  match reg with
  | .v n => r.setV n l x
  | .s n => r.setS n x
  | .q n => r.setQ n (Mask.single l) (if x = 0 then 0 else Mask.single l)

/-- A group with its registers changed. -/
def Group.modRegs (x : Group) (f : Regs → Regs) : Group := { x with regs := f x.regs }

/-- A group with its control registers changed. -/
def Group.modCtl (x : Group) (f : Ctl → Ctl) : Group := { x with ctl := f x.ctl }

/-- A group with its issue state changed. -/
def Group.modFlow (x : Group) (f : Flow → Flow) : Group := { x with flow := f x.flow }

/-- A group with its accesses in flight changed. -/
def Group.modIo (x : Group) (f : Io → Io) : Group := { x with io := f x.io }

/-- Lane l of a group. -/
def Group.lane (x : Group) (l : Nat) : Lane := nth { pc := 0, st := .exited } x.lanes l

/-- The lanes of a group of which p holds, as a mask. -/
def Group.maskWhere (x : Group) (p : Lane → Bool) : Mask :=
  maskOf (fun l => decide (l < x.w) && p (x.lane l))

/-- The lanes of `m` changed. -/
def Group.mapLanes (x : Group) (m : Mask) (f : Nat → Lane → Lane) : Group :=
  { x with lanes := x.lanes.mapIdx (fun l y => if m.has l then f l y else y) }

/-- The lanes that have not exited. -/
def Group.live (x : Group) : Mask := x.maskWhere (fun l => l.st ≠ .exited)

/-- %wdog (07_context R148): it counts while the group holds a slot, and saturates. -/
def Group.wdog (x : Group) (now : Nat) : Nat :=
  if x.on then min (2 ^ 32 - 1) ((now : Int) - x.ctl.wdog0).toNat else x.ctl.wdogSaved

/-- The flush modes of %fmode (03_numbers R53). -/
def Group.fm (x : Group) : FMode := ⟨bit x.ctl.fmode 0, bit x.ctl.fmode 1⟩

/-- Bits of %fstat raised (03_numbers R53). -/
def Group.raise (x : Group) (f : Flags) : Group := x.modCtl (fun c => { c with fstat := c.fstat ||| f })

/-- A completion flag counted (02_encoding R28). -/
def Group.count (x : Group) (f : Option Nat) : Group :=
  match f with
  | none => x
  | some k => x.modRegs (fun r => r.setF k (r.getF k + 1))

/-- A completion flag decremented (02_encoding R28). -/
def Group.uncount (x : Group) (f : Option Nat) : Group :=
  match f with
  | none => x
  | some k => x.modRegs (fun r => r.setF k (r.getF k - 1))

/-- The key number of an access through no leaf: BAR 4, and the read of a context descriptor (log 7). -/
def noKey : Nat := 256

/-- The key that a slot holds, as a number: a slot loaded again may hold another (06_page R136, 19_device R383; log 7). 0
stands for no key. -/
def State.keyId (s : State) (key : Nat) : Nat :=
  if key < 256 then key + 256 * (Tab.get 0 s.keyLoads key) + 1 else 0

/-- The key under which a granule was written, and its 256 bytes as they were written (06_page R136). -/
def State.granule (s : State) (n : Nat) : List Nat :=
  Tab.get 0 s.keyTag n :: (List.range 256).map (fun i => (Tab.get (0 : Byte) s.mem (256 * n + i)).toNat)

/-- A granule reads under a key as it was written: it was written under that key, or one of the two is no key (06_page R136;
log 7). -/
def State.sameKey (s : State) (n key : Nat) : Bool :=
  let t := Tab.get 0 s.keyTag n
  t = 0 || s.keyId key = 0 || t = s.keyId key

/-- A byte of region 0 as read under a key: under another key than the one its granule was written under it differs from the
byte written (06_page R136; log 7). -/
def State.readKeyed (s : State) (pa key : Nat) : Byte :=
  let b := Tab.get (0 : Byte) s.mem pa
  if s.sameKey (pa / 256) key then b
  else b + BitVec.ofNat 8 (1 + Config.cipherByte (s.keyId key) (pa / 256) (s.granule (pa / 256)) (pa % 256) % 255)

/-- A granule rewritten as a key reads it: the unit of encryption is the granule, so a write of part of it under another key
changes how the rest reads (06_page R136; log 7). -/
def State.rekey (s : State) (n key : Nat) : State :=
  { s with mem := (List.range 256).foldl (fun m i => Tab.set 0 m (256 * n + i) (s.readKeyed (256 * n + i) key)) s.mem }

/-- The byte at a physical address as read under a key (06_page R127, R136; logs 7 and 8). -/
def State.readPa (s : State) (pa key : Nat) : Byte :=
  if pa / 2 ^ 40 = 0 then s.readKeyed pa key
  else
    match Tab.get 0 s.hostMem (pa % 2 ^ 40) with
    | 0 => Config.hostByte (pa % 2 ^ 40)
    | n + 1 => BitVec.ofNat 8 n

/-- The byte at a physical address written under a key. -/
def State.writePa (s : State) (pa key : Nat) (b : Byte) : State :=
  if pa / 2 ^ 40 = 0 then
    let m := if s.sameKey (pa / 256) key then s.mem else (s.rekey (pa / 256) key).mem
    { s with
      mem := Tab.set 0 m pa b
      keyTag := if s.keyId key = 0 then s.keyTag else Tab.set 0 s.keyTag (pa / 256) (s.keyId key) }
  else { s with hostMem := Tab.set 0 s.hostMem (pa % 2 ^ 40) (b.toNat + 1) }

/-- A byte of a core's scratchpad. -/
def State.readSp (s : State) (core off : Nat) : Byte := Tab.get 0 s.sp (core * 2 ^ 19 + off)

/-- A byte of a core's scratchpad written, its presence bit left alone. -/
def State.writeSpRaw (s : State) (core off : Nat) (b : Byte) : State :=
  { s with sp := Tab.set 0 s.sp (core * 2 ^ 19 + off) b }

/-- The presence bit of a scratchpad line (05_memory R95). -/
def State.present (s : State) (core line : Nat) : Bool := Tab.get false s.presence (core * 4096 + line)

/-- The presence bit of a scratchpad line written. -/
def State.setPresent (s : State) (core line : Nat) (b : Bool) : State :=
  { s with presence := Tab.set false s.presence (core * 4096 + line) b }

/-- A byte of a core's scratchpad written by a thread: its line becomes present (05_memory R95). -/
def State.writeSp (s : State) (core off : Nat) (b : Byte) : State :=
  (s.writeSpRaw core off b).setPresent core (off / 128) true

/-- A byte of the chip scratchpad. -/
def State.readCsp (s : State) (die off : Nat) : Byte := Tab.get 0 s.csp (die * 2 ^ 28 + off)

/-- A byte of the chip scratchpad written. -/
def State.writeCsp (s : State) (die off : Nat) (b : Byte) : State :=
  { s with csp := Tab.set 0 s.csp (die * 2 ^ 28 + off) b }

/-- `n` bytes at a physical address. -/
def State.readPaN (s : State) (pa key n : Nat) : List Byte := (List.range n).map (fun i => s.readPa (pa + i) key)

/-- Bytes written from a physical address. -/
def State.writePaN (s : State) (pa key : Nat) (bs : List Byte) : State :=
  (bs.foldl (fun (p : State × Nat) b => (p.1.writePa p.2 key b, p.2 + 1)) (s, pa)).1

/-- `n` bytes of a scratchpad. -/
def State.readSpN (s : State) (core off n : Nat) : List Byte := (List.range n).map (fun i => s.readSp core (off + i))

/-- A little-endian number in a scratchpad. -/
def State.readSpNat (s : State) (core off n : Nat) : Nat := ofBytes (s.readSpN core off n)

/-- A 32-bit word in a scratchpad. -/
def State.readSpWord (s : State) (core off : Nat) : Word := BitVec.ofNat 32 (s.readSpNat core off 4)

/-- Bytes written to a scratchpad, presence left alone. -/
def State.writeSpRawN (s : State) (core off : Nat) (bs : List Byte) : State :=
  (bs.foldl (fun (p : State × Nat) b => (p.1.writeSpRaw core p.2 b, p.2 + 1)) (s, off)).1

/-- A load of another module that has not returned. -/
def Pend.isFar (p : Pend) : Bool :=
  match p.kind with
  | .far _ | .block _ none => true
  | .ray _ words => words.any Option.isNone
  | _ => false

/-- A record of another module that has returned to an instruction (log 69). -/
def Pend.isBlock (p : Pend) : Bool :=
  match p.kind with
  | .block _ (some _) => true
  | _ => false

/-- The stack load of a ret. -/
def Pend.isRet (p : Pend) : Bool :=
  match p.kind with
  | .ret _ => true
  | _ => false

/-- A load of the group's own that has not returned (05_memory R106, R114). -/
def Pend.isLoad (p : Pend) : Bool :=
  match p.kind with
  | .load | .far _ | .ray .. | .pref | .ret _ | .block _ none => true
  | .atomic | .qpost .. | .engine _ | .block _ (some _) => false

/-- The byte `i` places on. -/
def Loc.add (l : Loc) (i : Nat) : Loc :=
  match l with
  | .sp c o => .sp c (o + i)
  | .csp d o => .csp d (o + i)
  | .mem p k => .mem (p + i) k
  | .stk p k => .stk (p + i) k
  | .far m r f a => .far m r f ((a + i) % 2 ^ 52)

/-- Two places are one byte, whatever keys name it. -/
def Loc.same : Loc → Loc → Bool
  | .sp c o, .sp c' o' => c = c' ∧ o = o'
  | .csp d o, .csp d' o' => d = d' ∧ o = o'
  | .mem p _, .mem p' _ => p = p'
  | .stk p _, .stk p' _ => p = p'
  | .far m r f a, .far m' r' f' a' => m = m' ∧ r = r' ∧ f = f' ∧ a = a'
  | _, _ => false

/-- A byte as memory holds it, the stack cache of group g before its backing (05_memory R94). -/
def State.readLoc (s : State) (g : Nat) : Loc → Byte
  | .sp c o => s.readSp c o
  | .csp d o => s.readCsp d o
  | .mem p k => s.readPa p k
  | .stk p k =>
    match s.group g with
    | some x =>
      match Tab.find x.io.stk p with
      | some (b, _) => BitVec.ofNat 8 b
      | none => s.readPa p k
    | none => s.readPa p k
  | .far .. => 0

/-- A byte performed at its home (05_memory R106). -/
def State.writeLoc (s : State) (g : Nat) (l : Loc) (b : Byte) : State :=
  match l with
  | .sp c o => s.writeSp c o b
  | .csp d o => s.writeCsp d o b
  | .mem p k => s.writePa p k b
  | .stk p k => s.modGroup g (fun x => x.modIo (fun io => { io with stk := Tab.ins io.stk p (b.toNat, k) }))
  | .far .. => s

/-- A place of another module. -/
def Loc.isFar : Loc → Bool
  | .far .. => true
  | _ => false

/-- The bytes of other modules among some cells, as runs of adjacent bytes: the first place of each, and its bytes. -/
def farRuns : List (Loc × Byte) → List (Loc × List Byte)
  | [] => []
  | (l, b) :: cs =>
    if !l.isFar then farRuns cs
    else match farRuns cs with
      | (l', bs) :: rest => if l.add 1 = l' then (l, b :: bs) :: rest else (l, [b]) :: (l', bs) :: rest
      | [] => [(l, [b])]

/-- An operation on a place of another module leaves for its home (18_link R364). -/
def State.sendAccess (s : State) (l : Loc) (op : RemoteOp) : State :=
  match l with
  | .far m r f a => s.send (.access m r f a op)
  | _ => s

/-- The reads of other modules' bytes leave for their homes (18_link R364). -/
def State.sendLoads (s : State) (copy : Bool) (ls : List Loc) : State :=
  (farRuns (ls.map (fun l => (l, 0)))).foldl (fun s f => s.sendAccess f.1 (.load f.2.length copy)) s

/-- The writes of other modules' bytes leave for their homes (18_link R364). -/
def State.sendStores (s : State) (copy : Bool) (cs : List (Loc × Byte)) : State :=
  (farRuns cs).foldl (fun s f => s.sendAccess f.1 (.store (f.2.map (fun (b : Byte) => b.toNat)) copy)) s

/-- Bytes performed at their homes in this module, in order. -/
def State.writeCells (s : State) (g : Nat) (cs : List (Loc × Byte)) : State :=
  cs.foldl (fun s c => s.writeLoc g c.1 c.2) s

/-- A write of a memory line reaches every core: entries of ld.ro loads that read it go, and such a load in flight enters nothing
(11_register R217). -/
def State.unstitchMem (s : State) (line : Nat) : State :=
  let stays (e : Stitch) : Bool := !(e.ro && e.lines.contains line)
  { s with pools := s.pools.filterMap (fun k =>
      let p := { k.2 with stitch := k.2.stitch.filter stays, loads := k.2.loads.filter stays }
      if p = {} then none else some (k.1, p)) }

/-- The line of a byte that an ld.ro reads, as the register unit records it: of this module's memory, or of another module's
(11_register R217). -/
def Loc.roLine : Loc → Option Nat
  | .mem pa _ => some (pa / 128)
  | .far m r _ a => some (2 ^ 40 + (64 * m + r) * 2 ^ 45 + a / 128)
  | _ => none

/-- The dirty bytes of a group's stack cache written back (05_memory R94). -/
def State.flushStack (s : State) (g : Nat) : State :=
  match s.group g with
  | none => s
  | some x =>
    let s := x.io.stk.foldl (fun s e => (s.writePa e.1 e.2.2 (BitVec.ofNat 8 e.2.1)).unstitchMem (e.1 / 128)) s
    s.modGroup g (fun x => x.modIo (fun io => { io with stk := [] }))

/-- Byte ranges overlap. -/
def overlaps (lo hi lo' hi' : Nat) : Bool := lo < hi' && lo' < hi

/-- The free numbers of a core's range-lock table, lowest first (05_memory R121). -/
def Core.freeLocks (c : Core) : List Nat :=
  (List.range 64).filter (fun k => (Tab.get none c.locks k).isNone)

/-- Range-lock entries entered, in the lowest free places; none where the table is too full (05_memory R123). -/
def Core.enterLocks (c : Core) (ls : List Lock) : Option Core :=
  if c.freeLocks.length < ls.length then none
  else some { c with locks := (c.freeLocks.zip ls).foldl (fun t e => Tab.set none t e.1 (some e.2)) c.locks }

/-- The range-lock entries of an operation removed. -/
def Core.dropLocks (c : Core) (owner : Nat) : Core :=
  { c with locks := c.locks.filter (fun e => match e.2 with | some l => l.owner ≠ owner | none => true) }

/-- The entries of a core's table that overlap a byte range, as (number, entry). -/
def Core.hitLocks (c : Core) (space : LockSpace) (lo hi : Nat) : List (Nat × Lock) :=
  c.locks.filterMap (fun e => match e.2 with
    | some l =>
      if l.space = space ∧ (overlaps lo hi l.lo l.hi ∨ l.also.any (fun r => overlaps lo hi r.1 r.2)) then some (e.1, l) else none
    | none => none)

end Sys2Proof.Machine
end

