-- ==== Sys2Proof/Machine/Die.lean ====
section
/-!
DEFINITION. The dies of the module and the bridges between them (01_module R11 to R15): the rows and columns, the bridges of
each die, the routes around a bridge that is Down, and what a unit of a die can reach.
-/
namespace Sys2Proof.Machine

/-- The row and the column of a die (R12). -/
def dieRow (d : Nat) : Nat := d / 4
def dieCol (d : Nat) : Nat := d % 4

/-- The row-mates of a die in ascending column, and its column-mate, d XOR 4 (R12). -/
def rowMates (d : Nat) : List Nat := (List.range 8).filter (fun e => dieRow e = dieRow d && e ≠ d)
def colMate (d : Nat) : Nat := (d + 4) % 8

/-- The two ends of each bridge: dies 0 to 7, and 8 and 9 for Nimpol 0 and 1 (R12). The numbers of the bridges are the model's
(DESIGN CHOICE, log 70). -/
def bridges : List (Nat × Nat) :=
  [(0, 1), (0, 2), (0, 3), (1, 2), (1, 3), (2, 3), (4, 5), (4, 6), (4, 7), (5, 6), (5, 7), (6, 7),
   (0, 4), (1, 5), (2, 6), (3, 7), (0, 8), (4, 8), (3, 9), (7, 9)]

/-- The bridge that joins two dies. -/
def bridgeOf (a b : Nat) : Option Nat := bridges.findIdx? (fun e => e = (a, b) || e = (b, a))

/-- The Nimpol die that a die's Nimpol bridge reaches: dies 1, 2, 5 and 6 have none wired (R12, R15). -/
def nimpolOf (d : Nat) : Option Nat := if dieCol d = 0 then some 8 else if dieCol d = 3 then some 9 else none

/-- The five bridge ports of a die, each with its router and what it joins: the column-mate and the Nimpol die at router 0, the
row-mates at routers 7, 24 and 31 (R15). -/
def bridgePorts (d : Nat) : List (Nat × Option Nat) :=
  [(0, some (colMate d)), (0, nimpolOf d)] ++ [7, 24, 31].zip ((rowMates d).map some)

/-- Two dies are joined by a bridge that is not Down. -/
def State.hopUp (s : State) (a b : Nat) : Bool :=
  match bridgeOf a b with
  | some k => !Tab.get false s.bridgeDown k
  | none => false

/-- A bridge port of a die reads as Down: its bridge is, or it is not wired (R15). -/
def State.bridgePortDown (s : State) (d k : Nat) : Bool :=
  match (bridgePorts d)[k]? with
  | some (_, some e) => !s.hopUp d e
  | _ => true

/-- The paths between two dies, in the order in which they are tried: along the row first, then R13's detours, then every
other path of two or three hops. -/
def diePaths (a b : Nat) : List (List Nat) :=
  let two (f : Nat) : List Nat := [a, f, b]
  let three (f g : Nat) : List Nat := [a, f, g, b]
  let first : List (List Nat) :=
    if a = b then [[a]]
    else if dieRow a = dieRow b then [a, b] :: ((rowMates a).filter (fun f => f ≠ b)).map two
    else if dieCol a = dieCol b then [a, b] :: (rowMates a).map (fun f => three f (colMate f))
    else [two (4 * dieRow a + dieCol b), two (4 * dieRow b + dieCol a)]
  let others := (List.range 8).filter (fun f => f ≠ a && f ≠ b)
  first ++ others.map two ++ (others.map (fun f => (others.filter (fun g => g ≠ f)).map (three f))).flatten

/-- Every hop of a path is Up. -/
def State.pathUp (s : State) : List Nat → Bool
  | a :: b :: rest => s.hopUp a b && s.pathUp (b :: rest)
  | _ => true

/-- The route between two dies: the first path whose bridges are all Up; none where there is no path (R13). -/
def State.dieRoute (s : State) (a b : Nat) : Option (List Nat) := (diePaths a b).find? s.pathUp

/-- The route from a die to a Nimpol die, 8 or 9: through the die of its own row beside it, or that die's column-mate (R13). A
detour of three hops to that die, and the Nimpol hop after it, is admitted: R13 searches paths of two or three hops and does not say
whether the hop to a Nimpol die counts among them (DESIGN CHOICE, log 83). -/
def State.nimpolRoute (s : State) (d n : Nat) : Option (List Nat) :=
  let p := 4 * dieRow d + (if n = 8 then 0 else 3)
  let q := colMate p
  let by_ (e : Nat) (tail : List Nat) : Option (List Nat) :=
    match s.dieRoute d e with
    | some r => if s.pathUp (e :: tail) then some (r ++ tail) else none
    | none => none
  (by_ p [n]).or ((by_ p [q, n]).or (by_ q [n]))

/-- A unit of a die reaches a link port that carries traffic (18_link R362). -/
def State.linkOut (s : State) (d : Nat) : Bool :=
  (List.range 32).any (fun p =>
    let st := (Tab.get ({} : Port) s.ports p).st
    (st = .up || st = .degraded) && (s.nimpolRoute d (8 + p / 16)).isSome)

/-- Where a byte lies: dies 0 to 7, 8 host memory, 9 another module; none: in a scratchpad (06_page R127). -/
def Loc.home : Loc → Option Nat
  | .sp .. => none
  | .csp d _ => some d
  | .mem pa _ | .stk pa _ => some (if pa / 2 ^ 40 = 0 then bits pa 38 36 else 8)
  | .far .. => some 9

/-- The homes of some bytes. -/
def homesOf (ls : List Loc) : List Nat := (ls.filterMap Loc.home).eraseDups

/-- A unit of a die has a path to a home: between dies, to the host port of the bridge module, or over a link (01_module R13,
18_link R358, R362). -/
def State.reaches (s : State) (d home : Nat) : Bool :=
  if home < 8 then (s.dieRoute d home).isSome
  else if home = 8 && s.modid.bridge then (s.nimpolRoute d 8).isSome
  else s.linkOut d

/-- An operation on a home may fail with LINK: no path is left, or it travels over links (01_module R13, 18_link R358, R362). -/
def State.mayLink (s : State) (d home : Nat) : Bool :=
  !s.reaches d home || home = 9 || (home = 8 && !s.modid.bridge)

/-- An access of a unit of a die to some homes may end so: it is performed where every home has a path, and it fails with LINK
where one may (18_link R362). -/
def State.mayEnd (s : State) (d : Nat) (homes : List Nat) (res : IoEnd) : Bool :=
  match res with
  | .ok | .fixed _ => homes.all (s.reaches d)
  | .link => homes.any (s.mayLink d)
  | .memerr => homes.all (s.reaches d)

end Sys2Proof.Machine
end

