-- ==== Sys2Proof/Machine/Mmu.lean ====
section
/-!
DEFINITION. Translation (06_page R126 to R136): the walk, the translation caches, the accessed and dirty bits, and fault slots.
-/
namespace Sys2Proof.Machine

/-- Bytes that a leaf of a level maps (06_page R126). -/
def pageSize (level : Nat) : Nat := 2 ^ (16 + 9 * level)

/-- The page number of an address at a level. -/
def vpnOf (level va : Nat) : Nat := va / pageSize level

/-- The index of an address in a table of a level (06_page R126). -/
def pteIndex (level va : Nat) : Nat := bits va (24 + 9 * level) (16 + 9 * level)

/-- The installed bytes of a die's memory (00_scope R1). -/
def State.capacity (s : State) : Nat :=
  match s.code with
  | .sx8_512 => 64 * 2 ^ 30
  | .sx8_384 => 48 * 2 ^ 30

/-- A physical address that exists: region 0 below the die's capacity, or region 1 (06_page R127). -/
def State.paOk (s : State) (pa : Nat) : Bool :=
  let region := pa / 2 ^ 40
  region = 1 || (region = 0 && !bit pa 39 && pa % 2 ^ 36 < s.capacity)

/-- Fields of a page-table entry (06_page R128). -/
def pteV (e : Nat) : Bool := bit e 0
def pteW (e : Nat) : Bool := bit e 1
def pteX (e : Nat) : Bool := bit e 2
def pteC (e : Nat) : Bool := bit e 3
def pteM (e : Nat) : Bool := bit e 4
def pteA (e : Nat) : Bool := bit e 5
def pteD (e : Nat) : Bool := bit e 6
def pteG (e : Nat) : Bool := bit e 7
def pteLeaf (e : Nat) : Bool := bit e 8
def pteAddr (e : Nat) : Nat := bits e 43 12 * 4096
def pteKey (e : Nat) : Nat := bits e 63 56

/-- An entry is a leaf at a level. -/
def isLeafAt (e level : Nat) : Bool := level = 0 || pteLeaf e

/-- An entry is well formed at a level (06_page R129). -/
def State.pteOk (s : State) (e level : Nat) : Bool :=
  bits e 51 44 = 0 && bits e 11 9 = 0 && !(level = 3 && pteLeaf e)
    && (if isLeafAt e level && level ≤ 2 then
          pteAddr e % pageSize level = 0 && s.paOk (pteAddr e) && Tab.get false s.keyFull (pteKey e)
        else s.paOk (pteAddr e) && pteAddr e / 2 ^ 40 = 0)

/-- An 8-byte entry read under a key. -/
def State.readPte (s : State) (pa key : Nat) : Nat := ofBytes (s.readPaN pa key 8)

/-- How a walk ends: with a leaf, without one (06_page R134 REASON), or at an entry to which the walking die has no path
(01_module R13). -/
inductive WalkEnd where
  | leaf (l : Leaf)
  | fault (reason level entry entryAddr : Nat)
  | link
  deriving DecidableEq, Repr

/-- Where a translation is asked for: a core, or an engine or another unit of a die (06_page R132). -/
inductive Site where
  | core (k : Nat)
  | die (d : Nat)
  deriving DecidableEq, Repr

/-- The die whose walkers and fault slots serve a site. -/
def Site.on : Site → Nat
  | .core k => dieOfCore k
  | .die d => d

/-- The caches that a site's translations pass, nearest first: the core's, its cluster's, its die's (06_page R132). -/
def Site.caches : Site → List Nat
  | .core k => [k, 2560 + clusterOfCore k, 3200 + dieOfCore k]
  | .die d => [3200 + d]

/-- The entries of a translation cache (06_page R132). -/
def cacheSize (k : Nat) : Nat := if k < 2560 then 64 else if k < 3200 then 2048 else 16384

/-- An upper-level entry that a die's walkers hold; a leaf is no such entry. -/
def State.upper (s : State) (die c level va : Nat) : Option Nat :=
  ((Tab.get [] s.uppers die).find? (fun u =>
    u.ctx = c && u.level = level && u.vpn = vpnOf level va && !isLeafAt u.pte level)).map (·.pte)

/-- The partition of a context: PBASE and PSIZE (07_context R139). -/
def State.partOf (s : State) (c : Nat) : Nat × Nat := ((s.ctx c).d.pbase, (s.ctx c).d.psize)

/-- The walk of R129 by a die from a table at a level, through the upper-level entries that its walkers hold; with it, the
entries above the leaf that it passed. An entry that must be read and to which the die has no path ends it with LINK (01_module
R13; log 82). -/
def State.walkFrom (s : State) (die c va : Nat) : Nat → Nat → List Upper × WalkEnd
  | level, base =>
    let pa := base + 8 * pteIndex level va
    let held := s.upper die c level va
    let e := held.getD (s.readPte pa (s.ctx c).d.key)
    if held.isNone && !(homesOf [.mem pa 0]).all (s.reaches die) then ([], .link)
    else if !pteV e then ([], .fault 0 level e pa)
    else if !s.pteOk e level then ([], .fault 2 level e pa)
    else if isLeafAt e level then
      ([], .leaf
        { ctx := if pteG e then none else some c, level := level, vpn := vpnOf level va, pte := e, entry := pa
          part := if pteG e then s.partOf c else (0, 0) })
    else
      match level with
      | 0 => ([], .fault 2 0 e pa)
      | l + 1 =>
        let r := s.walkFrom die c va l (pteAddr e)
        (⟨c, level, vpnOf level va, e⟩ :: r.1, r.2)
termination_by structural level => level

/-- The walk of a context's virtual address by a die (06_page R129): the leaf carries the tag of R132. -/
def State.walk (s : State) (die c va : Nat) : WalkEnd := (s.walkFrom die c va 3 ((s.ctx c).d.root * 4096)).2

/-- A cached leaf serves an address of a context: its own, or a global one of its partition (06_page R132). -/
def State.serves (s : State) (l : Leaf) (c va : Nat) : Bool :=
  (l.ctx = some c || (l.ctx = none && l.part = s.partOf c)) && l.vpn = vpnOf l.level va

/-- The leaf that a cache holds for an address. -/
def State.cachedIn (s : State) (k c va : Nat) : Option Leaf := (Tab.get [] s.tlb k).find? (fun l => s.serves l c va)

/-- The leaf that a site finds for an address in its caches. -/
def State.cached (s : State) (p : Site) (c va : Nat) : Option Leaf := p.caches.findSome? (fun k => s.cachedIn k c va)

/-- The leaves of a cache replaced. -/
def State.setTlb (s : State) (k : Nat) (ls : List Leaf) : State := { s with tlb := Tab.set [] s.tlb k ls }

/-- A leaf put into a cache, in place of those for the address; the oldest goes where the cache is full (06_page R132; log
10). -/
def State.hold (s : State) (k c va : Nat) (l : Leaf) : State :=
  s.setTlb k ((l :: (Tab.get [] s.tlb k).filter (fun o => !s.serves o c va)).take (cacheSize k))

/-- A leaf found beyond the nearest cache enters that cache. -/
def State.touch (s : State) (p : Site) (c va : Nat) : State :=
  match p.caches, s.cached p c va with
  | k :: _, some l => if (s.cachedIn k c va).isSome then s else s.hold k c va l
  | _, _ => s

/-- The upper-level entries that a walk read, held by the walkers of the die: 1,024 of them (06_page R132; log 10). -/
def State.holdUppers (s : State) (die : Nat) (us : List Upper) : State :=
  let old := Tab.get [] s.uppers die
  let more := us.filter (fun u => !old.contains u)
  if more = [] then s else { s with uppers := Tab.set [] s.uppers die ((more ++ old).take 1024) }

/-- An entry with bits set, written at its place under a key (06_page R131). -/
def State.orPte (s : State) (key : Nat) (l : Leaf) (m : Nat) : State × Leaf :=
  let e := l.pte ||| m
  (if e = l.pte then s else (s.writePaN l.entry key (toBytes 8 e)).unstitchMem (l.entry / 128), { l with pte := e })

/-- A walk: what it read above the leaf is held, and a leaf enters every cache of the site with A set (06_page R129, R131,
R132). -/
def State.walkIn (s : State) (p : Site) (c va : Nat) : State × WalkEnd :=
  let r := s.walkFrom p.on c va 3 ((s.ctx c).d.root * 4096)
  let s := s.holdUppers p.on r.1
  match r.2 with
  | .leaf l =>
    let (s, l) := s.orPte (s.ctx c).d.key l 32
    (p.caches.foldl (fun s k => s.hold k c va l) s, .leaf l)
  | e => (s, e)

/-- The leaf for an address: a cached one that has what the access needs, else that of a fresh walk, which confirms a permission
that is missing or a migration that has ended (06_page R129, R132). -/
def State.look (s : State) (p : Site) (c va : Nat) (need : Nat → Bool) : State × WalkEnd :=
  match s.cached p c va with
  | some l => if need l.pte then (s.touch p c va, .leaf l) else s.walkIn p c va
  | none => s.walkIn p c va

/-- A leaf through which a write may go without a fresh walk. -/
def pteOpen (e : Nat) : Bool := pteW e && !pteM e

/-- The leaves of every cache that a site's translations pass changed. -/
def State.mapCaches (s : State) (p : Site) (f : List Leaf → List Leaf) : State :=
  p.caches.foldl (fun s k => s.setTlb k (f (Tab.get [] s.tlb k))) s

/-- A write may go through a leaf as it is cached: D is set already, or its entry still holds what the walk read (06_page
R131). -/
def State.entryHolds (s : State) (c : Nat) (l : Leaf) : Bool :=
  pteD l.pte || s.readPte l.entry (s.ctx c).d.key = l.pte

/-- The leaves for an address leave the caches of a site: the next access walks again (06_page R131). -/
def State.dropLeaf (s : State) (p : Site) (c va : Nat) : State := s.mapCaches p (fun ls => ls.filter (fun o => !s.serves o c va))

/-- D set on the first write through a leaf: ORed into the entry, and set in every cache of the site (06_page R131). -/
def State.setDirty (s : State) (p : Site) (c : Nat) (l : Leaf) : State × Leaf :=
  if pteD l.pte then (s, l)
  else
    let (s, l') := s.orPte (s.ctx c).d.key l 64
    (s.mapCaches p (fun ls => ls.map (fun o => if o = l then l' else o)), l')

/-- D set on the leaf that a site holds for an address. -/
def State.setDirtyAt (s : State) (p : Site) (c va : Nat) : State :=
  match s.cached p c va with
  | some l => (s.setDirty p c l).1
  | none => s

/-- A site holds no leaf for an address through which a write may go as it is cached. -/
def State.staleAt (s : State) (p : Site) (c va : Nat) : Bool :=
  match s.cached p c va with
  | some l => !s.entryHolds c l
  | none => true

/-- Every leaf of a write made dirty. Where the entry of some has changed, no D is set: those leaves go, and the first of their
addresses must be walked again (06_page R131). -/
def State.dirtyAll (s : State) (p : Site) (c : Nat) (vas : List Nat) : State × Option Nat :=
  match vas.filter (s.staleAt p c) with
  | [] => (vas.foldl (fun s va => s.setDirtyAt p c va) s, none)
  | va :: rest => ((va :: rest).foldl (fun s va => s.dropLeaf p c va) s, some va)

/-- The physical address of a virtual one through a leaf. -/
def Leaf.pa (l : Leaf) (va : Nat) : Nat := pteAddr l.pte + va % pageSize l.level

/-- How a translation ends for a unit that walks at once: a leaf, a PAGE fault, or the PROT or COMPR of the access, or the LINK of
a walk. -/
inductive Xlat where
  | ok (l : Leaf)
  | page (reason level entry entryAddr : Nat)
  | stop (c : Cause)
  deriving DecidableEq, Repr

/-- A translation and its checks, in the order of steps 6 to 8 of R107: PAGE, a migrating page's among them, PROT, COMPR
(06_page R129, R130). `copy`: a copy engine, which may reach a page that carries C. -/
def State.xlat (s : State) (p : Site) (c va : Nat) (write copy : Bool) : State × Xlat :=
  let va := va % 2 ^ 52
  match s.look p c va (fun e => !write || pteOpen e) with
  | (s, .fault r lv e pa) => (s, .page r lv e pa)
  | (s, .link) => (s, .stop .link)
  | (s, .leaf l) =>
    if write && pteM l.pte then (s, .page 1 l.level l.pte l.entry)
    else if write && !pteW l.pte then (s, .stop .prot)
    else if pteC l.pte && !copy then (s, .stop .compr)
    else (s, .ok l)

/-- A translation for a write that is performed: D is set; where the entry has changed the access walks again, and is checked
again (06_page R131). -/
def State.xlatD (s : State) (p : Site) (c va : Nat) (copy : Bool) : State × Xlat :=
  let va := va % 2 ^ 52
  let write (s : State) (l : Leaf) : State × Xlat := let (s, l) := s.setDirty p c l; (s, .ok l)
  match s.xlat p c va true copy with
  | (s, .ok l) =>
    if s.entryHolds c l then write s l
    else
      match (s.dropLeaf p c va).xlat p c va true copy with
      | (s, .ok l) => write s l
      | r => r
  | r => r

/-- A fault slot of a die. -/
def State.fault (s : State) (die k : Nat) : FaultSlot := Tab.get {} s.faults (256 * die + k)

/-- A fault slot replaced. -/
def State.setFault (s : State) (die k : Nat) (f : FaultSlot) : State :=
  { s with faults := Tab.set {} s.faults (256 * die + k) f }

/-- The Posted slot that a fault joins: same context and same entry address (06_page R134). -/
def State.joinSlot (s : State) (die c entryAddr : Nat) : Option Nat :=
  (List.range 256).find? (fun k =>
    let f := s.fault die k
    f.st = .posted ∧ f.ctx = c ∧ f.entryAddr = entryAddr)

/-- The Free slot a new fault takes: the lowest (log 19). -/
def State.freeSlot (s : State) (die : Nat) : Option Nat := (List.range 256).find? (fun k => (s.fault die k).st = .free)

/-- A fault posted on a die (06_page R134): it joins a Posted slot, takes a Free one, or waits for one. -/
def State.post (s : State) (die : Nat) (f : FaultSlot) : State × Option Nat :=
  match s.joinSlot die f.ctx f.entryAddr with
  | some k =>
    let o := s.fault die k
    (s.setFault die k { o with access := o.access ||| f.access, parties := o.parties ++ f.parties }, some k)
  | none =>
    match s.freeSlot die with
    | some k => ((s.setFault die k { f with st := .posted }).interrupt 0, some k)
    | none => ({ s with slotless := s.slotless ++ [⟨die, f⟩] }, none)

/-- A party leaves every fault slot and the wait for one (07_context R148, R153). -/
def State.leaveSlots (s : State) (p : Party → Bool) : State :=
  { s with
    faults := s.faults.map (fun e => (e.1, { e.2 with parties := e.2.parties.filter (fun q => !p q) }))
    slotless := s.slotless.filter (fun q => !(q.slot.parties.any p)) }

/-- A party leaves the slots that are Replaying: its walk has completed (06_page R134). -/
def State.walked (s : State) (p : Party → Bool) : State :=
  { s with
    faults := s.faults.map (fun e =>
      if e.2.st = .replaying then (e.1, { e.2 with parties := e.2.parties.filter (fun q => !p q) }) else e) }

/-- The party belongs to group g. -/
def Party.isGroup (g : Nat) : Party → Bool
  | .group h => h = g
  | .fetch h => h = g
  | _ => false

/-- The fault that a group posts: SRC 0 or 1, UNIT its die core number (06_page R134). -/
def groupFault (g core c : Nat) (fetch write : Bool) (va reason level entry entryAddr : Nat) : FaultSlot :=
  { src := b2n fetch, unit := core % 320, entry := entry, entryAddr := entryAddr, ctx := c,
    access := if fetch then 4 else if write then 2 else 1, level := level, reason := reason, va := va,
    parties := [if fetch then .fetch g else .group g] }

/-- A group parks for a PAGE fault: on the slot it joined or took, or without one. -/
def State.parkFault (s : State) (g core c : Nat) (fetch write : Bool) (va reason level entry entryAddr : Nat) :
    State × Park :=
  let die := dieOfCore core
  let s := s.walked (Party.isGroup g)
  match s.post die (groupFault g core c fetch write va reason level entry entryAddr) with
  | (s, some k) => (s, .fault die k)
  | (s, none) => (s, .slotless)

end Sys2Proof.Machine
end

