-- ==== Sys2Proof/Machine/Flow.lean ====
section
/-!
DEFINITION. Lanes and clause issues (02_encoding R24 to R29, 10_group R190 to R201): choosing lanes, meeting, exiting,
ending a clause issue, and task records at exit (08_queue R170, R171).
-/
namespace Sys2Proof.Machine

/-- MR clear, and no clause base (10_group R191, 07_context R146). -/
def clearWord : Word := 0xFFFFFFFF

/-- Header fields (02_encoding R25). -/
def hdrCount (h : Word) : Nat := bits h.toNat 31 28
def hdrClass (h : Word) : Nat := bits h.toNat 27 25
def hdrWait (h : Word) : Nat := bits h.toNat 24 13
def hdrSet0 (h : Word) : Nat := bits h.toNat 12 9
def hdrSet1 (h : Word) : Nat := bits h.toNat 8 5
def hdrYield (h : Word) : Bool := bit h.toNat 4

/-- The header checks of R27 stage 1. -/
def hdrOk (h : Word) : Bool :=
  let setOk (x : Nat) : Bool := x < 12 || x = 15
  hdrCount h ≠ 0 && hdrClass h ≤ 4 && setOk (hdrSet0 h) && setOk (hdrSet1 h) && bits h.toNat 3 0 = 0

/-- The address of word `pos` of a clause. -/
def Clause.addr (c : Clause) (pos : Nat) : Word := c.base + BitVec.ofNat 32 (4 * pos)

/-- The address of the word at which issue stands. -/
def Clause.own (c : Clause) : Word := c.addr c.pos

/-- The next header (02_encoding R24). -/
def Clause.next (c : Clause) : Word := c.addr (hdrCount c.hdr + 1)

/-- NPC of an instruction (07_context R146): the word after it, or the next header past the clause or a terminal CF. -/
def Clause.npc (c : Clause) (terminal : Bool) : Word :=
  if terminal || c.pos + c.ilen > hdrCount c.hdr then c.next else c.addr (c.pos + c.ilen)

/-- A terminal CF instruction (02_encoding R36). -/
def Enc.terminal (e : Enc) : Bool :=
  let m := cfMinor e.t
  e.major = 0x1C && (m ≤ 5 || m = 7 || m = 10 || m = 11)

/-- The structure check of R27 stage 3 over the words from the recorded one on. -/
def structOk : Nat → List Word → Bool
  | 0, _ => true
  | _ + 1, [] => true
  | n + 1, w :: ws =>
    match readEnc (w :: ws) with
    | none => false
    | some e => (!e.terminal || (w :: ws).length = e.len) && structOk n ((w :: ws).drop e.len)

/-- The lanes that Pick would issue, and the issue state after it (10_group R192). -/
def Group.pick (x : Group) (t : Nat) (promise : Bool) : Option (Mask × Group) :=
  let ready := x.maskWhere (fun l => l.st = .ready)
  if ready = 0 then none
  else
    let round0 := if promise && x.flow.round = 0 then ready &&& x.maskWhere (fun l => l.bypass ≥ t) else x.flow.round
    let round := round0 &&& ready
    let cand :=
      if round ≠ 0 then round
      else
        let c := ready &&& ~~~x.flow.stepAside
        if c = 0 then ready else c
    let p := (lanesOf cand).foldl (fun a l => min a (x.lane l).pc.toNat) (2 ^ 32)
    let i := ready &&& x.maskWhere (fun l => l.pc.toNat = p)
    let x := x.modFlow (fun f => { f with round := round &&& ~~~i, stepAside := 0 })
    let x := x.mapLanes i (fun _ l => { l with bypass := 0 })
    let x := x.mapLanes (ready &&& ~~~i) (fun _ l => { l with bypass := min (l.bypass + 1) t })
    some (i, x)

/-- The rules of R193 for every MR value: a set all at its label is released, an early lane is held. -/
def Group.meet (x : Group) : Group :=
  { x with
    lanes := x.lanes.map (fun l =>
      if l.st = .exited ∨ l.mr = clearWord ∨ l.pc ≠ l.mr ∨ l.cb ≠ clearWord then l
      else if x.lanes.all (fun o => o.st = .exited || o.mr ≠ l.mr || (o.pc = o.mr && o.cb = clearWord)) then
        { l with st := .ready, mr := clearWord, bypass := 0 }
      else { l with st := .held, bypass := 0 }) }

/-- The lanes waiting at one word that are every non-exited lane become ready there (10_group R194, Exit). -/
def Group.wake (x : Group) : Group :=
  let live := x.lanes.filter (fun l => l.st ≠ .exited)
  match live with
  | [] => x
  | l :: ls =>
    if l.st = .waiting ∧ ls.all (fun o => o.st = .waiting && o.pc = l.pc) then
      { x with lanes := x.lanes.map (fun o => if o.st = .waiting then { o with st := .ready } else o) }
    else x

/-- The lanes that step aside when the clause issue ends: I, where `yield` or the header marks it (10_group R197). -/
def Clause.leaves (c : Clause) : Mask := if c.aside || hdrYield c.hdr then c.lanes else 0

/-- The open clause issue is over: its lanes leave the tension round where they are not ready, StepAside is set where it
was marked, and the meeting rules apply (10_group R192, R193, R197). -/
def Group.endIssue (x : Group) : Group :=
  match x.flow.clause with
  | none => x
  | some c =>
    let gone := c.lanes &&& x.maskWhere (fun l => l.st ≠ .ready)
    let x := x.modFlow (fun f =>
      { f with clause := none, park := none, round := f.round &&& ~~~gone, stepAside := c.leaves })
    (x.mapLanes gone (fun _ l => { l with bypass := 0 })).meet.wake

/-- The lanes of a mask set to a header address. -/
def Group.goto (x : Group) (m : Mask) (pc : Nat → Word) : Group :=
  x.mapLanes m (fun l y => if y.st = .exited then y else { y with pc := pc l, cb := clearWord })

/-- A clause issue that ends with its lanes at the given addresses. -/
def Group.leave (x : Group) (pc : Nat → Word) : Group :=
  match x.flow.clause with
  | none => x
  | some c => (x.goto c.lanes pc).endIssue

/-- A task queue of a context. -/
def Ctx.queue (c : Ctx) (k : Nat) : TaskQ := Tab.get {} c.tq k

/-- A task queue replaced. -/
def Ctx.setQueue (c : Ctx) (k : Nat) (q : TaskQ) : Ctx := { c with tq := Tab.set {} c.tq k q }

/-- A slot of a task queue. -/
def TaskQ.slot (q : TaskQ) (k : Nat) : Option TaskRec := Tab.get none q.slots k

/-- A slot of a task queue replaced; none is Free. -/
def TaskQ.setSlot (q : TaskQ) (k : Nat) (r : Option TaskRec) : TaskQ := { q with slots := Tab.set none q.slots k r }

/-- The number of Free slots (08_queue R170). -/
def TaskQ.free (q : TaskQ) : Nat := q.cap - q.slots.length

/-- A slot's record published: it becomes Queued with the next sequence number (08_queue R170). -/
def State.publish (s : State) (c q slot : Nat) : State :=
  let (age, s) := s.fresh
  s.modCtx c (fun x =>
    let t := x.queue q
    match t.slot slot with
    | none => x
    | some r =>
      x.setQueue q { t.setSlot slot (some { r with st := .queued, seq := t.seq, since := s.sched.now, age := age }) with
        seq := t.seq + 1 })

/-- tcommit of one lane of a group: its Pending records are published in spawn order (08_queue R176). -/
def State.commitLane (s : State) (g c l : Nat) : State :=
  match s.group g with
  | none => s
  | some x =>
    if (x.lane l).committed then s
    else
      let s := (x.lane l).pending.foldl (fun s p => s.publish c p.1 p.2) s
      s.modGroup g (fun x => x.mapLanes (Mask.single l) (fun _ y => { y with committed := true, pending := [] }))

/-- The first `n` Reserved slots of a queue freed. -/
def TaskQ.unreserve (t : TaskQ) : Nat → TaskQ
  | 0 => t
  | n + 1 =>
    match t.slots.find? (fun e => match e.2 with | some r => r.st = .reserved | none => false) with
    | some e => (t.setSlot e.1 none).unreserve n
    | none => t

/-- The exit of one lane: tcommit, its reservations released, its Running slot freed (10_group R203, 08_queue R171). -/
def State.exitLane (s : State) (g c : Nat) (taskq : Option Nat) (l : Nat) : State :=
  let s := s.commitLane g c l
  match s.group g with
  | none => s
  | some x =>
    let y := x.lane l
    let s := s.modCtx c (fun z => if y.res = 0 then z else z.setQueue y.resQ ((z.queue y.resQ).unreserve y.res))
    let s := match y.taskSlot, taskq with
      | some k, some q => s.modCtx c (fun z => z.setQueue q ((z.queue q).setSlot k none))
      | _, _ => s
    s.modGroup g (fun x => x.mapLanes (Mask.single l) (fun _ y =>
      { y with st := .exited, res := 0, taskSlot := none, vbind := none, ray := {} }))

/-- The failures of nevals that have not been taken, without the lanes that have exited: a failed row whose lane has exited raises
nothing (15_net R296). -/
def Group.liveLate (x : Group) : Group :=
  x.modIo (fun io => { io with late := io.late.filterMap (fun l =>
    let m := l.trap.tmask &&& x.live
    if l.neval.isNone then some l else if m = 0 then none else some { l with trap := { l.trap with tmask := m } }) })

/-- The lanes of a mask exit, lowest first; the meeting rules apply again (10_group R203). The exit of the last lane ends the
group's lease (14_tile R262). -/
def State.exitLanes (s : State) (g : Nat) (m : Mask) : State :=
  match s.group g with
  | none => s
  | some x =>
    match s.team x.team with
    | none => s
    | some t =>
      let ls := (lanesOf m).filter (fun l => decide (l < x.w) && decide ((x.lane l).st ≠ .exited))
      let s := ls.foldl (fun s l => s.exitLane g t.ctx t.taskq l) s
      s.modGroup g (fun x =>
        let x := x.modFlow (fun f => { f with clause := f.clause.map (fun c => { c with lanes := c.lanes &&& ~~~m }) })
        let x := x.meet.wake.liveLate
        x.modFlow (fun f => { f with ended := x.live = 0 })) |>.modCore x.core (fun k =>
          if x.live &&& ~~~m = 0 ∧ k.holder = some (.group g) then { k with holder := none } else k)

/-- The WAIT flags of a header read zero (02_encoding R28). -/
def Group.waitMet (x : Group) (h : Word) : Bool :=
  (List.range 12).all (fun k => !bit (hdrWait h) k || x.regs.getF k = 0)

end Sys2Proof.Machine
end

