-- ==== Sys2Proof/Machine/Operands.lean ====
section
/-!
DEFINITION. Operand forms (02_encoding R32 to R34, 04_lane R64, R65): operand codes, inline constants at every type, and
the registers that an encoding reads and writes.
-/
namespace Sys2Proof.Machine

/-- An operand code of R32, read. -/
inductive Opd where
  | v (n : Nat)
  | s (n : Nat)
  | inline (code : Nat)
  | lit
  | reserved
  deriving DecidableEq, Repr

/-- The operand that a code names (02_encoding R32). -/
def opdOf (code : Nat) : Opd :=
  if code < 0x80 then .v code
  else if code < 0xC0 then .s (code - 0x80)
  else if code < 0xC8 then .reserved
  else if code < 0xF0 then .inline code
  else if code = 0xF0 then .lit
  else .reserved

/-- The 32-bit pattern of an inline constant (02_encoding R33). -/
def inlineBits (code : Nat) : Word :=
  if code ≤ 0xD8 then BitVec.ofNat 32 (code - 0xC8)
  else if code ≤ 0xE0 then wrapWord (-((code - 0xD8 : Nat) : Int))
  else nth 0 [0x3F000000, 0xBF000000, 0x3F800000, 0xBF800000, 0x40000000, 0xC0000000, 0x40800000, 0xC0800000,
              0x3E800000, 0x3E22F983, 0x7F800000, 0x7FC00000, 0x80000000, 0x7FFFFFFF, 0xFFFF0000] (code - 0xE1)

/-- The integer that an integer constant stands for. -/
def inlineInt (code : Nat) : Int :=
  if code ≤ 0xD8 then ((code - 0xC8 : Nat) : Int) else -((code - 0xD8 : Nat) : Int)

/-- An inline constant as an operand of a type reads it (02_encoding R33). -/
def inlineAs (code : Nat) (t : Ty) : Word :=
  if t.width = 32 ∨ code ≥ 0xED then inlineBits code
  else
    let e : Nat :=
      if code ≤ 0xE0 then
        if t.isFloat then (roundTo t {} .rne (Val.ofInt (inlineInt code))).1 else wrap t.width (inlineInt code)
      else
        let x := decodeRaw .f32 (inlineBits code).toNat
        if t.isFloat then (roundTo t {} .rne x).1
        else
          let it : Ty := if t.width = 16 then (if t.isN then .n16 else .i16) else if t.isN then .n8 else .i8
          wrap t.width (roundToInt it .rne x).1
    put t (List.replicate t.count e)

/-- ReadOperand of 04_lane R64: the 32 bits that lane l sees. -/
def readOperand (r : Regs) (lit : Word) (code : Nat) (t : Ty) (l : Nat) : Word :=
  match opdOf code with
  | .v n => r.getV n l
  | .s n => r.getS n
  | .inline c => inlineAs c t
  | .lit => lit
  | .reserved => 0

/-- A 64-bit address operand (05_memory R90): a register names an even pair; other codes have zeros above. -/
def readPair (r : Regs) (lit : Word) (code l : Nat) : Nat :=
  match opdOf code with
  | .v n => (r.getV n l).toNat + 2 ^ 32 * (r.getV (n + 1) l).toNat
  | .s n => (r.getS n).toNat + 2 ^ 32 * (r.getS (n + 1)).toNat
  | _ => (readOperand r lit code .b32 l).toNat

/-- `n` registers from one. -/
def regRun (mk : Nat → Reg) (first n : Nat) : List Reg := (List.range n).map (fun i => mk (first + i))

/-- The registers that a field names as an operand. -/
def Fld.regs (f : Fld) (code n : Nat) : List Reg :=
  match f with
  | .opd | .sop | .target =>
    match opdOf code with
    | .v k => regRun .v k n
    | .s k => regRun .s k n
    | _ => []
  | .vec => regRun .v code n
  | .spair => regRun .s (code - 0x80) 2
  | .squad => regRun .s (code - 0x80) 4
  | .sblock => regRun .s (code - 0x80) 16
  | .fixed _ => []
  | .raw _ q => q.map .q

/-- The registers that an encoding names through D at a group width. -/
def Enc.dCount (e : Enc) (w : Nat) : Nat := if e.shape.dnext = w then e.shape.dn + 1 else e.shape.dn

/-- The registers that an instruction reads, its guard among them (02_encoding R28, 04_lane R65). -/
def Enc.reads (e : Enc) (w : Nat) : List Reg :=
  let s := e.shape
  let t := e.t
  let guard := if s.guard = .any ∧ t.guard ≠ 0 then [Reg.q (t.guard.toNat % 8)] else []
  let mma : Bool := e.major = 0x1D && e.minor = 0x040
  let an := if mma then 512 / w else if s.pair then 2 else s.an
  let d := match s.d with
    | .vsrc => regRun .v t.d.toNat (e.dCount w)
    | .ssrc => regRun .s t.d.toNat s.dn
    | _ => []
  let jz := if e.major = 0x1C ∧ (cfMinor t = 10 ∨ cfMinor t = 11) then [Reg.s (bits (cfPay t).toNat 18 13)] else []
  guard ++ s.a.regs t.a.toNat an ++ s.b.regs t.b.toNat s.bn ++ e.cRule.regs e.cField.toNat 1 ++ d ++ jz
    ++ s.rq.map .q

/-- The registers that an instruction writes. -/
def Enc.writes (e : Enc) (w : Nat) : List Reg :=
  let s := e.shape
  let t := e.t
  let d := match s.d with
    | .v => regRun .v t.d.toNat (e.dCount w)
    | .s => regRun .s e.dField.toNat s.dn
    | .q | .cond => [Reg.q (t.d.toNat % 8)]
    | .raw _ _ => if e.major = 0x1D ∧ (e.minor = 0x044 ∨ e.minor = 0x045) then [Reg.q (t.d.toNat % 8)] else []
    | _ => []
  d ++ (if s.bwrite then [Reg.v t.b.toNat] else [])

/-- The vector registers that an instruction names lie within an allocation, and the width's own rules hold (02_encoding
R32, R37; 10_group R205; an mma names 512 / W registers from A, 14_tile R265): the part of R37 that depends on the group.
The scale register of an mma is checked at its own meaning, where the map says whether it is read (14_tile R271). -/
def Enc.fits (e : Enc) (w alloc : Nat) : Bool :=
  let inside (r : Reg) : Bool := match r with
    | .v n => n < alloc
    | _ => true
  (e.reads w).all inside && (e.writes w).all inside
    && !(e.shape.dnext = 64 && w = 64 && e.t.d.toNat % 2 = 1)

end Sys2Proof.Machine
end

