-- ==== Sys2Proof/Machine/Ops.lean ====
section
/-!
DEFINITION. The shared operations of every instruction: the checks before a word takes effect (02_encoding R27, R28, R37;
10_group R194; 05_memory R106), how its effect ends, taking a trap (07_context R145 to R147) and returning from one
(R151).
-/
namespace Sys2Proof.Machine

/-- What an instruction's meaning works on: its group, the open clause, its encoding, Active, context and team. -/
structure Env where
  g : Nat
  x : Group
  cl : Clause
  e : Enc
  /-- the lanes of I whose guard is true (00_scope R8) -/
  act : Mask
  c : Nat
  team : Team
  deriving DecidableEq, Repr

/-- How an instruction's effect ends. -/
inductive Eff where
  /-- it has taken effect; issue goes on at the next word -/
  | done (s : State)
  /-- it has ended the clause issue itself -/
  | ended (s : State)
  /-- the group parks at the word -/
  | park (s : State) (p : Park)
  /-- it traps at its own word with no effect -/
  | trap (s : State) (t : Trap)
  deriving DecidableEq, Repr

/-- An operand of lane l. -/
def Env.read (v : Env) (code : BitVec 8) (t : Ty) (l : Nat) : Word := readOperand v.x.regs v.e.t.lit code.toNat t l

/-- A uniform operand: an s register, a constant or the literal. -/
def Env.uni (v : Env) (code : BitVec 8) : Word := v.read code .b32 0

/-- The lanes of Active, lowest first. -/
def Env.lanes (v : Env) : List Nat := lanesOf v.act

/-- The number of D. -/
def Env.d (v : Env) : Nat := v.e.dField.toNat

/-- QD of a predicate destination. -/
def Env.qd (v : Env) : Nat := v.e.t.d.toNat % 8

/-- The die of the group. -/
def Env.die (v : Env) : Nat := dieOfCore v.x.core

/-- The group's %fmode bits. -/
def Env.fm (v : Env) : FMode := v.x.fm

/-- A trap of the whole instruction: TMASK is Active (07_context R146). -/
def Env.whole (v : Env) (c : Cause) : Trap := { cause := c, tmask := v.act }

/-- The flag that the instruction counts: FS names SET0 or SET1, 15 none (02_encoding R28). -/
def Env.flag (v : Env) : Option Nat :=
  let short := v.e.major = 0x16 ∨ v.e.major = 0x17
  let fs := if short then v.e.t.b.getLsbD 7 else v.e.t.x.fs
  let k := if fs then hdrSet1 v.cl.hdr else hdrSet0 v.cl.hdr
  if !v.e.shape.flag || k ≥ 12 then none else some k

/-- The families that a clause class allows (02_encoding R26). -/
def classAllows (cls : Nat) (major : Nat) : Bool :=
  major = 0x1C || (match cls with
    | 0 => major ≤ 0x15 || major = 0x18 || major = 0x19
    | 1 => major = 0x1B
    | 2 => major = 0x16 || major = 0x17 || major = 0x1A
    | 3 => major = 0x1D || major = 0x1E || major = 0x1F
    | _ => true)

/-- The minors that R36 marks group: implicit meeting points (10_group R194). -/
def Enc.isGroup (e : Enc) : Bool :=
  let m := e.minor.toNat
  (e.major = 0x1D && 0x40 ≤ m && m ≤ 0x49) || (e.major = 0x1E && m ≤ 9) || (e.major = 0x1F && 0x40 ≤ m && m ≤ 0x45)

/-- An instruction that takes a pending MEMERR or LINK though it reads none of its registers: a fence, st.rel, ld.acq or
exit (05_memory R106), or a barrier arrival, which releases as a fence does (12_barrier R230, R234). A barrier wait, whose
completion acquires, takes none: R106 lists ld.acq, R110 and R125 any acquire (DESIGN CHOICE, log 92). -/
def Enc.takesLate (e : Enc) : Bool :=
  (e.major = 0x1A && (e.minor = 0x006 || e.minor = 0x007 || e.minor = 0x020)) || (e.major = 0x1C && cfMinor e.t = 7)
    || (e.major = 0x1F && (e.minor = 0x040 || e.minor = 0x041 || e.minor = 0x043 || e.minor = 0x044))

/-- A tile instruction, which uses the matrix engine (14_tile R262). -/
def Enc.isTile (e : Enc) : Bool :=
  let m := e.minor.toNat
  e.major = 0x1D && ((0x40 ≤ m && m ≤ 0x44) || (0x47 ≤ m && m ≤ 0x49))

/-- The handle that a transfer, handle or view instruction names (13_transfer R253, R256; 16_view R335). -/
def Enc.namesHandle (e : Enc) : Option Nat :=
  let c := e.t.x.c.toNat
  let m := e.minor.toNat
  let named : Bool := (e.major = 0x1D && m ≤ 8 && m ≠ 3) || (e.major = 0x1E && (m = 0 || m = 2 || m = 3 || m = 7 || m = 9))
  if named && c ≤ 0x3F then some c else none

/-- The lanes that the guard leaves (02_encoding R35). -/
def guardMask (r : Regs) (guard : Nat) : Mask :=
  if guard < 8 then r.getQ guard else ~~~(r.getQ (guard % 8))

/-- The lanes of a group at its open word set to stand there: PC at the word, clause base at the header. -/
def Group.stand (x : Group) (c : Clause) (st : LaneSt) : Group :=
  x.mapLanes c.lanes (fun _ (l : Lane) => if l.st = .exited then l else { l with pc := c.own, cb := c.base, st := st })

/-- The header fields of a trap frame in front of the lane records, 64 bytes (07_context R146). -/
def frameHead (t : Trap) (ipc npc cbase : Word) (imask : Mask) : List Byte :=
  List.replicate 23 0 ++ toBytes 1 t.cause.code ++ toBytes 4 t.info ++ toBytes 4 cbase.toNat ++ toBytes 4 npc.toNat
    ++ toBytes 4 ipc.toNat ++ toBytes 8 t.tmask.toNat ++ toBytes 8 imask.toNat ++ toBytes 8 t.addr

/-- The 1,024 bytes of a trap frame (07_context R146). -/
def frameBytes (x : Group) (t : Trap) (ipc npc cbase : Word) (imask : Mask) : List Byte :=
  let per (n : Nat) (f : Lane → Nat) : List Byte :=
    ((List.range 64).map (fun l => toBytes n (if l < x.w then f (x.lane l) else 0))).flatten
  frameHead t ipc npc cbase imask ++ per 4 (fun l => l.pc.toNat) ++ per 4 (fun l => l.mr.toNat)
    ++ per 1 (fun l => l.st.code) ++ per 4 (fun l => l.cb.toNat) ++ List.replicate 128 0

/-- Handler entry (07_context R147). -/
def Group.enterHandler (x : Group) (trappc : Word) (now : Nat) : Group :=
  let x := { x with lanes := x.lanes.map (fun (l : Lane) =>
    if l.st = LaneSt.exited then { l with bypass := 0 }
    else { l with pc := trappc, mr := clearWord, cb := clearWord, st := .ready, bypass := 0 }) }
  let x := x.modCtl (fun c => { c with tdepth := 1, wdog0 := now })
  x.modFlow (fun f => { f with round := 0, stepAside := 0, clause := none, park := none, abort := none })

/-- A team asked to give way: its groups stop at clause boundaries, and their leases end (07_context R152, R153 step 1; 14_tile
R262). -/
def State.askPreempt (s : State) (t : Nat) : State :=
  let s := s.modTeam t (fun y => { y with preempt := true })
  let mine (k : Core) : Bool := match k.holder with
    | some (.group g) => match s.group g with
      | some x => x.team = t
      | none => false
    | _ => false
  let s := { s with cores := s.cores.map (fun (k : Nat × Core) => if mine k.2 then (k.1, { k.2 with holder := none }) else k) }
  { s with groups := s.groups.map (fun (e : Nat × Group) =>
      if e.2.team = t ∧ e.2.on then (e.1, e.2.modFlow (fun f => { f with stop := true })) else e) }

/-- Draining of a context: every placed team is asked to give way (07_context R142). -/
def State.drain (s : State) (c : Nat) : State :=
  if (s.ctx c).st = .running then
    let s := s.modCtx c (fun x => { x with st := .draining })
    s.teams.foldl (fun s e => if e.2.ctx = c ∧ e.2.st ≠ .saved then s.askPreempt e.1 else s) s
  else s

/-- A fatal trap: the group stops, the context records the first one and drains (07_context R145). -/
def State.fatal (s : State) (g c : Nat) (how : Nat) (t : Trap) (frame : Nat) : State :=
  let s := s.modGroup g (fun x => x.modFlow (fun f => { f with clause := none, park := some .fatal, fatal := true }))
  let s := s.modCtx c (fun y =>
    if y.fatal then y
    else { y with fatal := true, how := how, cause := t.cause.code, frame := frame / 1024 })
  s.drain c

/-- TAKING A TRAP (07_context R145 to R147): the frame is written at %tfbase with one store of the group, then the handler
is entered, or the trap is fatal. Where the frame's page faults the group parks and tries again; a trap that is fatal only
because its frame cannot be written records HOW 2 (DESIGN CHOICE, log 11). A range lock over the frame's bytes raises no RLOCK: no
rule names an outcome (DESIGN CHOICE, log 86). -/
def State.takeTrap (s : State) (g : Nat) (t : Trap) (ipc npc cbase : Word) (imask : Mask) : State :=
  match s.group g with
  | none => s
  | some x =>
    match s.team x.team with
    | none => s
    | some tm =>
      let c := tm.ctx
      let d := (s.ctx c).d
      let s := s.modGroup g (fun x => x.modFlow (fun f => { f with clause := none, park := none, abort := none }))
      let va := x.ctl.tfbase % 2 ^ 52
      let how := if d.trappc = clearWord then 1 else 2
      match (s.walked (Party.isGroup g)).xlatD (.core x.core) c va false with
      | (s, .page r lv e pa) =>
        let (s, _) := s.parkFault g x.core c false true va r lv e pa
        s.modGroup g (fun x => x.modFlow (fun f => { f with park := some (.frame t ipc npc cbase imask) }))
      | (s, .stop _) => s.fatal g c how t va
      | (s, .ok l) =>
        let cells := (frameBytes x t ipc npc cbase imask).mapIdx (fun i b => (Loc.mem (l.pa va + i) (pteKey l.pte), b))
        let ent : SqEnt := { work := .store cells, flag := none, pc := ipc, lanes := 0, addr := va, far := false, via := [l] }
        let s := s.modGroup g (fun x => x.modIo (fun io => { io with sq := io.sq ++ [ent] }))
        if d.trappc = clearWord ∨ x.ctl.tdepth ≠ 0 then s.fatal g c how t va
        else s.modGroup g (fun x => x.enterHandler d.trappc s.sched.now)

/-- A trap at the word at which a clause issue stands: IPC is the word, NPC what follows (07_context R146). -/
def State.trapWord (s : State) (v : Env) (t : Trap) : State :=
  match s.group v.g with
  | none => s
  | some x =>
    let cl := x.flow.clause.getD v.cl
    let s := s.setGroup v.g (x.stand cl .ready)
    s.takeTrap v.g t cl.own (cl.npc v.e.terminal) cl.base cl.lanes

/-- The group parks at its word. -/
def State.parkAt (s : State) (g : Nat) (p : Park) : State :=
  s.modGroup g (fun x => x.modFlow (fun f => { f with park := some p }))

/-- Issue goes on at the next word, or at the next header past the last (02_encoding R24). -/
def Group.advance (x : Group) : Group :=
  match x.flow.clause with
  | none => x
  | some c =>
    let pos := c.pos + c.ilen
    if c.lanes = 0 then x.endIssue
    else if pos > hdrCount c.hdr then x.leave (fun _ => c.next)
    else x.modFlow (fun f => { f with park := none, clause := some { c with pos := pos } })

/-- The instruction at which a group is parked is over: issue goes on at the next word once the clause has its port again
(02_encoding R29, 10_group R199). -/
def Group.advanceParked (x : Group) : Group :=
  let y := x.advance
  if y.flow.clause.isSome then y.modFlow (fun f => { f with park := some .ready }) else y

/-- Issue of a group goes on at the next word. -/
def State.advance (s : State) (g : Nat) : State := s.modGroup g Group.advance

/-- The end of an instruction's effect. -/
def settle (v : Env) : Eff → Out
  | .done s => answer (s.advance v.g)
  | .ended s => answer s
  | .park s p => answer (s.parkAt v.g p)
  | .trap s t => answer (s.trapWord v t)

/-- What stands before an instruction's effect. -/
inductive Gate where
  /-- no group is in turn at an open clause -/
  | none
  /-- the word does not take effect now; this state follows -/
  | stop (s : State)
  /-- the word takes effect -/
  | go (v : Env) (s : State)
  deriving DecidableEq, Repr

/-- The lanes that stand at a group word are every non-exited lane: they join I; else those of I wait (10_group R194). -/
def Group.gather (x : Group) (c : Clause) : Option (Group × Clause) :=
  let here := x.maskWhere (fun l => l.st = .waiting && l.pc = c.own)
  let all := (c.lanes ||| here) &&& x.live
  if all = x.live then
    let c' := { c with lanes := all }
    some ((x.mapLanes here (fun _ l => { l with st := .ready, pc := c.base, cb := c.base })).modFlow
      (fun f => { f with clause := some c' }), c')
  else none

/-- The scale registers of an mma whose map carries scales, the C field naming them (14_tile R263, R267, R271). -/
def Group.scaleRegs (x : Group) (e : Enc) : List Reg :=
  if e.major = 0x1D ∧ e.minor = 0x040 then
    match Tab.get none x.io.maps (bits e.t.d.toNat 6 5) with
    | some m => if m.sc then regRun .v e.t.x.c.toNat (if x.w = 16 then 2 else 1) else []
    | none => []
  else []

/-- The registers that an instruction reads in a group. -/
def Group.readsOf (x : Group) (e : Enc) : List Reg := e.reads x.w ++ x.scaleRegs e

/-- The kill by which every lane of the group that has not exited exits: an exit of the group (10_group R201, R203). -/
def Enc.lastKill (e : Enc) (x : Group) (act : Mask) : Bool :=
  e.major = 0x1C && cfMinor e.t = 8 && x.live &&& ~~~act = 0

/-- The handle that an instruction names: in its encoding, in the base word of an omap with H, or in the map of an mma with H
(13_transfer R253, 14_tile R270, R271). -/
def Group.namesHandle (x : Group) (e : Enc) : Option Nat :=
  if e.major = 0x1D ∧ e.minor = 0x045 ∧ e.t.x.mod2.getLsbD 6 then
    some (bits (readOperand x.regs e.t.lit e.t.a.toNat .b32 0).toNat 31 26)
  else if e.major = 0x1D ∧ e.minor = 0x040 then
    match Tab.get none x.io.maps (bits e.t.d.toNat 6 5) with
    | some m => if m.h then some (bits m.base 31 26) else none
    | none => none
  else e.namesHandle

/-- The first pending error that an instruction takes (05_memory R106). -/
def Group.lateFor (x : Group) (e : Enc) (act : Mask) : Option Late :=
  x.io.late.find? (fun l => e.takesLate || e.lastKill x act || (x.readsOf e).any (fun r => l.regs.contains r)
    || (l.handle.isSome && l.handle = x.namesHandle e) || (l.tile && e.isTile)
    || (l.neval.isSome && (e.writes x.w).any (fun r => l.regs.contains r)))

/-- The neval that goes on at a word, its rows partly entered (15_net R289). -/
def Group.resuming (x : Group) (pc : Word) : Option NevalWait :=
  x.io.nevals.find? (fun n => n.pc = pc)

/-- The registers of a list that are pending (02_encoding R28). -/
def Group.pendingOf (x : Group) (rs : List Reg) : List Reg :=
  rs.filter (fun r => x.io.pend.any (fun p => p.regs.contains r))

/-- The registers that an instruction must wait for: not those of its own neval, which goes on. -/
def Group.blockedBy (x : Group) (pc : Word) (rs : List Reg) : List Reg :=
  match x.resuming pc with
  | none => x.pendingOf rs
  | some n => (x.modIo (fun io => { io with pend := io.pend.filter (fun p => p.id ≠ n.op) })).pendingOf rs

/-- Active of an encoding: the issued lanes whose guard is true; every format but SC has the guard field (00_scope R8,
02_encoding R30, R35). The reserved guard 0b1000 reads as the complement of q0, no lane (DESIGN CHOICE, log 61). -/
def activeOf (e : Enc) (x : Group) (c : Clause) : Mask :=
  if e.major = 0x1B then c.lanes else c.lanes &&& guardMask x.regs e.t.guard.toNat

/-- The open clause with the length of the instruction that issues. -/
def Clause.sized (c : Clause) (e : Enc) : Clause := { c with ilen := e.len }

/-- A group whose open clause holds the length of the instruction that issues. -/
def Group.sized (x : Group) (c : Clause) (e : Enc) : Group := x.modFlow (fun f => { f with clause := some (c.sized e) })

/-- What a word issues with: the group itself, or, at a group minor, the group with every lane that has not exited gathered
at the word (10_group R194). -/
def Enc.meets (e : Enc) (x : Group) (c : Clause) : Option (Group × Clause) :=
  if e.isGroup then x.gather c else some (x, c)

/-- The checks that follow the meeting: a pending error (R106), a pending register and a flag at 63 (R28). -/
def gateMet (v : Env) (s : State) : Gate :=
  match v.x.lateFor v.e v.act with
  | some l =>
    let s := s.modGroup v.g (fun x => x.modIo (fun io => { io with late := io.late.erase l }))
    .stop (s.trapWord v l.trap)
  | none =>
    match v.x.blockedBy v.cl.own (v.x.readsOf v.e ++ v.e.writes v.x.w) with
    | r :: rs => .stop (s.parkAt v.g (.reg (r :: rs)))
    | [] =>
      match v.flag with
      | some k => if v.x.regs.getF k ≥ 63 ∧ (v.x.resuming v.cl.own).isNone then .stop (s.parkAt v.g (.flag k)) else .go v s
      | none => .go v s

/-- The checks before an instruction's effect, in order: ILL (R37), meeting (R194), a pending error (R106), a pending
register (R28), a flag at 63 (R28). `ill` adds the minor's own rules that depend on the state. -/
def gate (i : Instr) (ill : Env → State → Bool) (s : State) : Gate :=
  match s.sched.turn with
  | none => .none
  | some g =>
    match s.group g, i.enc with
    | some x, some e =>
      match x.flow.clause, x.flow.park, s.team x.team with
      | some c, none, some tm =>
        let v : Env := ⟨g, x.sized c e, c.sized e, e, activeOf e (x.sized c e) (c.sized e), tm.ctx, tm⟩
        let s := s.setGroup g v.x
        if !i.wf || !classAllows (hdrClass c.hdr) e.major.toNat || !e.fits x.w x.alloc || ill v s then
          .stop (s.trapWord v (v.whole .ill))
        else
          match e.meets v.x v.cl with
          | none => .stop (s.setGroup g ((v.x.stand v.cl .waiting).endIssue))
          | some (x, c) => gateMet ⟨g, x, c, e, activeOf e x c, tm.ctx, tm⟩ (s.setGroup g x)
      | _, _, _ => .none
    | _, _ => .none

/-- One instruction issued by the group in turn: the checks, then its effect. -/
def runWord (i : Instr) (ill : Env → State → Bool) (f : Env → State → Eff) (s : State) : Out :=
  match gate i ill s with
  | .none => .refused .noGroup
  | .stop s => answer s
  | .go v s => settle v (f v s)

/-- No rule of legality beyond the encoding's. -/
def noIll (_ : Env) (_ : State) : Bool := false

/-- The group of an instruction changed, and issue goes on. -/
def Env.set (v : Env) (s : State) (x : Group) : Eff := .done (s.setGroup v.g x)

/-- A byte as the group itself sees it: its youngest queued store to it, else memory; none where its youngest queued
access to it is an atomic, or a store to another module, whose value is not yet known (05_memory R100; log 3). -/
def State.readOwn (s : State) (g : Nat) (l : Loc) : Option Byte :=
  let covers (a : AtomLane) : Bool := (List.range 4).any (fun i => (a.loc.add i).same l)
  let rec go : List SqEnt → Option Byte
    | [] => some (s.readLoc g l)
    | e :: rest =>
      match e.work with
      | .store cells =>
        match cells.reverse.find? (fun c => c.1.same l) with
        | some c => some c.2
        | none => go rest
      | .atomic _ _ ls _ => if ls.any covers then none else go rest
  match s.group g with
  | some x => go x.io.sq.reverse
  | none => some (s.readLoc g l)

/-- The bytes that a return from the handler restores (07_context R151): one lane's record of the frame. A state byte above 3
makes the lane exited, with none of the effects of Exit (DESIGN CHOICE, log 65). -/
def restoreLane (fr : List Byte) (next : Bool) (l : Nat) (y : Lane) : Lane :=
  let word (off : Nat) : Word := BitVec.ofNat 32 (ofBytes ((fr.drop off).take 4))
  let imask : Mask := BitVec.ofNat 64 (ofBytes ((fr.drop 48).take 8))
  let pc := word (0x40 + 4 * l) &&& 0xFFFFFFFC
  let st := LaneSt.ofCode (ofBytes ((fr.drop (0x240 + l)).take 1))
  let pc := if next && imask.has l && pc = word 36 then word 32 else pc
  { y with pc := pc, mr := word (0x140 + 4 * l), st := st, cb := word (0x280 + 4 * l), bypass := 0 }

/-- The word at a code address, read without a fetch's effects: none where it has no translation. -/
def State.peekWord (s : State) (p : Site) (c : Nat) (pc : Word) : Option Word :=
  let va := (s.ctx c).d.codebase * 2 ^ 32 + pc.toNat
  let leaf := match s.cached p c va with
    | some l => some l
    | none => match s.walk p.on c va with
      | .leaf l => some l
      | .fault _ _ _ _ | .link => none
  leaf.map (fun l => BitVec.ofNat 32 (ofBytes (s.readPaN (l.pa va) (pteKey l.pte) 4)))

/-- A restored PC lies inside the clause of its clause base (07_context R151). A header that cannot be read counts as the longest,
and the fetch meets its page (DEDUCED, log 96). -/
def State.insideClause (s : State) (p : Site) (c : Nat) (pc cb : Word) : Bool :=
  if cb = clearWord then false
  else
    match s.peekWord p c cb with
    | some h => cb.toNat + 4 ≤ pc.toNat && pc.toNat ≤ cb.toNat + 4 * hdrCount h
    | none => cb.toNat + 4 ≤ pc.toNat && pc.toNat ≤ cb.toNat + 60

/-- RETURNING FROM THE HANDLER (07_context R151): lanes that have not exited take PC, MR, state and clause base from the
frame, or exit where it says so; %tdepth is 0. The clause issue of tret ends as R197 says. -/
def State.returnTrap (s : State) (g : Nat) (fr : List Byte) (next : Bool) : State :=
  match s.group g with
  | none => s
  | some x =>
    let issued : Mask := match x.flow.clause with
      | some c => c.lanes
      | none => 0
    let aside : Mask := match x.flow.clause with
      | some c => c.leaves
      | none => 0
    let stOf (l : Nat) : Nat := ofBytes ((fr.drop (0x240 + l)).take 1)
    let gone := maskOf (fun l => decide (l < x.w) && (x.live).has l && stOf l = 3)
    let c := match s.team x.team with
      | some t => t.ctx
      | none => 0
    let lane (l : Nat) (y : Lane) : Lane :=
      let y := restoreLane fr next l y
      if s.insideClause (.core x.core) c y.pc y.cb then y else { y with cb := clearWord }
    let s := s.modGroup g (fun x =>
      (x.mapLanes (x.live &&& ~~~gone) lane).modCtl (fun c => { c with tdepth := 0 }))
    let s := s.modGroup g (fun x => x.modFlow (fun f => { f with
      clause := none, park := none, stepAside := aside, round := f.round &&& ~~~(issued &&& x.maskWhere (fun l => l.st ≠ .ready)) }))
    s.exitLanes g gone

end Sys2Proof.Machine
end

