-- ==== Sys2Proof/Machine/Flags.lean ====
section
/-!
DEFINITION. The sticky flags (03_numbers R53): an instruction raises every bit that any lane of Active raises; and the
element-wise application of an operation to 32-bit values (03_numbers R52, 04_lane R64).
-/
namespace Sys2Proof.Machine

/-- A per-lane result: the value and the %fstat bits raised. -/
abbrev Res := Word × Flags

/-- One operation on each element of two values (03_numbers R52). -/
def each2 (t : Ty) (f : Nat → Nat → Nat × Flags) (a b : Word) : Res :=
  let rs := (els t a).zipWith f (els t b)
  (put t (rs.map (·.1)), rs.foldl (fun acc r => acc ||| r.2) 0)

/-- One operation on each element of one value. -/
def each1 (t : Ty) (f : Nat → Nat × Flags) (a : Word) : Res :=
  let rs := (els t a).map f
  (put t (rs.map (·.1)), rs.foldl (fun acc r => acc ||| r.2) 0)

/-- One operation on each element of three values. -/
def each3 (t : Ty) (f : Nat → Nat → Nat → Nat × Flags) (a b c : Word) : Res :=
  let rs := ((els t a).zip (els t b)).zipWith (fun p z => f p.1 p.2 z) (els t c)
  (put t (rs.map (·.1)), rs.foldl (fun acc r => acc ||| r.2) 0)

/-- The flags of a list of lane results. -/
def flagsOf (rs : List (Nat × Res)) : Flags := rs.foldl (fun acc r => acc ||| r.2.2) 0

/-- Lane results written to v[d] in their lanes, and their flags raised in %fstat (00_scope R8, 03_numbers R53). -/
def Group.writeLanes (x : Group) (d : Nat) (rs : List (Nat × Res)) : Group :=
  (x.modRegs (fun r => rs.foldl (fun r p => r.setV d p.1 p.2.1) r)).raise (flagsOf rs)

/-- A vector operation: each lane of Active computes its result from the registers as they stand, and all are written
after all are read (04_lane R64). -/
def vector (f : Env → Nat → Res) (v : Env) (s : State) : Eff :=
  v.set s (v.x.writeLanes v.d (v.lanes.map (fun l => (l, f v l))))

/-- A scalar operation (04_lane R87). -/
def scalar (f : Env → Res) (v : Env) (s : State) : Eff :=
  let r := f v
  v.set s ((v.x.modRegs (fun g => g.setS v.d r.1)).raise r.2)

/-- A predicate operation: the bit of each lane of Active (04_lane R80). -/
def predicate (f : Env → Nat → Bool) (v : Env) (s : State) : Eff :=
  v.set s (v.x.modRegs (fun r => r.setQ v.qd v.act (maskOf (fun l => v.act.has l && f v l))))

end Sys2Proof.Machine
end

