-- ==== Sys2Proof/Machine/Sfu.lean ====
section
/-!
DEFINITION. The special-function operations of 04_lane R79: each is the exact function value rounded once by RoundTo.
rcp, rsq and sqrt are formed exactly. The six transcendental functions are evaluated in 700-bit fixed point with an error
bound; where both ends of the bound round alike, that is the correctly rounded result, else the result is a free value
(log 9).
-/
namespace Sys2Proof.Machine

/-- Integer square root, bit by bit from bit n down. -/
def isqrtFrom : Nat → Nat → Nat → Nat
  | 0, x, r => if (r + 1) * (r + 1) ≤ x then r + 1 else r
  | n + 1, x, r =>
    let r' := r + 2 ^ (n + 1)
    isqrtFrom n x (if r' * r' ≤ x then r' else r)

/-- The largest r with r^2 at most x. -/
def isqrt (x : Nat) : Nat := isqrtFrom (Nat.log2 x / 2 + 1) x 0

/-- A value strictly between q x 2^e and (q + 1) x 2^e where it is inexact, else q x 2^e: it rounds as the true one. -/
def sticky (neg exact : Bool) (q : Nat) (e : Int) : Val :=
  if exact then .fin neg q e else .fin neg (2 * q + 1) (e - 1)

/-- 1 / x of a finite nonzero value. -/
def rcpVal (neg : Bool) (m : Nat) (e : Int) : Val :=
  let n := Nat.log2 m + 64
  sticky neg (2 ^ n % m = 0) (2 ^ n / m) (-e - n)

/-- The square root of a finite positive value. -/
def sqrtVal (m : Nat) (e : Int) : Val :=
  let (m', e') := if e % 2 = 0 then (m, e) else (2 * m, e - 1)
  let y := m' <<< 128
  let r := isqrt y
  sticky false (r * r = y) r ((e' - 128) / 2)

/-- 1 / sqrt x of a finite positive value. -/
def rsqVal (m : Nat) (e : Int) : Val :=
  let (m', e') := if e % 2 = 0 then (m, e) else (2 * m, e - 1)
  let n := 2 * (Nat.log2 m' + 64)
  let r := isqrt (2 ^ n / m')
  sticky false (r * r * m' = 2 ^ n) r ((-e' - n) / 2)

/-- The working precision of the fixed-point evaluation. -/
def sfuBits : Nat := 700

/-- One in the working fixed point. -/
def fxOne : Int := ((2 ^ sfuBits : Nat) : Int)

/-- Product of two fixed-point numbers. -/
def fxMul (a b : Int) : Int := a * b / fxOne

/-- Quotient of two fixed-point numbers. -/
def fxDiv (a b : Int) : Int := a * fxOne / b

/-- The sum of n terms t, t x step(k), ... of a series. -/
def fxSeries (step : Nat → Int → Int) : Nat → Nat → Int → Int
  | 0, _, _ => 0
  | n + 1, k, t => t + fxSeries step n (k + 1) (step k t)

/-- e^y for |y| at most 1. -/
def fxExp (y : Int) : Int := fxSeries (fun k t => fxMul t y / ((k : Int) + 1)) 150 0 fxOne

/-- The sum of y^(2k+1) / (2k+1): the inverse hyperbolic tangent of y, |y| at most 1/3. -/
def fxAtanh (y : Int) : Int :=
  let y2 := fxMul y y
  let rec go : Nat → Nat → Int → Int
    | 0, _, _ => 0
    | n + 1, k, p => p / (2 * (k : Int) + 1) + go n (k + 1) (fxMul p y2)
  go 230 0 y

/-- ln 2. -/
def fxLn2 : Int := 2 * fxAtanh (fxOne / 3)

/-- The inverse tangent of 1 / d. -/
def fxAtanInv (d : Int) : Int :=
  let rec go : Nat → Nat → Int → Int
    | 0, _, _ => 0
    | n + 1, k, p => (if k % 2 = 0 then 1 else -1) * (p / (2 * (k : Int) + 1)) + go n (k + 1) (p / (d * d))
  go 160 0 (fxOne / d)

/-- Pi, by Machin's formula. -/
def fxPi : Int := 16 * fxAtanInv 5 - 4 * fxAtanInv 239

/-- m x 2^e in the working fixed point, rounded down. -/
def fxOf (neg : Bool) (m : Nat) (e : Int) : Int :=
  let s := e + sfuBits
  let v : Nat := if s ≥ 0 then m <<< s.toNat else m >>> (-s).toNat
  if neg then -(v : Int) else (v : Int)

/-- e^(-y) for a fixed-point y from 0 to 256, by halving the exponent range with ln 2. -/
def fxExpNeg (y : Int) : Int :=
  let n := y / fxLn2
  fxExp (-(y - n * fxLn2)) / ((2 ^ n.toNat : Nat) : Int)

/-- cos y for |y| at most 2. -/
def fxCos (y : Int) : Int :=
  let y2 := fxMul y y
  fxSeries (fun k t => -(fxMul t y2 / ((2 * (k : Int) + 1) * (2 * k + 2)))) 90 0 fxOne

/-- sin y for |y| at most 2. -/
def fxSin (y : Int) : Int :=
  let y2 := fxMul y y
  fxSeries (fun k t => -(fxMul t y2 / ((2 * (k : Int) + 2) * (2 * k + 3)))) 90 0 y

/-- A fixed-point number with its error bound of 2^-600 either side: the two ends as exact values times 2^k. -/
def fxEnds (v : Int) (k : Int) : Val × Val :=
  let d : Int := ((2 ^ 100 : Nat) : Int)
  let mk (w : Int) : Val := .fin (w < 0) w.natAbs (k - sfuBits)
  (mk (v - d), mk (v + d))

/-- What a transcendental function's value is known to be. -/
inductive Fn where
  /-- the value exactly (or a stand-in between the same two neighbours) -/
  | known (v : Val)
  /-- strictly between two values -/
  | between (lo hi : Val)
  deriving DecidableEq, Repr

/-- Both ends of a fixed-point result. -/
def Fn.ofFx (v : Int) (k : Int := 0) : Fn := .between (fxEnds v k).1 (fxEnds v k).2

/-- 2^x of a finite x (04_lane R79). -/
def exp2Fn (neg : Bool) (m : Nat) (e : Int) : Fn :=
  if isIntegral m e then
    let i := roundInt .rz neg m e
    .known (.fin false 1 (max (-5000) (min 5000 i)))
  else if (Nat.log2 m : Int) + e ≥ 12 then .known (.fin false 3 (if neg then -5000 else 5000))
  else
    let x := fxOf neg m e
    let n := x / fxOne
    .ofFx (fxExp (fxMul (x - n * fxOne) fxLn2)) n

/-- log2 x of a finite positive x (04_lane R79). -/
def log2Fn (m : Nat) (e : Int) : Fn :=
  let l := Nat.log2 m
  let k : Int := (l : Int) + e
  if m = 2 ^ l then .known (Val.ofInt k)
  else
    let x := fxOf false m (-(l : Int))
    let r := 2 * fxAtanh (fxDiv (x - fxOne) (x + fxOne))
    .ofFx (k * fxOne + fxDiv r fxLn2)

/-- x mod 2 of a non-negative finite x with fewer than 700 fraction bits, as a fixed-point number. -/
def fxMod2 (m : Nat) (e : Int) : Int :=
  if e ≥ 1 then 0
  else
    let s := (-e).toNat
    fxOf false (m % 2 ^ (s + 1)) e

/-- sin(pi x) for a fixed-point x in [0, 2), reduced to the first quarter. -/
def fxSinPi (x : Int) : Int :=
  let half := fxOne / 2
  let go (y : Int) : Int := if y ≤ half then fxSin (fxMul y fxPi) else fxSin (fxMul (fxOne - y) fxPi)
  if x < fxOne then go x else -(go (x - fxOne))

/-- sin(pi x) of a finite nonzero x (04_lane R79). -/
def sinpiFn (neg : Bool) (m : Nat) (e : Int) : Fn :=
  if isIntegral m e then .known (.zero neg)
  else if isIntegral (2 * m) e then
    let odd := roundInt .rz false (2 * m) e % 4 = 1
    .known (.fin (neg == odd) 1 0)
  else
    let v := fxSinPi (fxMod2 m e)
    .ofFx (if neg then -v else v)

/-- cos(pi x) of a finite x (04_lane R79). -/
def cospiFn (m : Nat) (e : Int) : Fn :=
  if isIntegral m e then .known (.fin (roundInt .rz false m e % 2 = 1) 1 0)
  else if isIntegral (2 * m) e then .known (.zero false)
  else
    let x := fxMod2 m e
    let y := if x < fxOne then x else 2 * fxOne - x
    .ofFx (fxSinPi (if fxOne / 2 - y ≥ 0 then fxOne / 2 - y else 2 * fxOne + (fxOne / 2 - y)))

/-- tanh x of a finite nonzero x (04_lane R79). -/
def tanhFn (neg : Bool) (m : Nat) (e : Int) : Fn :=
  if (Nat.log2 m : Int) + e ≥ 6 then .known (.fin neg (2 ^ 60 - 1) (-60))
  else
    let x := fxOf false m e
    let z := fxExpNeg (2 * x)
    let t := fxDiv (fxOne - z) (fxOne + z)
    .ofFx (if neg then -t else t)

/-- 1 / (1 + e^-x) of a finite x (04_lane R79). -/
def sigmFn (neg : Bool) (m : Nat) (e : Int) : Fn :=
  if m = 0 then .known (.fin false 1 (-1))
  else if (Nat.log2 m : Int) + e ≥ 8 then .known (if neg then .fin false 1 (-300) else .fin false (2 ^ 60 - 1) (-60))
  else
    let x := fxOf false m e
    let z := fxExpNeg x
    .ofFx (if neg then fxDiv z (fxOne + z) else fxDiv fxOne (fxOne + z))

/-- RoundTo of a function's value: where the two ends of its bound round alike they decide, else the result is free. -/
def roundFn (t : Ty) (fm : FMode) (rnd : Rnd) (free : Nat) : Fn → Nat × Flags
  | .known v => roundTo t fm rnd v
  | .between lo hi =>
    let a := roundTo t fm rnd lo
    let b := roundTo t fm rnd hi
    if a = b then a else (free % 2 ^ t.width, a.2)

/-- The nine special functions (02_encoding R36, VX operations 0x28 to 0x30). -/
inductive SfuOp where
  | rcp | rsq | sqrt | exp2 | log2 | sinpi | cospi | tanh | sigm
  deriving DecidableEq, Repr

/-- The number of a special function, by which its free values are told apart. -/
def SfuOp.num : SfuOp → Nat
  | .rcp => 0 | .rsq => 1 | .sqrt => 2 | .exp2 => 3 | .log2 => 4
  | .sinpi => 5 | .cospi => 6 | .tanh => 7 | .sigm => 8

/-- A special function of an encoding: the encoding of the result and its flags (04_lane R79). -/
def sfu (op : SfuOp) (t : Ty) (fm : FMode) (rnd : Rnd) (a : Nat) : Nat × Flags :=
  let (x, f0) := decode t fm a
  let out (r : Nat × Flags) : Nat × Flags := (r.1, f0 ||| r.2)
  let val (v : Val) (f : Flags) : Nat × Flags :=
    let r := roundTo t fm rnd v
    (r.1, f0 ||| f ||| r.2)
  let fn (v : Fn) : Nat × Flags := out (roundFn t fm rnd (Config.sfuFree (16 * op.num + rnd.num) a) v)
  match op, x with
  | _, .nan => (t.canonNan, f0)
  | .rcp, .inf n => val (.zero n) 0
  | .rcp, .fin n m e => if m = 0 then val (.inf n) .dz else val (rcpVal n m e) 0
  | .rsq, .inf n => if n then val .nan .nv else val (.zero false) 0
  | .rsq, .fin n m e => if m = 0 then val (.inf n) .dz else if n then val .nan .nv else val (rsqVal m e) 0
  | .sqrt, .inf n => if n then val .nan .nv else val (.inf false) 0
  | .sqrt, .fin n m e => if m = 0 then val (.zero n) 0 else if n then val .nan .nv else val (sqrtVal m e) 0
  | .exp2, .inf n => val (if n then .zero false else .inf false) 0
  | .exp2, .fin n m e => fn (exp2Fn n m e)
  | .log2, .inf n => if n then val .nan .nv else val (.inf false) 0
  | .log2, .fin n m e => if m = 0 then val (.inf true) .dz else if n then val .nan .nv else fn (log2Fn m e)
  | .sinpi, .inf _ => val .nan .nv
  | .sinpi, .fin n m e => if m = 0 then val (.zero n) 0 else fn (sinpiFn n m e)
  | .cospi, .inf _ => val .nan .nv
  | .cospi, .fin _ m e => fn (cospiFn m e)
  | .tanh, .inf n => val (.fin n 1 0) 0
  | .tanh, .fin n m e => if m = 0 then val (.zero n) 0 else fn (tanhFn n m e)
  | .sigm, .inf n => val (if n then .zero false else .fin false 1 0) 0
  | .sigm, .fin n m e => fn (sigmFn n m e)

end Sys2Proof.Machine
end

