-- ==== Sys2Proof/Machine/Alu.lean ====
section
/-!
DEFINITION. Lane arithmetic on one 32-bit value or element (04_lane R68 to R86): the functions that the VA, VC, VX and SC
instructions share.
-/
namespace Sys2Proof.Machine

/-- The integer that an element of an integer type stands for. -/
def Ty.int (t : Ty) (x : Nat) : Int := if t.isI then signed t.width x else ((x % 2 ^ t.width : Nat) : Int)

/-- A wrapped integer result with no flag. -/
def wrapped (t : Ty) (i : Int) : Nat × Flags := (wrap t.width i, 0)

/-- add, sub and mul on integers wrap; on floats they round (R68, R74). -/
def elAdd (t : Ty) (fm : FMode) (r : Rnd) (a b : Nat) : Nat × Flags :=
  if t.isFloat then fAdd t fm r a b else wrapped t ((a : Int) + b)
def elSub (t : Ty) (fm : FMode) (r : Rnd) (a b : Nat) : Nat × Flags :=
  if t.isFloat then fSub t fm r a b else wrapped t ((a : Int) - b)
def elMul (t : Ty) (fm : FMode) (r : Rnd) (a b : Nat) : Nat × Flags :=
  if t.isFloat then fMul t fm r a b else wrapped t ((a : Int) * b)

/-- The bitwise operations (R68). -/
def elAnd (a b : Nat) : Nat × Flags := (a &&& b, 0)
def elOr (a b : Nat) : Nat × Flags := (a ||| b, 0)
def elXor (a b : Nat) : Nat × Flags := (a ^^^ b, 0)
def elAndn (a b : Nat) : Nat × Flags := (a - (a &&& b), 0)

/-- min and max (R68, R75). -/
def elMin (t : Ty) (fm : FMode) (a b : Nat) : Nat × Flags :=
  if t.isFloat then (fMin t fm a b, 0) else (if t.int b < t.int a then b else a, 0)
def elMax (t : Ty) (fm : FMode) (a b : Nat) : Nat × Flags :=
  if t.isFloat then (fMax t fm a b, 0) else (if t.int a < t.int b then b else a, 0)

/-- Shifts by b mod w (R69). -/
def elShl (t : Ty) (a b : Nat) : Nat × Flags := ((a <<< (b % t.width)) % 2 ^ t.width, 0)
def elShr (t : Ty) (a b : Nat) : Nat × Flags := wrapped t (t.int a / ((2 ^ (b % t.width) : Nat) : Int))

/-- Saturating add and subtract (R68). -/
def elAdds (t : Ty) (a b : Nat) : Nat × Flags :=
  let r := clampInt t (t.int a + t.int b)
  (wrap t.width r.1, r.2)
def elSubs (t : Ty) (a b : Nat) : Nat × Flags :=
  let r := clampInt t (t.int a - t.int b)
  (wrap t.width r.1, r.2)

/-- mulhi: bits [63:32] of the exact product (R68). -/
def elMulhi (t : Ty) (a b : Nat) : Nat × Flags := wrapped t (t.int a * t.int b / ((2 ^ 32 : Nat) : Int))

/-- mad (R68). -/
def elMad (t : Ty) (a b c : Nat) : Nat × Flags := wrapped t ((a : Int) * b + c)

/-- abs and neg: on floats the sign bit alone (R68, R76). -/
def elAbs (t : Ty) (a : Nat) : Nat × Flags :=
  if t.isFloat then (a % 2 ^ (t.width - 1), 0) else wrapped t ((t.int a).natAbs : Int)
def elNeg (t : Ty) (a : Nat) : Nat × Flags :=
  if t.isFloat then (a ^^^ 2 ^ (t.width - 1), 0) else wrapped t (-(a : Int))

/-- lea.n32 (R70). -/
def leaWord (sh : Nat) (a b : Word) : Word := a + (b <<< sh)

/-- Offset and effective length of a field control word (R71). -/
def fieldOf (ctl : Word) : Nat × Nat :=
  let p := ctl.toNat % 32
  (p, min (bits ctl.toNat 13 8) (32 - p))

/-- bfe (R71). -/
def bfeWord (sgn : Bool) (a ctl : Word) : Word :=
  let (p, m) := fieldOf ctl
  if m = 0 then 0
  else
    let f := (a.toNat >>> p) % 2 ^ m
    if sgn && bit f (m - 1) then wrapWord ((f : Int) - ((2 ^ m : Nat) : Int)) else BitVec.ofNat 32 f

/-- bfi with base (R71). -/
def bfiWord (a ctl base : Word) : Word :=
  let (p, m) := fieldOf ctl
  let mask : Word := BitVec.ofNat 32 ((2 ^ m - 1) <<< p)
  (base &&& ~~~mask) ||| ((a <<< p) &&& mask)

/-- fshl and fshr of the pair a, b (R72). -/
def fshlWord (a b c : Word) : Word := (((a ++ b : DWord) <<< (c.toNat % 32)).extractLsb' 32 32)
def fshrWord (a b c : Word) : Word := (((a ++ b : DWord) >>> (c.toNat % 32)).extractLsb' 0 32)

/-- popc, clz and brev (R73). -/
def popcWord (a : Word) : Word := BitVec.ofNat 32 (popCount 32 a.toNat)
def clzWord (a : Word) : Word := if a = 0 then 32 else BitVec.ofNat 32 (31 - Nat.log2 a.toNat)
def brevWord (a : Word) : Word := a.reverse

/-- clamp: min of max, so C when B exceeds it (R75). -/
def elClamp (t : Ty) (fm : FMode) (a b c : Nat) : Nat × Flags := elMin t fm (elMax t fm a b).1 c

/-- A source element of a conversion as a value: float elements decoded under the flush modes, integers exactly; the
binary32 source also as read, before FTZ32 (R84, 03_numbers R56, R60). -/
def cvtSource (t : Ty) (fm : FMode) (x : Nat) : Val × Flags :=
  if t.isFloat then decode t fm x else (Val.ofInt (t.int x), 0)

/-- A conversion of one element: the bits of the target, sign- or zero-extended to 32 (R84). -/
def convert (f t : Ty) (fm : FMode) (r : Rnd) (x : Nat) : Res :=
  let (v, f1) := cvtSource f fm x
  if t.isFloat then
    let (e, f2) := roundTo t fm r v
    -- a widening that FTZ32 flushes raises UF alone (03_numbers R63; log 20)
    (BitVec.ofNat 32 e, f1 ||| (if f.isFloat && t = .f32 then f2 &&& ~~~Flags.nx else f2))
  else if f.isFloat then
    let (i, f2) := roundToInt t r v
    (wrapWord i, f1 ||| f2)
  else
    let (i, f2) := clampInt t (f.int x)
    (wrapWord i, f1 ||| f2)

/-- The amax update of a register by a binary32 source (03_numbers R60). -/
def amaxOf (old : Word) (x : Nat) : Word :=
  let m := if (decodeRaw .f32 x).isNan then 0x7FC00000 else BitVec.ofNat 32 (x % 2 ^ 31)
  if old.ult m then m else old

/-- One lane's amax update of register k of a core. -/
def Core.amax (c : Core) (k x : Nat) : Core := { c with am := Tab.set 0 c.am k (amaxOf (Tab.get 0 c.am k) x) }

/-- pack of two converted elements (R85). -/
def packWord (t : Ty) (h : Nat) (base : Word) (a b : Nat) : Word :=
  if t.width = 16 then put t [a, b]
  else put t (setAt (setAt (els t base) (2 * h) a) (2 * h + 1) b)

/-- unpack of an element, widened to 32 bits (R86). -/
def unpackWord (t : Ty) (fm : FMode) (x : Nat) : Res :=
  if t.isFloat then convert t .f32 fm .rne x else (wrapWord (t.int x), 0)

/-- fclass of a value: .b32 masks in 32- or 16-bit places (R78). -/
def classWord (t : Ty) (a : Word) : Word := put t ((els t a).map (fClass t))

/-- One comparison of the VX form: the type selects signed, unsigned or float (R80). -/
def vxCond (t : Ty) (fm : FMode) (cond e : Nat) (a b : Word) : Bool :=
  if t.isFloat then fCond t fm cond (el t a e) (el t b e)
  else
    let x := t.int a.toNat
    let y := t.int b.toNat
    match cond with
    | 0 => a == b
    | 1 => a != b
    | 2 => x < y
    | 3 => x ≤ y
    | 4 => y < x
    | _ => y ≤ x

end Sys2Proof.Machine
end

