-- ==== Sys2Proof/Machine/Stitch.lean ====
section
/-!
DEFINITION. The stitch table (11_register R214 to R220): the key of an instruction, an entry's value, and the lookup. A hit
leaves every register and flag as execution would, so the model executes the instruction and compares (log 13); a neval hit
takes the entry's value (15_net R303).
-/
namespace Sys2Proof.Machine

/-- The W lane values of a vector register. -/
def Group.laneWords (x : Group) (n : Nat) : List Nat := (List.range x.w).map (fun l => (x.regs.getV n l).toNat)

/-- The type at which an instruction reads an inline constant in one of its fields 0 to 2, A to C (02_encoding R33): that of a VX
operation that works on its elements; of cvt's source, in C; of the base of an 8-bit pack; else 32 bits. -/
def Enc.fieldTy (e : Enc) (k : Nat) : Ty :=
  let op := e.minor.toNat / 16
  let t := Ty.ofCode (e.minor.toNat % 16)
  if e.major ≠ 0x18 || op = 0x0B || op = 0x38 then .b32
  else if op = 0x40 then Ty.ofCode (bits e.t.x.c.toNat 7 4)
  else if op = 0x41 && k < 2 then .b32
  else t

/-- The bits of a raw B that a key holds: not FS, which names a flag (R214). -/
def Enc.keyB (e : Enc) : Nat := if e.major = 0x16 || e.major = 0x17 then e.t.b.toNat % 128 else e.t.b.toNat

/-- The content of one operand field as a key holds it: the contents of the registers it names, a v register's by its W lanes,
or the 32-bit value of a constant, as the type of the operand reads it (R214). -/
def Env.keyField (v : Env) (f : Fld) (ty : Ty) (code n : Nat) : List Nat :=
  match f with
  | .opd | .sop | .vec =>
    match opdOf code with
    | .v k => 1 :: ((List.range n).map (fun i => v.x.laneWords (k + i))).flatten
    | .s k => 2 :: (List.range n).map (fun i => (v.x.regs.getS (k + i)).toNat)
    | _ => [2, (readOperand v.x.regs v.e.t.lit code ty 0).toNat]
  | .raw _ qs => 3 :: code :: qs.map (fun k => (v.x.regs.getQ k).toNat)
  | _ => [4, code]

/-- The registers that A names in a key: a pair for a 64-bit address. -/
def Enc.keyA (e : Enc) : Nat := if e.shape.pair then 2 else e.shape.an

/-- The vector registers that D names as destinations. -/
def Env.vDests (v : Env) : List Nat :=
  match v.e.shape.d with
  | .v => (List.range (v.e.dCount v.x.w)).map (fun i => v.e.t.d.toNat + i)
  | _ => []

/-- The prior contents of the destinations are part of the key: not every lane executes, or the instruction is lpoke (R214). -/
def Env.keepsPrior (v : Env) : Bool := v.act ≠ laneMask v.x.w || (v.e.major = 0x19 && v.e.minor = 6)

/-- The vector registers that a key names: sources, and destinations whose prior content counts. -/
def Env.keyRegs (v : Env) : List Nat :=
  let src := (v.e.shape.a.regs v.e.t.a.toNat v.e.keyA ++ v.e.shape.b.regs v.e.t.b.toNat 1
    ++ v.e.cRule.regs v.e.cField.toNat 1).filterMap (fun r => match r with
      | .v n => some n
      | _ => none)
  src ++ (if v.keepsPrior then v.vDests else [])

/-- The key of an instruction (R214). The minor of a one-word SC stands in word 0. -/
def Env.key (v : Env) (gen : Nat) (unit : List Nat) : List (List Nat) :=
  let s := v.e.shape
  let t := v.e.t
  let sc : Bool := v.e.major = 0x1B
  [[v.e.major.toNat, v.e.minor.toNat, if sc then scMinor t else 0, t.x.mod1.toNat, t.x.mod2.toNat,
     if s.d = .cond then t.d.toNat / 8 else 0],
   v.keyField s.a (v.e.fieldTy 0) t.a.toNat v.e.keyA, v.keyField s.b (v.e.fieldTy 1) v.e.keyB 1,
   v.keyField s.c (v.e.fieldTy 2) t.x.c.toNat 1,
   s.rq.map (fun k => (v.x.regs.getQ k).toNat), if v.keepsPrior then (v.vDests.map v.x.laneWords).flatten else [],
   [if sc then 0 else v.act.toNat, v.x.w, v.x.ctl.fmode, gen], unit]

/-- The instruction may use the table: REUSE and NR allow it, and every cell that its key names is indexed (R210, R218). -/
def Env.mayReuse (v : Env) (s : State) : Bool :=
  let p := s.pool v.x.core
  v.team.kern.reuse && !v.e.t.x.nr && v.keyRegs.all (fun n => p.indexed v.x.w (Tab.get 0 p.names (128 * v.g + n)))

/-- The result that a group holds after an instruction: each v destination's lanes, the Active bits of a q destination, or an s
destination's value (R215). -/
def Env.value (v : Env) (x : Group) : List (List Nat) :=
  match v.e.shape.d with
  | .v => v.vDests.map x.laneWords
  | .s => [[(x.regs.getS v.d).toNat]]
  | .q | .cond => [[(x.regs.getQ v.qd &&& v.act).toNat]]
  | _ => []

/-- The table with an entry in front, in place of one of its key; the least recently used past 1,024 goes (R215). -/
def Pool.enter (p : Pool) (e : Stitch) : Pool := { p with stitch := (e :: p.stitch.filter (fun q => q.key ≠ e.key)).take 1024 }

/-- The entry that a key hits, where execution gives its value and flags (R215). -/
def Pool.hitBy (p : Pool) (e : Stitch) : Option Stitch :=
  p.stitch.find? (fun o => o.key = e.key && o.value = e.value && o.flags = e.flags)

/-- A hit: the entry moves to the front, and %reuse counts (R215). -/
def Pool.served (p : Pool) (o : Stitch) : Pool := { p.enter o with reuse := p.reuse + 1 }

/-- Destinations, by rename-map key and width, map to the cells of an entry, with no match of their own (R215). -/
def Pool.mapTo (p : Pool) (o : Stitch) (dests : List (Nat × Nat)) : Pool :=
  let p := { p with again := p.again.filter (fun k => dests.all (fun d => d.1 ≠ k)) }
  (dests.zip o.res).foldl (fun p d =>
    let ws := ((Tab.find p.cells d.2).map (·.words)).getD []
    p.setName d.1.1 d.1.2 (p.nameOf d.1.2 ws d.2)) p

/-- An eligible instruction at the table (R215): a hit is served by its entry, and its v destinations map to the entry's cells; a
miss enters the key and the value. -/
def Pool.use (p : Pool) (e : Stitch) (dests : List (Nat × Nat)) : Pool :=
  match p.hitBy e with
  | some o => (p.served o).mapTo o dests
  | none => p.enter e

/-- Entries, and loads in flight that may become entries, of which a condition holds stay (R217). -/
def Pool.keep (p : Pool) (f : Stitch → Bool) : Pool := { p with stitch := p.stitch.filter f, loads := p.loads.filter f }

/-- Vector registers of a group among some, as rename-map keys. -/
def keysOf (g : Nat) (rs : List Reg) : List Nat := rs.filterMap (fun r => match r with
  | .v n => some (128 * g + n)
  | _ => none)

/-- Vector registers of a group have been written (R210). -/
def State.rewrote (s : State) (g : Nat) (rs : List Reg) : State :=
  match s.group g with
  | some x => if keysOf g rs = [] then s else s.modPool x.core (fun p => p.mark x.w (keysOf g rs))
  | none => s

/-- The destinations of an instruction have been written in Active (R210). -/
def Env.rewrote (v : Env) (s : State) : State := if v.act = 0 then s else s.rewrote v.g (v.vDests.map Reg.v)

/-- The entry of an instruction without its value: its key, and the contents that it names as sources. -/
def Env.entry (v : Env) (s : State) (unit : List Nat) : Stitch :=
  { key := v.key (s.ctx v.c).gen unit, srcs := v.keyRegs.map (fun n => (v.x.w, v.x.regs.content n)) }

/-- An entry with its sources named: the live indexed cells of their contents; none where one is no more (R211; log 13). -/
def Pool.sourced (p : Pool) (e : Stitch) : Option Stitch :=
  (e.srcs.mapM (fun c => p.found c.1 c.2)).map (fun ids => { e with cells := ids, srcs := [], load := none })

/-- An instruction that has executed, at the table: its value is what its group now holds. -/
def Env.stitch (v : Env) (flags : Flags) (s : State) : State :=
  match s.group v.g, (s.pool v.x.core).sourced (v.entry s []) with
  | some x, some e =>
    if v.mayReuse s then
      let dests := v.vDests.map (fun n => (128 * v.g + n, x.w))
      let e := { e with value := v.value x, flags := flags, todo := dests }
      if ((s.pool v.x.core).hitBy e).isSome then s.modPool v.x.core (fun p => p.use e dests)
      else v.rewrote (s.modPool v.x.core (fun p => p.use e dests))
    else v.rewrote s
  | _, _ => v.rewrote s

/-- The value that registers of a group hold, as an entry's (R215). -/
def Group.valueOf (x : Group) (rs : List Reg) : List (List Nat) := rs.map (fun r => match r with
  | .v n => x.laneWords n
  | .s n => [(x.regs.getS n).toNat]
  | .q n => [(x.regs.getQ n).toNat])

/-- A load at issue: where its key meets an entry it hits, and %reuse counts; either way it is in flight, and a miss will enter as
it completes (R215; log 13). `known`: the value that it will write, where the model has read it. -/
def Pool.ask (p : Pool) (e : Stitch) (known : Bool) : Pool :=
  match p.stitch.find? (fun o => o.key = e.key && (!known || o.value = e.value)) with
  | some o => let p := p.served o; { p with loads := { e with hit := true } :: p.loads }
  | none => { p with loads := e :: p.loads }

/-- A load in flight completes: one that hit maps its destinations to its entry's cells; one that missed enters (R215). -/
def Pool.arrive (p : Pool) (op : Nat) (value : List (List Nat)) (dests : List (Nat × Nat)) : Pool :=
  match p.loads.find? (fun e => e.load = some op) with
  | none => p
  | some e =>
    let p := { p with loads := p.loads.filter (fun e => e.load ≠ some op) }
    if e.hit then
      match p.stitch.find? (fun o => o.key = e.key && o.value = value) with
      | some o => p.mapTo o dests
      | none => p
    else
      match p.sourced { e with value := value, todo := dests } with
      | some e => p.enter e
      | none => p

/-- The load of some registers of a group has completed. -/
def State.loadArrives (s : State) (g op : Nat) (rs : List Reg) : State :=
  match s.group g with
  | some x => s.modPool x.core (fun p => p.arrive op (x.valueOf rs) ((keysOf g rs).map (fun k => (k, x.w))))
  | none => s

/-- Entries of loads that read a line go, and loads in flight that read it enter nothing (R217). -/
def State.unstitch (s : State) (core line : Nat) : State :=
  s.modPool core (fun p => p.keep (fun e => e.ro || !e.lines.contains line))

/-- Entries of ld.ro loads go (R217). -/
def State.unstitchRo (s : State) (core : Nat) : State := s.modPool core (fun p => p.keep (fun e => !e.ro))

/-- A load in flight that ended in an error enters nothing (R215). -/
def State.unstitchLoad (s : State) (core op : Nat) : State :=
  s.modPool core (fun p => { p with loads := p.loads.filter (fun e => e.load ≠ some op) })

/-- Every entry goes, with the references that it held (R218). -/
def State.flushStitch (s : State) (core : Nat) : State := s.modPool core (fun p => { p with stitch := [], loads := [] }.gc)

/-- A scratchpad byte written by a store, an engine or a peer: the line's entries go with it. -/
def State.putSp (s : State) (core off : Nat) (b : Byte) : State := (s.writeSp core off b).unstitch core (off / 128)

/-- The presence bit of a line changed: entries that read the line go. -/
def State.mark (s : State) (core line : Nat) (b : Bool) : State :=
  if s.present core line = b then s else (s.setPresent core line b).unstitch core line

/-- The %fstat bits that a result raises: those of the same instruction run with %fstat clear (R215). -/
def Env.raises (v : Env) (f : Env → State → Eff) (s : State) : Flags :=
  let x := v.x.modCtl (fun c => { c with fstat := 0 })
  match f { v with x := x } (s.setGroup v.g x) with
  | .done t => match t.group v.g with
    | some y => y.ctl.fstat
    | none => 0
  | _ => 0

/-- An instruction outside the table that writes its destinations. -/
def rewriting (f : Env → State → Eff) (v : Env) (s : State) : Eff :=
  match f v s with
  | .done t => .done (v.rewrote t)
  | e => e

/-- An instruction that the table may serve. -/
def runPure (i : Instr) (f : Env → State → Eff) (s : State) : Out :=
  runWord i noIll (fun v s => match f v s with
    | .done t => .done (v.stitch (v.raises f s) t)
    | e => e) s

end Sys2Proof.Machine
end

