-- ==== Sys2Proof/Machine/Vector.lean ====
section
/-!
DEFINITION. The meanings of the vector families VA, VC and VX (04_lane R64 to R86). Each is one shared operation of Alu
applied in every lane of Active.
-/
namespace Sys2Proof.Machine

/-- The rounding mode of MOD1. -/
def rndOf (w : TwoWord) : Rnd := Rnd.ofCode w.x.mod1.toNat

/-- A two-operand VA operation of a type on the operands A and B. -/
def va2 (t : Ty) (f : FMode → Nat → Nat → Nat × Flags) (w : VaWord) : Env → State → Eff :=
  vector (fun v l => each2 t (f v.fm) (v.read w.a t l) (v.read w.b t l))

/-- A VX operation on one, two or three operands, element by element. -/
def vx1 (w : VxWord) (f : Ty → FMode → Nat → Nat × Flags) : Env → State → Eff :=
  let t := Ty.ofCode w.ty.toNat
  vector (fun v l => each1 t (f t v.fm) (v.read w.w.a t l))
def vx2 (w : VxWord) (f : Ty → FMode → Nat → Nat → Nat × Flags) : Env → State → Eff :=
  let t := Ty.ofCode w.ty.toNat
  vector (fun v l => each2 t (f t v.fm) (v.read w.w.a t l) (v.read w.w.b t l))
def vx3 (w : VxWord) (f : Ty → FMode → Nat → Nat → Nat → Nat × Flags) : Env → State → Eff :=
  let t := Ty.ofCode w.ty.toNat
  vector (fun v l => each3 t (f t v.fm) (v.read w.w.a t l) (v.read w.w.b t l) (v.read w.w.x.c t l))

/-- A special function of A (R79). -/
def vxSfu (op : SfuOp) (w : VxWord) : Env → State → Eff := vx1 w (fun t fm a => sfu op t fm (rndOf w.w) a)

/-- A value of 32 bits with no flag. -/
def plain (x : Word) : Res := (x, 0)

/-- A predicate selector of lane l (R81). -/
def Env.sel (v : Env) (x : BitVec 8) (l : Nat) : Bool := (v.x.regs.getQ (x.toNat % 8)).has l != bit x.toNat 7

/-- A predicate operation on two selectors (R81). -/
def vxPred (w : VxWord) (f : Bool → Bool → Bool) : Env → State → Eff :=
  predicate (fun v l => f (v.sel w.w.a l) (v.sel w.w.b l))

/-- The random word of a lane as u, and the generator after one issue (03_numbers R57). -/
def srRnd (w : TwoWord) (state : Word) (k : Nat) : Rnd :=
  if w.x.mod1 = 4 then .sr (rngU state k) else rndOf w

/-- The core generator advanced where MOD1 is .sr (03_numbers R57). -/
def srAdvance (w : TwoWord) (v : Env) (s : State) : Word × State :=
  if w.x.mod1 = 4 then
    let n := rngNext (s.core v.x.core).srseed
    (n, s.modCore v.x.core (fun c => { c with srseed := n }))
  else (0, s)

/-- cvt (R84): amax updates on the source as read, then the conversion; .sr advances the generator once per issue. -/
def vxCvtEff (w : VxWord) (v : Env) (s : State) : Eff :=
  let t := Ty.ofCode w.ty.toNat
  let cf := w.w.x.c.toNat
  let f := Ty.ofCode (bits cf 7 4)
  let e := w.w.x.mod2.toNat
  let src (l : Nat) : Nat := el f (v.read w.w.a f l) e
  let s := if bit cf 3 then
      v.lanes.foldl (fun s l => s.modCore v.x.core (fun c => c.amax (cf % 8) (src l))) s
    else s
  let (state, s) := srAdvance w.w v s
  let rs := v.lanes.map (fun l => (l, convert f t v.fm (srRnd w.w state (7 * l)) (src l)))
  v.set s (v.x.writeLanes v.d rs)

/-- pack (R85): A and B converted and placed; .sr advances the generator once per issue. The base of an 8-bit pack is C read
at the 8-bit type of the pack, so an inline constant there is converted to it and replicated (DESIGN CHOICE, log 49: R33 and R85
name no type for it). -/
def vxPackEff (w : VxWord) (v : Env) (s : State) : Eff :=
  let t := Ty.ofCode w.ty.toNat
  let f : Ty := if t.isFloat then .f32 else if t.isI then .i32 else .n32
  let (state, s) := srAdvance w.w v s
  let one (l k : Nat) (code : BitVec 8) : Res := convert f t v.fm (srRnd w.w state k) (v.read code f l).toNat
  let lane (l : Nat) : Res :=
    let a := one l (7 * l) w.w.a
    let b := one l (7 * l + 16) w.w.b
    let base := if t.width = 8 then v.read w.w.x.c t l else 0
    (packWord t (w.w.x.mod2.toNat % 2) base a.1.toNat b.1.toNat, a.2 ||| b.2)
  v.set s (v.x.writeLanes v.d (v.lanes.map (fun l => (l, lane l))))

/-- One-word add.i32: each Active lane writes (a + b) mod 2^32 to vd. (R68) -/
def execVaAddI32 (w : VaWord) (s : State) : Out :=
  runPure (.vaAddI32 w) (va2 .i32 (fun fm => elAdd .i32 fm .rne) w) s

/-- One-word sub.i32: each Active lane writes (a - b) mod 2^32 to vd. (R68) -/
def execVaSubI32 (w : VaWord) (s : State) : Out :=
  runPure (.vaSubI32 w) (va2 .i32 (fun fm => elSub .i32 fm .rne) w) s

/-- One-word mul.i32: each Active lane writes the low 32 bits of a × b to vd. (R68) -/
def execVaMulI32 (w : VaWord) (s : State) : Out :=
  runPure (.vaMulI32 w) (va2 .i32 (fun fm => elMul .i32 fm .rne) w) s

/-- One-word and.b32: bitwise AND of a and b in each Active lane. (R68) -/
def execVaAndB32 (w : VaWord) (s : State) : Out :=
  runPure (.vaAndB32 w) (va2 .b32 (fun _ => elAnd) w) s

/-- One-word or.b32: bitwise OR of a and b in each Active lane. (R68) -/
def execVaOrB32 (w : VaWord) (s : State) : Out :=
  runPure (.vaOrB32 w) (va2 .b32 (fun _ => elOr) w) s

/-- One-word xor.b32: bitwise XOR of a and b in each Active lane. (R68) -/
def execVaXorB32 (w : VaWord) (s : State) : Out :=
  runPure (.vaXorB32 w) (va2 .b32 (fun _ => elXor) w) s

/-- One-word shl.b32: shifts a left by b mod 32 with zero fill. (R69) -/
def execVaShlB32 (w : VaWord) (s : State) : Out :=
  runPure (.vaShlB32 w) (va2 .b32 (fun _ => elShl .b32) w) s

/-- One-word shr.n32: logical right shift of a by b mod 32. (R69) -/
def execVaShrN32 (w : VaWord) (s : State) : Out :=
  runPure (.vaShrN32 w) (va2 .n32 (fun _ => elShr .n32) w) s

/-- One-word shr.i32: arithmetic right shift of a by b mod 32. (R69) -/
def execVaShrI32 (w : VaWord) (s : State) : Out :=
  runPure (.vaShrI32 w) (va2 .i32 (fun _ => elShr .i32) w) s

/-- One-word min.i32: the signed smaller of a and b. (R68) -/
def execVaMinI32 (w : VaWord) (s : State) : Out :=
  runPure (.vaMinI32 w) (va2 .i32 (fun fm => elMin .i32 fm) w) s

/-- One-word max.i32: the signed larger of a and b. (R68) -/
def execVaMaxI32 (w : VaWord) (s : State) : Out :=
  runPure (.vaMaxI32 w) (va2 .i32 (fun fm => elMax .i32 fm) w) s

/-- One-word min.n32: the unsigned smaller of a and b. (R68) -/
def execVaMinN32 (w : VaWord) (s : State) : Out :=
  runPure (.vaMinN32 w) (va2 .n32 (fun fm => elMin .n32 fm) w) s

/-- One-word max.n32: the unsigned larger of a and b. (R68) -/
def execVaMaxN32 (w : VaWord) (s : State) : Out :=
  runPure (.vaMaxN32 w) (va2 .n32 (fun fm => elMax .n32 fm) w) s

/-- One-word add.f32: a + b rounded RNE under FTZ32. (R74) -/
def execVaAddF32 (w : VaWord) (s : State) : Out :=
  runPure (.vaAddF32 w) (va2 .f32 (fun fm => elAdd .f32 fm .rne) w) s

/-- One-word sub.f32: a - b rounded RNE under FTZ32. (R74) -/
def execVaSubF32 (w : VaWord) (s : State) : Out :=
  runPure (.vaSubF32 w) (va2 .f32 (fun fm => elSub .f32 fm .rne) w) s

/-- One-word mul.f32: a × b rounded RNE under FTZ32. (R74) -/
def execVaMulF32 (w : VaWord) (s : State) : Out :=
  runPure (.vaMulF32 w) (va2 .f32 (fun fm => elMul .f32 fm .rne) w) s

/-- One-word min.f32 with NaN-ignoring and -0 < +0 rules, raising no flag. (R75) -/
def execVaMinF32 (w : VaWord) (s : State) : Out :=
  runPure (.vaMinF32 w) (va2 .f32 (fun fm => elMin .f32 fm) w) s

/-- One-word max.f32 with NaN-ignoring and -0 < +0 rules, raising no flag. (R75) -/
def execVaMaxF32 (w : VaWord) (s : State) : Out :=
  runPure (.vaMaxF32 w) (va2 .f32 (fun fm => elMax .f32 fm) w) s

/-- One-word andn.b32: a AND NOT b in each Active lane. (R68) -/
def execVaAndnB32 (w : VaWord) (s : State) : Out :=
  runPure (.vaAndnB32 w) (va2 .b32 (fun _ => elAndn) w) s

/-- One-word mov.b32 copies operand B to vd in each Active lane. (R83) -/
def execVaMovB32 (w : VaWord) (s : State) : Out :=
  runPure (.vaMovB32 w) (vector (fun v l => plain (v.read w.b .b32 l))) s

/-- One-word integer compare writes the COND result per Active lane to predicate QD. (R80) -/
def execCmpInt (w : VcWord) (s : State) : Out :=
  runPure (.cmpInt w)
    (predicate (fun v l => iCond w.cond.toNat (v.read w.a .b32 l) (v.read w.b .b32 l))) s

/-- One-word .f32 compare writes the COND result per Active lane to predicate QD. (R80) -/
def execCmpFloat (w : VcWord) (s : State) : Out :=
  runPure (.cmpFloat w)
    (predicate (fun v l => fCond .f32 v.fm w.cond.toNat (v.read w.a .f32 l).toNat (v.read w.b .f32 l).toNat)) s

/-- Two-word add for integer (wrapping) or float (rounded per MOD1) types. (R68) -/
def execVxAdd (w : VxWord) (s : State) : Out :=
  runPure (.vxAdd w)
    (vx2 w (fun t fm => elAdd t fm (rndOf w.w))) s

/-- Two-word sub for integer or float types. (R68) -/
def execVxSub (w : VxWord) (s : State) : Out :=
  runPure (.vxSub w)
    (vx2 w (fun t fm => elSub t fm (rndOf w.w))) s

/-- Two-word mul for integer or float types. (R68) -/
def execVxMul (w : VxWord) (s : State) : Out :=
  runPure (.vxMul w)
    (vx2 w (fun t fm => elMul t fm (rndOf w.w))) s

/-- Two-word bitwise AND on .b types. (R68) -/
def execVxAnd (w : VxWord) (s : State) : Out :=
  runPure (.vxAnd w)
    (vx2 w (fun _ _ => elAnd)) s

/-- Two-word bitwise OR on .b types. (R68) -/
def execVxOr (w : VxWord) (s : State) : Out :=
  runPure (.vxOr w)
    (vx2 w (fun _ _ => elOr)) s

/-- Two-word bitwise XOR on .b types. (R68) -/
def execVxXor (w : VxWord) (s : State) : Out :=
  runPure (.vxXor w)
    (vx2 w (fun _ _ => elXor)) s

/-- Two-word element shift left by b mod w. (R69) -/
def execVxShl (w : VxWord) (s : State) : Out :=
  runPure (.vxShl w)
    (vx2 w (fun t _ => elShl t)) s

/-- Two-word element shift right, logical or arithmetic by type. (R69) -/
def execVxShr (w : VxWord) (s : State) : Out :=
  runPure (.vxShr w)
    (vx2 w (fun t _ => elShr t)) s

/-- Two-word minimum of integer or float elements. (R68) -/
def execVxMin (w : VxWord) (s : State) : Out :=
  runPure (.vxMin w)
    (vx2 w elMin) s

/-- Two-word maximum of integer or float elements. (R68) -/
def execVxMax (w : VxWord) (s : State) : Out :=
  runPure (.vxMax w)
    (vx2 w elMax) s

/-- Two-word a AND NOT b. (R68) -/
def execVxAndn (w : VxWord) (s : State) : Out :=
  runPure (.vxAndn w)
    (vx2 w (fun _ _ => elAndn)) s

/-- Two-word move of operand B to vd. (R83) -/
def execVxMov (w : VxWord) (s : State) : Out :=
  runPure (.vxMov w)
    (vector (fun v l => plain (v.read w.w.b .b32 l))) s

/-- Saturating add, setting SAT when clamped. (R68) -/
def execVxAdds (w : VxWord) (s : State) : Out :=
  runPure (.vxAdds w)
    (vx2 w (fun t _ => elAdds t)) s

/-- Saturating subtract, setting SAT when clamped. (R68) -/
def execVxSubs (w : VxWord) (s : State) : Out :=
  runPure (.vxSubs w)
    (vx2 w (fun t _ => elSubs t)) s

/-- High 32 bits of the 64-bit product. (R68) -/
def execVxMulhi (w : VxWord) (s : State) : Out :=
  runPure (.vxMulhi w)
    (vx2 w (fun t _ => elMulhi t)) s

/-- Integer multiply-add (a × b + c) mod 2^32. (R68) -/
def execVxMad (w : VxWord) (s : State) : Out :=
  runPure (.vxMad w)
    (vx3 w (fun t _ => elMad t)) s

/-- Absolute value of integer elements, or sign clear of float elements. (R68) -/
def execVxAbs (w : VxWord) (s : State) : Out :=
  runPure (.vxAbs w)
    (vx1 w (fun t _ => elAbs t)) s

/-- Negation of integer elements, or sign flip of float elements. (R68) -/
def execVxNeg (w : VxWord) (s : State) : Out :=
  runPure (.vxNeg w)
    (vx1 w (fun t _ => elNeg t)) s

/-- Computes (A + (B << s)) mod 2^32. (R70) -/
def execVxLea (w : VxWord) (s : State) : Out :=
  runPure (.vxLea w)
    (vector (fun v l => plain (leaWord (w.w.x.mod2.toNat % 8) (v.read w.w.a .n32 l) (v.read w.w.b .n32 l)))) s

/-- Extracts a bit field described by a control word. (R71) -/
def execVxBfe (w : VxWord) (s : State) : Out :=
  runPure (.vxBfe w)
    (vector (fun v l => plain (bfeWord (w.ty = 0) (v.read w.w.a .b32 l) (v.read w.w.b .b32 l)))) s

/-- Inserts a's low bits into c at the described field. (R71) -/
def execVxBfi (w : VxWord) (s : State) : Out :=
  runPure (.vxBfi w)
    (vector (fun v l => plain (bfiWord (v.read w.w.a .b32 l) (v.read w.w.b .b32 l) (v.read w.w.x.c .b32 l)))) s

/-- Funnel shift left of (A:B) by C mod 32. (R72) -/
def execVxFshl (w : VxWord) (s : State) : Out :=
  runPure (.vxFshl w)
    (vector (fun v l => plain (fshlWord (v.read w.w.a .b32 l) (v.read w.w.b .b32 l) (v.read w.w.x.c .b32 l)))) s

/-- Funnel shift right of (A:B) by C mod 32. (R72) -/
def execVxFshr (w : VxWord) (s : State) : Out :=
  runPure (.vxFshr w)
    (vector (fun v l => plain (fshrWord (v.read w.w.a .b32 l) (v.read w.w.b .b32 l) (v.read w.w.x.c .b32 l)))) s

/-- Population count of A. (R73) -/
def execVxPopc (w : VxWord) (s : State) : Out :=
  runPure (.vxPopc w)
    (vector (fun v l => plain (popcWord (v.read w.w.a .b32 l)))) s

/-- Leading-zero count of A. (R73) -/
def execVxClz (w : VxWord) (s : State) : Out :=
  runPure (.vxClz w)
    (vector (fun v l => plain (clzWord (v.read w.w.a .b32 l)))) s

/-- Bit reversal of A. (R73) -/
def execVxBrev (w : VxWord) (s : State) : Out :=
  runPure (.vxBrev w)
    (vector (fun v l => plain (brevWord (v.read w.w.a .b32 l)))) s

/-- Two-word typed compare writing a predicate per Active lane. (R80) -/
def execVxCmp (w : VxWord) (s : State) : Out :=
  runPure (.vxCmp w)
    (predicate (fun v l =>
      let t := Ty.ofCode w.ty.toNat
      vxCond t v.fm (bits w.w.d.toNat 6 3) w.w.x.mod2.toNat (v.read w.w.a t l) (v.read w.w.b t l))) s

/-- Fused multiply-add rounded once in the MOD1 mode. (R74) -/
def execVxFma (w : VxWord) (s : State) : Out :=
  runPure (.vxFma w)
    (vx3 w (fun t fm => fFma t fm (rndOf w.w))) s

/-- Computes min(max(A, B), C). (R75) -/
def execVxClamp (w : VxWord) (s : State) : Out :=
  runPure (.vxClamp w)
    (vx3 w elClamp) s

/-- Rounds each element to an integral value in its own format. (R77) -/
def execVxFrnd (w : VxWord) (s : State) : Out :=
  runPure (.vxFrnd w)
    (vx1 w (fun t fm a => (fRnd t fm (rndOf w.w) a, 0))) s

/-- Writes a one-hot class mask of each element's encoding. (R78) -/
def execVxFclass (w : VxWord) (s : State) : Out :=
  runPure (.vxFclass w)
    (vector (fun v l => plain (classWord (Ty.ofCode w.ty.toNat) (v.read w.w.a (Ty.ofCode w.ty.toNat) l)))) s

/-- Correctly rounded reciprocal on the special-function unit. (R79) -/
def execVxRcp (w : VxWord) (s : State) : Out :=
  runPure (.vxRcp w)
    (vxSfu .rcp w) s

/-- Correctly rounded reciprocal square root. (R79) -/
def execVxRsq (w : VxWord) (s : State) : Out :=
  runPure (.vxRsq w)
    (vxSfu .rsq w) s

/-- Correctly rounded square root. (R79) -/
def execVxSqrt (w : VxWord) (s : State) : Out :=
  runPure (.vxSqrt w)
    (vxSfu .sqrt w) s

/-- Correctly rounded 2^x. (R79) -/
def execVxExp2 (w : VxWord) (s : State) : Out :=
  runPure (.vxExp2 w)
    (vxSfu .exp2 w) s

/-- Correctly rounded log2 x. (R79) -/
def execVxLog2 (w : VxWord) (s : State) : Out :=
  runPure (.vxLog2 w)
    (vxSfu .log2 w) s

/-- Correctly rounded sin(πx). (R79) -/
def execVxSinpi (w : VxWord) (s : State) : Out :=
  runPure (.vxSinpi w)
    (vxSfu .sinpi w) s

/-- Correctly rounded cos(πx). (R79) -/
def execVxCospi (w : VxWord) (s : State) : Out :=
  runPure (.vxCospi w)
    (vxSfu .cospi w) s

/-- Correctly rounded tanh x. (R79) -/
def execVxTanh (w : VxWord) (s : State) : Out :=
  runPure (.vxTanh w)
    (vxSfu .tanh w) s

/-- Correctly rounded logistic sigmoid. (R79) -/
def execVxSigm (w : VxWord) (s : State) : Out :=
  runPure (.vxSigm w)
    (vxSfu .sigm w) s

/-- Selects A or B per lane by predicate q[k] XOR n. (R82) -/
def execVxSel (w : VxWord) (s : State) : Out :=
  runPure (.vxSel w)
    (vector (fun v l =>
      let m := w.w.x.mod2.toNat
      plain (if (v.x.regs.getQ (m % 8)).has l != bit m 3 then v.read w.w.a .b32 l else v.read w.w.b .b32 l))) s

/-- Predicate AND of two selectors into QD. (R81) -/
def execVxPand (w : VxWord) (s : State) : Out :=
  runPure (.vxPand w)
    (vxPred w (fun x y => x && y)) s

/-- Predicate OR of two selectors into QD. (R81) -/
def execVxPor (w : VxWord) (s : State) : Out :=
  runPure (.vxPor w)
    (vxPred w (fun x y => x || y)) s

/-- Predicate XOR of two selectors into QD. (R81) -/
def execVxPxor (w : VxWord) (s : State) : Out :=
  runPure (.vxPxor w)
    (vxPred w (fun x y => x != y)) s

/-- Predicate NOT of one selector into QD. (R81) -/
def execVxPnot (w : VxWord) (s : State) : Out :=
  runPure (.vxPnot w)
    (vxPred w (fun x _ => !x)) s

/-- Converts one element between listed types with rounding, optional .sr and amax update. (R84) -/
def execVxCvt (w : VxWord) (s : State) : Out :=
  if bit w.w.x.c.toNat 3 || w.w.x.mod1 = 4 then runWord (.vxCvt w) noIll (rewriting (vxCvtEff w)) s
  else runPure (.vxCvt w) (vxCvtEff w) s

/-- Converts A and B and packs them as elements of vd. (R85) -/
def execVxPack (w : VxWord) (s : State) : Out :=
  if w.w.x.mod1 = 4 then runWord (.vxPack w) noIll (rewriting (vxPackEff w)) s
  else runPure (.vxPack w) (vxPackEff w) s

/-- Widens element e of A to 32 bits. (R86) -/
def execVxUnpack (w : VxWord) (s : State) : Out :=
  runPure (.vxUnpack w)
    (vector (fun v l =>
      let t := Ty.ofCode w.ty.toNat
      unpackWord t v.fm (el t (v.read w.w.a t l) w.w.x.mod2.toNat))) s

end Sys2Proof.Machine
end

