-- ==== Sys2Proof/Machine/CrossLane.lean ====
section
/-!
DEFINITION. The cross-lane family XL (10_group R205 to R208, 03_numbers R62).
-/
namespace Sys2Proof.Machine

/-- One level of the fixed pairwise tree: a lone node passes up unchanged (03_numbers R62). -/
def treeLevel {α : Type} (f : α → α → α) : List (Option α) → List (Option α)
  | some a :: some b :: r => some (f a b) :: treeLevel f r
  | some a :: none :: r => some a :: treeLevel f r
  | none :: b :: r => b :: treeLevel f r
  | [a] => [a]
  | [] => []

/-- The value of the tree over at most 64 leaves. -/
def treeValue {α : Type} (f : α → α → α) (xs : List (Option α)) : Option α :=
  match (List.range 6).foldl (fun ys _ => treeLevel f ys) xs with
  | y :: _ => y
  | [] => none

/-- The operations of scans and reductions. -/
inductive RedOp where
  | add | min | max | and | or
  deriving DecidableEq, Repr

/-- Two nodes combined: the value and the flags so far (10_group R208). -/
def redCombine (op : RedOp) (t : Ty) (fm : FMode) (a b : Res) : Res :=
  let x := a.1.toNat
  let y := b.1.toNat
  let r : Nat × Flags := match op with
    | .add => elAdd t fm .rne x y
    | .min => elMin t fm x y
    | .max => elMax t fm x y
    | .and => elAnd x y
    | .or => elOr x y
  (BitVec.ofNat 32 r.1, a.2 ||| b.2 ||| r.2)

/-- The identity of an exclusive scan (03_numbers R62, 10_group R208). -/
def redIdentity (op : RedOp) (t : Ty) : Word :=
  match op, t with
  | .add, .f32 => 0x80000000
  | .min, .f32 => 0x7F800000
  | .max, .f32 => 0xFF800000
  | .min, .i32 => 0x7FFFFFFF
  | .min, _ => 0xFFFFFFFF
  | .max, .i32 => 0x80000000
  | _, _ => 0

/-- The leaves: the lanes of Active below a bound, with their source values. -/
def leaves (w : TwoWord) (v : Env) (t : Ty) (n : Nat) : List (Option Res) :=
  (List.range v.x.w).map (fun l => if v.act.has l && l < n then some (plain (v.read w.a t l)) else none)

/-- A reduction over Active (10_group R208). -/
def xlRed (op : RedOp) (w : TwoWord) (v : Env) (s : State) : Eff :=
  let t := Ty.ofCode (w.x.mod2.toNat % 16)
  match treeValue (redCombine op t v.fm) (leaves w v t v.x.w) with
  | none => .done s
  | some r => v.set s (v.x.writeLanes v.d (v.lanes.map (fun l => (l, r))))

/-- A scan over Active, inclusive or exclusive (03_numbers R62). -/
def xlScan (op : RedOp) (w : TwoWord) (v : Env) (s : State) : Eff :=
  let t := Ty.ofCode (w.x.mod2.toNat % 16)
  let excl := bit w.x.c.toNat 0
  let lane (l : Nat) : Res :=
    (treeValue (redCombine op t v.fm) (leaves w v t (if excl then l else l + 1))).getD (plain (redIdentity op t))
  v.set s (v.x.writeLanes v.d (v.lanes.map (fun l => (l, lane l))))

/-- A lane pull: the source lane j of lane l, or none where it is invalid (10_group R206). -/
def xlPull (src : Nat → Nat → Option Nat) (w : TwoWord) (v : Env) (s : State) : Eff :=
  let lane (l : Nat) : Res :=
    let own := v.read w.a .b32 l
    match src l (v.read w.x.c .b32 l).toNat with
    | some j => plain (if decide (j < v.x.w) && v.act.has j then v.read w.a .b32 j else own)
    | none => plain own
  v.set s (v.x.writeLanes v.d (v.lanes.map (fun l => (l, lane l))))

/-- The lane that a uniform operand names (10_group R206). -/
def Env.named (v : Env) (w : TwoWord) : Nat := (v.uni w.x.c).toNat % v.x.w

/-- bcast (10_group R206): the named lane is read whatever its state. -/
def xlBcastEff (w : TwoWord) (v : Env) (s : State) : Eff :=
  let x := v.read w.a .b32 (v.named w)
  v.set s (v.x.writeLanes v.d (v.lanes.map (fun l => (l, plain x))))

/-- lpeek (10_group R206). -/
def xlLpeekEff (w : TwoWord) (v : Env) (s : State) : Eff :=
  v.set s (v.x.modRegs (fun r => r.setS v.d (v.read w.a .b32 (v.named w))))

/-- lpoke (10_group R206): the named lane alone is written, in Active or not. -/
def xlLpokeEff (w : TwoWord) (v : Env) (s : State) : Eff :=
  v.set s (v.x.modRegs (fun r => r.setV v.d (v.named w) (v.uni w.a)))

/-- A vote: one truth value from the predicate over Active, written in every lane of Active (10_group R207). -/
def xlVote (f : List Bool → Bool) (w : TwoWord) (v : Env) (s : State) : Eff :=
  predicate (fun v _ => f (v.lanes.map (v.sel w.a))) v s

/-- A lane mask placed in vd, and vd + 1 at W = 64 (10_group R207). -/
def Group.writeMasks (x : Group) (d : Nat) (rs : List (Nat × Mask)) : Group :=
  x.modRegs (fun r => rs.foldl (fun r p =>
    let r := r.setV d p.1 (p.2.extractLsb' 0 32)
    if x.w = 64 then r.setV (d + 1) p.1 (p.2.extractLsb' 32 32) else r) r)

/-- ballot (10_group R207). -/
def xlBallotEff (w : TwoWord) (v : Env) (s : State) : Eff :=
  let m := maskOf (fun l => v.act.has l && v.sel w.a l)
  v.set s (v.x.writeMasks v.d (v.lanes.map (fun l => (l, m))))

/-- match (10_group R207). -/
def xlMatchEff (w : TwoWord) (v : Env) (s : State) : Eff :=
  let m (l : Nat) : Mask := maskOf (fun k => v.act.has k && v.read w.a .b32 k == v.read w.a .b32 l)
  v.set s (v.x.writeMasks v.d (v.lanes.map (fun l => (l, m l))))

/-- Each Active lane reads the source from lane c, else its own. (R206) -/
def execXlLpullAbs (w : TwoWord) (s : State) : Out :=
  runPure (.xlLpullAbs w) (xlPull (fun _ c => some c) w) s

/-- Each Active lane reads the source from lane L - c. (R206) -/
def execXlLpullBel (w : TwoWord) (s : State) : Out :=
  runPure (.xlLpullBel w) (xlPull (fun l c => if c > l then none else some (l - c)) w) s

/-- Each Active lane reads the source from lane L + c. (R206) -/
def execXlLpullAbv (w : TwoWord) (s : State) : Out :=
  runPure (.xlLpullAbv w) (xlPull (fun l c => some (l + c)) w) s

/-- Each Active lane reads the source from lane L XOR c. (R206) -/
def execXlLpullXor (w : TwoWord) (s : State) : Out :=
  runPure (.xlLpullXor w) (xlPull (fun l c => some (l ^^^ c)) w) s

/-- Broadcasts va of lane k to every Active lane. (R206) -/
def execXlBcast (w : TwoWord) (s : State) : Out :=
  runPure (.xlBcast w) (xlBcastEff w) s

/-- Writes va of lane k into an s-register. (R206) -/
def execXlLpeek (w : TwoWord) (s : State) : Out :=
  runPure (.xlLpeek w) (xlLpeekEff w) s

/-- Writes a scalar into vd of lane k only. (R206) -/
def execXlLpoke (w : TwoWord) (s : State) : Out :=
  runPure (.xlLpoke w) (xlLpokeEff w) s

/-- Writes the AND of a predicate over Active. (R207) -/
def execXlVoteAll (w : TwoWord) (s : State) : Out :=
  runPure (.xlVoteAll w) (xlVote (fun ps => ps.all id) w) s

/-- Writes the OR of a predicate over Active. (R207) -/
def execXlVoteAny (w : TwoWord) (s : State) : Out :=
  runPure (.xlVoteAny w) (xlVote (fun ps => ps.any id) w) s

/-- Writes whether a predicate is uniform over Active. (R207) -/
def execXlVoteEq (w : TwoWord) (s : State) : Out :=
  runPure (.xlVoteEq w) (xlVote (fun ps => ps.all id || !ps.any id) w) s

/-- Writes the lane mask of a predicate to every Active lane. (R207) -/
def execXlBallot (w : TwoWord) (s : State) : Out :=
  runPure (.xlBallot w) (xlBallotEff w) s

/-- Inclusive or exclusive prefix sum over Active. (R208) -/
def execXlScanAdd (w : TwoWord) (s : State) : Out :=
  runPure (.xlScanAdd w) (xlScan .add w) s

/-- Prefix minimum over Active. (R208) -/
def execXlScanMin (w : TwoWord) (s : State) : Out :=
  runPure (.xlScanMin w) (xlScan .min w) s

/-- Prefix maximum over Active. (R208) -/
def execXlScanMax (w : TwoWord) (s : State) : Out :=
  runPure (.xlScanMax w) (xlScan .max w) s

/-- Sum over Active written to every Active lane. (R208) -/
def execXlRedAdd (w : TwoWord) (s : State) : Out :=
  runPure (.xlRedAdd w) (xlRed .add w) s

/-- Minimum over Active. (R208) -/
def execXlRedMin (w : TwoWord) (s : State) : Out :=
  runPure (.xlRedMin w) (xlRed .min w) s

/-- Maximum over Active. (R208) -/
def execXlRedMax (w : TwoWord) (s : State) : Out :=
  runPure (.xlRedMax w) (xlRed .max w) s

/-- Bitwise AND over Active. (R208) -/
def execXlRedAnd (w : TwoWord) (s : State) : Out :=
  runPure (.xlRedAnd w) (xlRed .and w) s

/-- Bitwise OR over Active. (R208) -/
def execXlRedOr (w : TwoWord) (s : State) : Out :=
  runPure (.xlRedOr w) (xlRed .or w) s

/-- Writes the mask of Active lanes holding an equal value. (R207) -/
def execXlMatch (w : TwoWord) (s : State) : Out :=
  runPure (.xlMatch w) (xlMatchEff w) s

end Sys2Proof.Machine
end

