-- ==== Sys2Proof/Machine/Scalar.lean ====
section
/-!
DEFINITION. The meanings of the SC family (04_lane R87, R88): once per issue, on s registers, whatever Active holds.
-/
namespace Sys2Proof.Machine

/-- A one-word SC operation on A and B of a type. -/
def sc2 (t : Ty) (f : FMode → Nat → Nat → Nat × Flags) (w : ScWord) : Env → State → Eff :=
  scalar (fun v => each2 t (f v.fm) (v.uni w.a) (v.uni w.b))

/-- A truth value as a word. -/
def boolWord (b : Bool) : Word := if b then 1 else 0

/-- Scalar add.i32 on s-register values, once per issue. (R87) -/
def execScAddI32 (w : ScWord) (s : State) : Out :=
  runPure (.scAddI32 w) (sc2 .i32 (fun fm => elAdd .i32 fm .rne) w) s

/-- Scalar sub.i32. (R87) -/
def execScSubI32 (w : ScWord) (s : State) : Out :=
  runPure (.scSubI32 w) (sc2 .i32 (fun fm => elSub .i32 fm .rne) w) s

/-- Scalar mul.i32. (R87) -/
def execScMulI32 (w : ScWord) (s : State) : Out :=
  runPure (.scMulI32 w) (sc2 .i32 (fun fm => elMul .i32 fm .rne) w) s

/-- Scalar and.b32. (R87) -/
def execScAndB32 (w : ScWord) (s : State) : Out :=
  runPure (.scAndB32 w) (sc2 .b32 (fun _ => elAnd) w) s

/-- Scalar or.b32. (R87) -/
def execScOrB32 (w : ScWord) (s : State) : Out :=
  runPure (.scOrB32 w) (sc2 .b32 (fun _ => elOr) w) s

/-- Scalar xor.b32. (R87) -/
def execScXorB32 (w : ScWord) (s : State) : Out :=
  runPure (.scXorB32 w) (sc2 .b32 (fun _ => elXor) w) s

/-- Scalar shl.b32. (R87) -/
def execScShlB32 (w : ScWord) (s : State) : Out :=
  runPure (.scShlB32 w) (sc2 .b32 (fun _ => elShl .b32) w) s

/-- Scalar shr.n32. (R87) -/
def execScShrN32 (w : ScWord) (s : State) : Out :=
  runPure (.scShrN32 w) (sc2 .n32 (fun _ => elShr .n32) w) s

/-- Scalar shr.i32. (R87) -/
def execScShrI32 (w : ScWord) (s : State) : Out :=
  runPure (.scShrI32 w) (sc2 .i32 (fun _ => elShr .i32) w) s

/-- Scalar min.i32. (R87) -/
def execScMinI32 (w : ScWord) (s : State) : Out :=
  runPure (.scMinI32 w) (sc2 .i32 (fun fm => elMin .i32 fm) w) s

/-- Scalar max.i32. (R87) -/
def execScMaxI32 (w : ScWord) (s : State) : Out :=
  runPure (.scMaxI32 w) (sc2 .i32 (fun fm => elMax .i32 fm) w) s

/-- Scalar min.n32. (R87) -/
def execScMinN32 (w : ScWord) (s : State) : Out :=
  runPure (.scMinN32 w) (sc2 .n32 (fun fm => elMin .n32 fm) w) s

/-- Scalar max.n32. (R87) -/
def execScMaxN32 (w : ScWord) (s : State) : Out :=
  runPure (.scMaxN32 w) (sc2 .n32 (fun fm => elMax .n32 fm) w) s

/-- Scalar mov.b32 copies operand B to sd. (R87) -/
def execScMovB32 (w : ScWord) (s : State) : Out :=
  runPure (.scMovB32 w) (scalar (fun v => plain (v.uni w.b))) s

/-- Scalar slt.i32 writes 1 if a < b signed, else 0. (R87) -/
def execScSltI32 (w : ScWord) (s : State) : Out :=
  runPure (.scSltI32 w) (scalar (fun v => plain (boolWord ((v.uni w.a).slt (v.uni w.b))))) s

/-- Scalar slt.n32 writes 1 if a < b unsigned, else 0. (R87) -/
def execScSltN32 (w : ScWord) (s : State) : Out :=
  runPure (.scSltN32 w) (scalar (fun v => plain (boolWord ((v.uni w.a).ult (v.uni w.b))))) s

/-- Scalar seq.b32 writes 1 if a = b, else 0. (R87) -/
def execScSeqB32 (w : ScWord) (s : State) : Out :=
  runPure (.scSeqB32 w) (scalar (fun v => plain (boolWord (v.uni w.a == v.uni w.b)))) s

/-- Scalar popc.b32 counts the 1 bits of a. (R87) -/
def execScPopcB32 (w : ScWord) (s : State) : Out :=
  runPure (.scPopcB32 w) (scalar (fun v => plain (popcWord (v.uni w.a)))) s

/-- Scalar clz.b32 counts leading zeros of a. (R87) -/
def execScClzB32 (w : ScWord) (s : State) : Out :=
  runPure (.scClzB32 w) (scalar (fun v => plain (clzWord (v.uni w.a)))) s

/-- Scalar add.f32, RNE under FTZ32, setting %fstat. (R87) -/
def execScAddF32 (w : ScWord) (s : State) : Out :=
  runPure (.scAddF32 w) (sc2 .f32 (fun fm => elAdd .f32 fm .rne) w) s

/-- Scalar mul.f32, RNE under FTZ32. (R87) -/
def execScMulF32 (w : ScWord) (s : State) : Out :=
  runPure (.scMulF32 w) (sc2 .f32 (fun fm => elMul .f32 fm .rne) w) s

/-- Scalar min.f32 under R75. (R87) -/
def execScMinF32 (w : ScWord) (s : State) : Out :=
  runPure (.scMinF32 w) (sc2 .f32 (fun fm => elMin .f32 fm) w) s

/-- Scalar max.f32 under R75. (R87) -/
def execScMaxF32 (w : ScWord) (s : State) : Out :=
  runPure (.scMaxF32 w) (sc2 .f32 (fun fm => elMax .f32 fm) w) s

/-- Scalar escape mad: (a × b + c) mod 2^32. (R88) -/
def execScMad (w : SxWord) (s : State) : Out :=
  runPure (.scMad w)
    (scalar (fun v => plain (v.uni w.a * v.uni w.b + v.uni w.x.c))) s

/-- Scalar escape fma.f32 rounded once RNE under FTZ32. (R88) -/
def execScFma (w : SxWord) (s : State) : Out :=
  runPure (.scFma w)
    (scalar (fun v => each3 .f32 (fFma .f32 v.fm .rne) (v.uni w.a) (v.uni w.b) (v.uni w.x.c))) s

/-- Scalar escape bit-field extract under R71. (R88) -/
def execScBfe (w : SxWord) (s : State) : Out :=
  runPure (.scBfe w)
    (scalar (fun v => plain (bfeWord (w.x.mod2.toNat % 16 = 0) (v.uni w.a) (v.uni w.b)))) s

/-- Scalar escape bit-field insert with base c. (R88) -/
def execScBfi (w : SxWord) (s : State) : Out :=
  runPure (.scBfi w)
    (scalar (fun v => plain (bfiWord (v.uni w.a) (v.uni w.b) (v.uni w.x.c)))) s

/-- Scalar escape conversion among .f32, .f16, .bf16, .i32 and .n32. (R88) -/
def execScCvt (w : SxWord) (s : State) : Out :=
  runPure (.scCvt w)
    (scalar (fun v =>
      let f := Ty.ofCode (bits w.x.c.toNat 7 4)
      convert f (Ty.ofCode (w.x.mod2.toNat % 16)) v.fm (Rnd.ofCode w.x.mod1.toNat) (el f (v.read w.a f 0) 0))) s

/-- Scalar escape select: c != 0 ? a : b. (R88) -/
def execScSel (w : SxWord) (s : State) : Out :=
  runPure (.scSel w)
    (scalar (fun v => plain (if v.uni w.x.c ≠ 0 then v.uni w.a else v.uni w.b))) s

end Sys2Proof.Machine
end

