-- ==== Sys2Proof/Machine/Exact.lean ====
section
/-!
DEFINITION. Exact rationals and their single rounding (16_view R311, R325, R326, R332; 17_ray R342, R347, R348, R351):
quantities that the view and the ray hold exactly before one RoundTo.
-/
namespace Sys2Proof.Machine

/-- An exact rational: numerator, and a denominator that every operation here keeps above 0. -/
structure Rat2 where
  n : Int
  d : Nat
  deriving DecidableEq, Repr

namespace Q

/-- An integer. -/
def int (i : Int) : Rat2 := ⟨i, 1⟩

/-- A quotient of naturals. -/
def frac (a b : Nat) : Rat2 := ⟨a, b⟩

/-- A finite value; an infinity or a NaN counts as 0 here, and callers test for them first. -/
def ofVal : Val → Rat2
  | .fin neg m e =>
    let i : Int := if neg then -(m : Int) else m
    if e ≥ 0 then ⟨i * ((2 ^ e.toNat : Nat) : Int), 1⟩ else ⟨i, 2 ^ (-e).toNat⟩
  | _ => ⟨0, 1⟩

/-- A finite binary32 pattern. -/
def f32 (x : Word) : Rat2 := ofVal (decodeRaw .f32 x.toNat)

def add (a b : Rat2) : Rat2 := if a.d = b.d then ⟨a.n + b.n, a.d⟩ else ⟨a.n * b.d + b.n * a.d, a.d * b.d⟩
def neg (a : Rat2) : Rat2 := ⟨-a.n, a.d⟩
def sub (a b : Rat2) : Rat2 := add a (neg b)
def mul (a b : Rat2) : Rat2 := ⟨a.n * b.n, a.d * b.d⟩

/-- A quotient; callers test for a zero divisor first. -/
def div (a b : Rat2) : Rat2 :=
  if b.n < 0 then ⟨-(a.n * b.d), a.d * b.n.natAbs⟩ else ⟨a.n * b.d, a.d * b.n.natAbs⟩

def lt (a b : Rat2) : Bool := a.n * b.d < b.n * a.d
def le (a b : Rat2) : Bool := a.n * b.d ≤ b.n * a.d
def min (a b : Rat2) : Rat2 := if lt b a then b else a
def max (a b : Rat2) : Rat2 := if lt a b then b else a
def floor (a : Rat2) : Int := a.n / a.d
def ceil (a : Rat2) : Int := -((-a.n) / a.d)

/-- The sum of a list. -/
def sum (l : List Rat2) : Rat2 := l.foldl add (int 0)

/-- A rational as a value that every rounding treats as the rational itself: a quotient of more bits than any format
holds, and a sticky bit below. -/
def val (a : Rat2) : Val :=
  if a.n = 0 then .zero false
  else
    let m := a.n.natAbs
    let k := 96 + Nat.log2 a.d
    sticky (a.n < 0) (m * 2 ^ k % a.d = 0) (m * 2 ^ k / a.d) (-(k : Int))

/-- RoundTo of 03_numbers R54 in a format and mode, under flush modes, with the %fstat bits it raises. -/
def roundIn (t : Ty) (fm : FMode) (r : Rnd) (a : Rat2) : Nat × Flags := roundTo t fm r (val a)

/-- RoundTo without flushing, as the view rounds: a sample has one position whoever asks for it (16_view R313; log 76). -/
def round (t : Ty) (r : Rnd) (a : Rat2) : Nat := (roundTo t {} r (val a)).1

/-- RoundTo(x, .f32, RNE). -/
def f32Of (a : Rat2) : Word := BitVec.ofNat 32 (round .f32 .rne a)

end Q

/-- A binary32 pattern is finite. -/
def finite32 (x : Word) : Bool := bits x.toNat 30 23 ≠ 255

/-- A binary32 pattern is a NaN. -/
def isNan32 (x : Word) : Bool := (decodeRaw .f32 x.toNat).isNan

/-- The canonical NaN of binary32 (03_numbers R53). -/
def nan32 : Word := 0x7FC00000

/-- The exact sum of products of binary32 patterns rounded once, RNE: infinities and NaNs follow 04_lane R74. -/
def dot32 (l : List (Word × Word)) : Word :=
  let s := l.foldl (fun acc p =>
    (addVal .rne acc (mulVal (decodeRaw .f32 p.1.toNat) (decodeRaw .f32 p.2.toNat)).1).1) (.zero true)
  BitVec.ofNat 32 (roundTo .f32 {} .rne s).1

/-- A quotient of finite binary32 patterns rounded once, RNE; its sign is that of the operands together. A zero divisor
gives a value that is not finite. -/
def div32 (a b : Word) : Word :=
  match decodeRaw .f32 a.toNat, decodeRaw .f32 b.toNat with
  | .fin na ma ea, .fin nb mb eb =>
    if mb = 0 then (if ma = 0 then nan32 else BitVec.ofNat 32 (roundTo .f32 {} .rne (.inf (na != nb))).1)
    else
      let k := 96 + Nat.log2 mb
      BitVec.ofNat 32 (roundTo .f32 {} .rne
        (if ma = 0 then .zero (na != nb)
         else sticky (na != nb) (ma * 2 ^ k % mb = 0) (ma * 2 ^ k / mb) (ea - eb - k))).1
  | _, _ => nan32

/-- A difference rounded once, RNE. -/
def sub32 (a b : Word) : Word := BitVec.ofNat 32 (fSub .f32 {} .rne a.toNat b.toNat).1

end Sys2Proof.Machine
end

