-- ==== Sys2Proof/Machine/Access.lean ====
section
/-!
DEFINITION. The path of every thread access to memory (05_memory R89 to R107): addresses, the checks of R107 in their
order, the bytes reached, loads and queued stores.
-/
namespace Sys2Proof.Machine

/-- One lane's access: its address (64 bits with the module field, or 32 bits). -/
structure LaneAcc where
  lane : Nat
  addr : Nat
  deriving DecidableEq, Repr

/-- How the checks of an access end. -/
inductive Checked where
  /-- a trap, in the state that the walks before it have left -/
  | trap (s : State) (t : Trap)
  | park (s : State) (p : Park)
  /-- each lane's bytes, in address order -/
  | ok (s : State) (bytes : List (Nat × List Loc))
  deriving DecidableEq, Repr

/-- A trap of the lanes that meet a condition: ADDR is the lowest lane's address (07_context R146). -/
def laneTrap (c : Cause) (bad : List LaneAcc) (info : Nat := 0) : Trap :=
  { cause := c, tmask := bad.foldl (fun m a => m ||| Mask.single a.lane) 0,
    addr := match bad with | a :: _ => a.addr | [] => 0, info := info }

/-- A module field of a global address (05_memory R90). -/
def moduleOf (addr : Nat) : Nat := addr / 2 ^ 52

/-- A valid entry of a context's module map (18_link R363). -/
def Ctx.mapped (c : Ctx) (f : Nat) : Bool := bit (Tab.get 0 c.map f).toNat 31

/-- A context's chip-scratchpad grant on a die: first byte and size (07_context R139). -/
def Ctx.grant (c : Ctx) (die : Nat) : Nat × Nat :=
  let g := nth 0 c.d.cspg die
  (bits g 11 0 * 65536, bits g 23 12 * 65536)

/-- A die belongs to a context's partition (07_context R139). -/
def Ctx.hasDie (c : Ctx) (die : Nat) : Bool := c.d.pbase ≤ die && die < c.d.pbase + 2 ^ c.d.psize

/-- Bytes lie wholly inside a region given as SIZE and BASE in lines (05_memory R91). -/
def inRegion (base size off n : Nat) : Bool := base * 128 ≤ off && off + n ≤ (base + size) * 128

/-- Bytes lie inside one of the group's two regions (05_memory R91). -/
def Group.owns (x : Group) (off n : Nat) : Bool :=
  inRegion (bits x.ctl.sppriv 11 0) (bits x.ctl.sppriv 28 16) off n
    || inRegion (bits x.ctl.spteam 11 0) (bits x.ctl.spteam 28 16) off n

/-- Where a window access lies for a team (05_memory R92): in a region it may reach, in that of an exited group, or
nowhere. -/
inductive Reach where
  | inside | peer | outside
  deriving DecidableEq, Repr

/-- A window access of a team on a core (05_memory R92). -/
def Team.window (t : Team) (core off n : Nat) : Reach :=
  if t.cores.any (fun c => c.core = core && inRegion c.region t.kern.spTeam off n) then .inside
  else
    match t.privs.find? (fun p => p.2.1 = core && inRegion p.2.2.1 t.kern.spPriv off n) with
    | some p => if p.2.2.2 then .inside else .peer
    | none => .outside

/-- The virtual address of byte x of a lane's stack (05_memory R94). -/
def Group.stackVa (x : Group) (lane off : Nat) : Nat :=
  (x.ctl.stkbase + off / 4 * (4 * x.w) + 4 * lane + off % 4) % 2 ^ 52

/-- The byte addresses of an access that are translated: virtual addresses, or none where the space is not translated. -/
def Group.vas (x : Group) (space n : Nat) (a : LaneAcc) : List Nat :=
  if space = 4 then (List.range n).map (fun i => x.stackVa a.lane (a.addr + i))
  else if space = 0 && moduleOf a.addr = 0 then (List.range n).map (fun i => (a.addr + i) % 2 ^ 52)
  else []

/-- The core and offset that a scratchpad or window address names. -/
def Group.spPlace (x : Group) (space addr : Nat) : Nat × Nat :=
  if space = 2 then (clusterOfCore x.core * 4 + bits addr 20 19, addr % 2 ^ 19) else (x.core, addr)

/-- Step 4 of R107: an address outside its space, region, grant, partition or module map. `each`: the bytes may lie in several
regions of the group (14_tile R279). -/
def Env.outside (v : Env) (s : State) (space n : Nat) (atomic scopeSys each : Bool) (a : LaneAcc) : Bool :=
  let c := s.ctx v.c
  match space with
  | 0 =>
    let f := moduleOf a.addr
    f ≠ 0 && (!c.mapped f || (atomic && !scopeSys))
  | 1 => 2 ^ 19 < a.addr + n || !(if each then (List.range n).all (fun i => v.x.owns (a.addr + i) 1) else v.x.owns a.addr n)
  | 2 => 2 ^ 21 ≤ a.addr || v.team.window (v.x.spPlace 2 a.addr).1 (a.addr % 2 ^ 19) n = .outside
  | 3 =>
    let die := bits a.addr 30 28
    let off := a.addr % 2 ^ 28
    let g := c.grant die
    2 ^ 31 ≤ a.addr || 0x0C000000 < off + n || !c.hasDie die || !(g.1 ≤ off && off + n ≤ g.1 + g.2)
  | _ => false

/-- The range-lock entries that an access meets, and whether one raises RLOCK (05_memory R122). -/
def Env.locked (v : Env) (s : State) (space n : Nat) (write : Bool) (a : LaneAcc) : List Nat :=
  let hits := match space with
    | 0 => (s.core v.x.core).hitLocks .glob a.addr (a.addr + n)
    | 1 | 2 =>
      let p := v.x.spPlace space a.addr
      (s.core p.1).hitLocks .sp p.2 (p.2 + n)
    | 3 => (s.core v.x.core).hitLocks .csp a.addr (a.addr + n)
    | _ => []
  (hits.filter (fun h => write || (h.2.dst && h.2.space ≠ .sp))).map (·.1)

/-- Where the group's translations are asked for. -/
def Env.site (v : Env) : Site := .core v.x.core

/-- The leaf that serves a byte, from the caches of the group's core. -/
def Env.leaf (v : Env) (s : State) (va : Nat) : Option Leaf := s.cached v.site v.c va

/-- The first of some addresses in each base page that they lie in. -/
def pagesOf (vas : List Nat) : List Nat := vas.eraseDupsBy (fun a b => a / 65536 = b / 65536)

/-- The leaves that an access uses. -/
def Env.via (v : Env) (s : State) (vas : List Nat) : List Leaf := ((pagesOf vas).filterMap (v.leaf s)).eraseDups

/-- The leaves of every page of an access, confirmed by a fresh walk where a write lacks a permission or meets a migrating page;
the first page that has none, or that migrates, with the leaf that says so (06_page R129, R130). -/
def Env.lookAll (v : Env) (write : Bool) : List Nat → State → State × Option (Nat × Option Leaf)
  | [], s => (s, none)
  | va :: vas, s =>
    match s.look v.site v.c va (fun e => !write || pteOpen e) with
    | (s, .fault _ _ _ _) | (s, .link) => (s, some (va, none))
    | (s, .leaf l) => if write && pteM l.pte then (s, some (va, some l)) else v.lookAll write vas s

/-- Every leaf of a group's write made dirty; a page whose entry has changed must be walked again (06_page R131). -/
def Env.dirtyAll (v : Env) (vas : List Nat) (s : State) : State × Option Nat := s.dirtyAll v.site v.c vas

/-- The place of each byte of an access. -/
def Env.locs (v : Env) (s : State) (space n : Nat) (a : LaneAcc) : List Loc :=
  let phys (va : Nat) : Nat × Nat := match v.leaf s va with
    | some l => (l.pa va, pteKey l.pte)
    | none => (0, 0)
  match space with
  | 0 =>
    if moduleOf a.addr = 0 then (v.x.vas 0 n a).map (fun va => .mem (phys va).1 (phys va).2)
    else
      let e := (Tab.get 0 (s.ctx v.c).map (moduleOf a.addr)).toNat
      (List.range n).map (fun i => .far (bits e 11 0) (bits e 23 18) v.c ((a.addr + i) % 2 ^ 52))
  | 1 | 2 =>
    let p := v.x.spPlace space a.addr
    (List.range n).map (fun i => .sp p.1 (p.2 + i))
  | 3 => (List.range n).map (fun i => .csp (bits a.addr 30 28) (a.addr % 2 ^ 28 + i))
  | _ => (v.x.vas 4 n a).map (fun va => .stk (phys va).1 (phys va).2)

/-- The scratchpad lines that bytes lie in. -/
def linesOf (bytes : List (Nat × List Loc)) : List (Nat × Nat) :=
  ((bytes.map (·.2)).flatten.filterMap (fun l => match l with | .sp c o => some (c, o / 128) | _ => none)).eraseDups

/-- The kind of access that is checked. -/
structure AccKind where
  space : Nat
  /-- bytes a lane reaches -/
  n : Nat
  align : Nat
  write : Bool
  atomic : Bool := false
  /-- the scope named is .sys -/
  sys : Bool := false
  /-- range locks are checked (step 9): thread accesses, not an engine's -/
  locks : Bool := true
  /-- the bytes of a row may lie in several regions of the group, and D is left to the caller: a tdrain (14_tile R279) -/
  rows : Bool := false
  deriving DecidableEq, Repr

/-- What a PAGE at step 6 of R107 would report: the lanes whose walk fails or whose page migrates, else those with no cached
leaf, and the lowest one's address; of a tdrain, Active and the address that it names (07_context R146, 14_tile R279). -/
def Env.notePage (v : Env) (s : State) (k : AccKind) (as : List LaneAcc) : State :=
  let walked (real : Bool) (va : Nat) : Bool := match s.walk v.die v.c va with
    | .leaf l => !real || (k.write && pteM l.pte)
    | .fault _ _ _ _ | .link => true
  let lacks (real : Bool) (va : Nat) : Bool := match v.leaf s va with
    | some l => k.write && !pteOpen l.pte && walked true va
    | none => walked real va
  let at_ (real : Bool) : List LaneAcc := as.filter (fun a => (v.x.vas k.space k.n a).any (lacks real))
  let bad := if at_ true = [] then at_ false else at_ true
  s.modGroup v.g (fun x => x.modFlow (fun f => { f with
    pageLanes := if k.rows then v.act else bad.foldl (fun m a => m ||| Mask.single a.lane) 0
    pageAddr := ((if k.rows then as else bad).map (·.addr)).headD 0 }))

/-- The checks of R107 after ILL, over all lanes of Active, and parking on absent lines (R95). A leaf that another page of the
access has just driven out of the caches is walked again. -/
def Env.check (v : Env) (s : State) (k : AccKind) (as : List LaneAcc) : Checked :=
  let bad (p : LaneAcc → Bool) : List LaneAcc := as.filter p
  let vas := ((as.map (v.x.vas k.space k.n)).flatten)
  match bad (fun a => a.addr % k.align ≠ 0) with
  | b :: bs => .trap s (laneTrap .align (b :: bs))
  | [] =>
  match bad (fun a => k.space = 4 && v.x.ctl.stklim < a.addr + k.n) with
  | b :: bs => .trap s (laneTrap .stack (b :: bs))
  | [] =>
  match bad (v.outside s k.space k.n k.atomic k.sys k.rows) with
  | b :: bs => .trap s (laneTrap .prot (b :: bs))
  | [] =>
  match bad (fun a => k.space = 2 && v.team.window (v.x.spPlace 2 a.addr).1 (a.addr % 2 ^ 19) k.n = .peer) with
  | b :: bs => .trap s (laneTrap .peer (b :: bs))
  | [] =>
  match vas.find? (fun va => (v.leaf s va).isNone) with
  | some va => .park (v.notePage s k as) (.walk va k.write false)
  | none =>
  match v.lookAll k.write (pagesOf vas) s with
  | (s, some (va, some l)) =>
    let (s, p) := (v.notePage s k as).parkFault v.g v.x.core v.c false true va 1 l.level l.pte l.entry
    .park s p
  | (s, some (va, none)) => .park (v.notePage s k as) (.walk va k.write false)
  | (s, none) =>
  match vas.find? (fun va => (v.leaf s va).isNone) with
  | some va => .park (v.notePage s k as) (.walk va k.write false)
  | none =>
  let s := s.walked (Party.isGroup v.g)
  let leafIs (p : Nat → Bool) (va : Nat) : Bool := match v.leaf s va with
    | some l => p l.pte
    | none => false
  match bad (fun a => k.write && (v.x.vas k.space k.n a).any (leafIs (fun e => !pteW e))) with
  | b :: bs => .trap s (laneTrap .prot (b :: bs))
  | [] =>
  match bad (fun a => (v.x.vas k.space k.n a).any (leafIs pteC)) with
  | b :: bs => .trap s (laneTrap .compr (b :: bs))
  | [] =>
  match bad (fun a => k.locks && (v.locked s k.space k.n k.write a) ≠ []) with
  | b :: bs =>
    let ns := ((b :: bs).map (v.locked s k.space k.n k.write)).flatten
    .trap s (laneTrap .rlock (b :: bs) (ns.foldl min 63))
  | [] =>
  let bytes := as.map (fun a => (a.lane, v.locs s k.space k.n a))
  let absent := (linesOf bytes).filter (fun p => !s.present p.1 p.2)
  if !k.write && absent ≠ [] then .park s (.absent absent)
  else if k.write && !k.rows then
    match v.dirtyAll (pagesOf vas) s with
    | (s, none) => .ok s bytes
    | (s, some va) => .park (v.notePage s k as) (.walk va true false)
  else .ok s bytes

/-- The address of lane l: A as a pair in global space, the offset C added modulo 2^52, or a 32-bit sum (R90, R99). -/
def Env.addr (v : Env) (space : Nat) (a : BitVec 8) (off : Int) (l : Nat) : Nat :=
  if space = 0 then
    let p := readPair v.x.regs v.e.t.lit a.toNat l
    p / 2 ^ 52 * 2 ^ 52 + wrap 52 (((p % 2 ^ 52 : Nat) : Int) + off)
  else wrap 32 (((v.read a .b32 l).toNat : Int) + off)

/-- A value of `size` bytes extended to 32 bits under a type (R100). -/
def extendAs (t : Ty) (x : Nat) : Word := if t.isI then wrapWord (signed t.width x) else BitVec.ofNat 32 x

/-- The group may not access memory yet: an acquire of another module is outstanding (R114). -/
def Group.acquiring (x : Group) : Bool := x.io.pend.any (fun p => p.acq)

/-- Every earlier access is performed: no queued store and no load in flight (R114). -/
def Group.drained (x : Group) : Bool := x.io.sq.isEmpty && x.io.pend.all (fun p => !p.isLoad)

/-- One register that a load writes: `n` bytes from byte `off` of the lane's access, extended under a type, or put into one
byte of the register's old value. -/
structure Piece where
  reg : Reg
  off : Nat
  n : Nat
  ty : Ty
  byte : Option Nat := none
  deriving DecidableEq, Repr

/-- The value that a piece gives its register (05_memory R100, R104). -/
def pieceValue (ty : Ty) (byte : Option Nat) (old : Word) (x : Nat) : Word :=
  match byte with
  | none => extendAs ty x
  | some k => BitVec.ofNat 32 (old.toNat - bits old.toNat (8 * k + 7) (8 * k) * 2 ^ (8 * k) + putBits x 8 (8 * k))

/-- The old value of a register in a lane. -/
def Regs.read (r : Regs) (reg : Reg) (l : Nat) : Word :=
  match reg with
  | .v n => r.getV n l
  | .s n => r.getS n
  | .q n => if (r.getQ n).has l then 1 else 0

/-- A load enters flight: its values are read now, written when it returns (R100, R106; log 3). A load of another module
awaits its values, lane by lane (18_link R365); while a store to another module is queued it waits for that store (log 3).
Loads are performed in program order (R113), so a load of this module waits for those of other modules before it. -/
def Env.load (v : Env) (s : State) (pieces : List Piece) (acq : Bool) (as : List LaneAcc)
    (bytes : List (Nat × List Loc)) : Eff :=
  match s.group v.g with
  | none => .done s
  | some x =>
    let away := bytes.filter (fun b => b.2.any Loc.isFar)
    let here := bytes.filter (fun b => !b.2.any Loc.isFar)
    if away ≠ [] && x.io.sq.any (fun e => e.far) then .park s .ownAtomic
    else if here ≠ [] && x.io.pend.any Pend.isFar then .park s .earlierLoad
    else
      let one (b : Nat × List Loc) : Option (List (Reg × Nat × Word)) :=
        pieces.mapM (fun q => (((b.2.drop q.off).take q.n).mapM (s.readOwn v.g)).map (fun bs =>
          (q.reg, b.1, pieceValue q.ty q.byte (x.regs.read q.reg b.1) (ofBytes bs))))
      match here.mapM one with
      | none => .park s .ownAtomic
      | some vals =>
        let (id, s) := s.fresh
        let word (b : Nat × List Loc) : List FarWord := pieces.map (fun q => ⟨q.reg, b.1, q.ty, q.byte⟩)
        let p : Pend :=
          { id := id, regs := pieces.map (·.reg), vals := vals.flatten, flag := v.flag, pc := v.cl.own
            kind := if away = [] then .load else .far ((away.map word).flatten)
            lanes := v.act
            addr := match as with | a :: _ => a.addr | [] => 0
            acq := acq && away ≠ [], homes := homesOf (bytes.map (·.2)).flatten }
        .done ((s.sendLoads false (away.map (·.2)).flatten).modGroup v.g (fun x =>
          (x.modIo (fun io => { io with pend := io.pend ++ [p] })).count v.flag))

/-- A store or atomic enters the store queue; the lines it touches leave the stitch table (R97, R100, 11_register R217). -/
def Env.enqueue (v : Env) (s : State) (e : SqEnt) (lines : List (Nat × Nat)) : State :=
  let s := lines.foldl (fun s p => s.unstitch p.1 p.2) s
  s.modGroup v.g (fun x => (x.modIo (fun io => { io with
    sq := io.sq ++ [{ e with after := (io.pend.filter Pend.isFar).map (·.id) }] })).count e.flag)

/-- The access waits: an acquire of another module is outstanding (R114), or it needs a store-queue entry and all 32 are
taken (R97). -/
def Env.busy (v : Env) (store : Bool) : Option Park :=
  if v.x.acquiring then some .drain
  else if store && v.x.io.sq.length ≥ 32 then some .storeFull
  else none

end Sys2Proof.Machine
end

