-- ==== Sys2Proof/Machine/Handle.lean ====
section
/-!
DEFINITION. Event counters (08_queue R157, R158), and buffer handles with their states (13_transfer R249, R250).
-/
namespace Sys2Proof.Machine

/-- Reached of 08_queue R158. -/
def reached (v t : Nat) : Bool := (v + 2 ^ 32 - t % 2 ^ 32) % 2 ^ 32 < 2 ^ 31

/-- An event counter of a context. -/
def State.counter (s : State) (c k : Nat) : Word := Tab.get 0 (s.ctx c).ctr k

/-- The fields of a record's waits (08_queue R160): enable, counter and target of wait 0 and wait 1. -/
def waitOf (ws : RecordWords) (one : Bool) : Bool × Nat × Nat :=
  let c := (nth 0 ws 7).toNat
  let f := (nth 0 ws 6).toNat
  if one then (bit f 12, bits c 31 24, (nth 0 ws 9).toNat) else (bit f 11, bits c 23 16, (nth 0 ws 8).toNat)

/-- A wait of a record is met: it does not apply, or the counter has reached its target (08_queue R158). -/
def waitMet (w : Bool × Nat × Nat) (ctr : Nat → Word) : Bool := !w.1 || reached (ctr w.2.1).toNat w.2.2

/-- The waits of a record tested: a met wait stays met (08_queue R158, R165). -/
def Record.test (r : Record) (ctr : Nat → Word) : Record :=
  { r with met0 := r.met0 || waitMet (waitOf r.words false) ctr, met1 := r.met1 || waitMet (waitOf r.words true) ctr }

/-- The groups of a context parked in an evwait that is met go on (08_queue R158). -/
def State.wakeEvent (s : State) (c k : Nat) : State :=
  let v := (s.counter c k).toNat
  let one (e : Nat × Group) : Nat × Group :=
    let mine : Bool := match s.team e.2.team with
      | some t => t.ctx = c && e.2.on
      | none => false
    match e.2.flow.park with
    | some (.event n t) => if mine && n = k && reached v t.toNat then (e.1, e.2.advanceParked) else e
    | _ => e
  { s with groups := s.groups.map one }

/-- An amount added to an event counter: every wait on it is tested (08_queue R157, R158). -/
def State.signal (s : State) (c k : Nat) (amount : Word) : State :=
  let s := s.modCtx c (fun x => { x with ctr := Tab.set 0 x.ctr k (Tab.get 0 x.ctr k + amount) })
  let one (e : Nat × Record) : Nat × Record := if e.2.ctx = c then (e.1, e.2.test (s.counter c)) else e
  let s := { s with records := s.records.map one }
  s.wakeEvent c k

/-- A handle of a core. -/
def Core.handle (c : Core) (h : Nat) : Handle := Tab.get {} c.handles h

/-- A handle of a core replaced. -/
def State.putHandle (s : State) (core h : Nat) (x : Handle) : State :=
  s.modCore core (fun c => { c with handles := Tab.set {} c.handles h x })

/-- The groups that wait for a handle to enter a state go on (13_transfer R258). -/
def State.wakeHandle (s : State) (core h : Nat) (st : HSt) : State :=
  { s with groups := s.groups.map (fun e =>
      if e.2.core = core ∧ e.2.on ∧ e.2.flow.park = some (.handle h st.code) then (e.1, e.2.advanceParked) else e) }

/-- A handle enters a state: entry into Free fires its pending signal, and the waiting groups go on (13_transfer R250). -/
def State.enterHandle (s : State) (core h : Nat) (st : HSt) : State :=
  let x := (s.core core).handle h
  let s := s.putHandle core h
    (if st = .free then { x with st := .free, keep := false, sig := none }
     else if st = .full then { x with st := .full, keep := if x.st = .draining then false else x.keep }
     else { x with st := st })
  let s := match st, x.sig with
    | .free, some (c, k) => s.signal c k 1
    | _, _ => s
  s.wakeHandle core h st

/-- Every line of a handle's range is present. -/
def State.rangePresent (s : State) (core : Nat) (x : Handle) : Bool :=
  (List.range x.size).all (fun i => s.present core (x.base + i))

/-- Filling handles of a core whose FILLS are 0 and whose lines are all present become Full (13_transfer R250). -/
def State.refreshHandles (s : State) (core : Nat) : State :=
  (List.range 64).foldl (fun s h =>
    let x := (s.core core).handle h
    if x.st = .filling ∧ x.fills = 0 ∧ s.rangePresent core x then s.enterHandle core h .full else s) s

/-- Scratchpad bytes have been performed: the Filling handles of their cores whose last absent line is now present become
Full (13_transfer R250). -/
def State.refreshLocs (s : State) (ls : List Loc) : State :=
  let cores := (ls.filterMap (fun l => match l with | .sp c _ => some c | _ => none)).eraseDups
  cores.foldl State.refreshHandles s

end Sys2Proof.Machine
end

