-- ==== Sys2Proof/Machine/Memory.lean ====
section
/-!
DEFINITION. The memory families MX, VL and VS (05_memory R97 to R110, R114), and the events that complete an access
(R106) and start an invalidation of translations (06_page R132).
-/
namespace Sys2Proof.Machine

/-- The offset C of lane l (R99). -/
def Env.offC (v : Env) (l : Nat) : Int := signed 32 (v.read v.e.t.x.c .b32 l).toNat

/-- The accesses of the lanes of Active at A plus an offset. -/
def Env.accs (v : Env) (space : Nat) (off : Nat → Int) : List LaneAcc :=
  v.lanes.map (fun l => ⟨l, v.addr space v.e.t.a (off l) l⟩)

/-- What follows the checks of an access. -/
def checked (r : Checked) (f : State → List (Nat × List Loc) → Eff) : Eff :=
  match r with
  | .trap s t => .trap s t
  | .park s p => .park s p
  | .ok s bytes => f s bytes

/-- A store queue of the core holds a store to one of these lines (11_register R217). -/
def State.storedTo (s : State) (core : Nat) (lines : List Nat) : Bool :=
  let hit (e : SqEnt) : Bool :=
    let at_ (l : Loc) : Bool := match l with
      | .sp c o => c = core && lines.contains (o / 128)
      | _ => false
    match e.work with
    | .store cells => cells.any (fun c => at_ c.1)
    | .atomic _ _ ls _ => ls.any (fun a => at_ a.loc)
  s.groups.any (fun g => g.2.core = core && g.2.io.sq.any hit)

/-- The memory lines that bytes lie in, in this module or another. -/
def memLines (bytes : List (Nat × List Loc)) : List Nat := ((bytes.map (·.2)).flatten.filterMap Loc.roLine).eraseDups

/-- A load that has issued at the stitch table: the entry that it hits or will enter (11_register R215). -/
def Env.stitchLoad (v : Env) (lines : List Nat) (ro : Bool) (s : State) : State :=
  match (s.group v.g).bind (fun x => x.io.pend.getLast?.map (fun p => (x, p))) with
  | none => s
  | some (x, p) =>
    if v.mayReuse s then
      let y := x.modRegs (fun r => p.vals.foldl (fun r w => r.write w.1 w.2.1 w.2.2) r)
      let e := { v.entry s [] with value := y.valueOf p.regs, lines := lines, ro := ro, load := some p.id }
      s.modPool v.x.core (fun q => q.ask e (!p.isFar))
    else s

/-- A load that the stitch table may hold looks there as it issues, and enters as it completes (11_register R215 to R217; log
13). -/
def Env.noteLoad (v : Env) (space : Nat) (ro : Bool) (bytes : List (Nat × List Loc)) (s : State) : State :=
  let ps := linesOf bytes
  let lines := ps.map (·.2)
  let lockedDst : Bool := lines.any (fun n =>
    ((s.core v.x.core).hitLocks .sp (128 * n) (128 * n + 128)).any (fun h => h.2.dst))
  if ro then v.stitchLoad (memLines bytes) true s
  else if (space = 1 || space = 2) && ps.all (fun p => p.1 = v.x.core) && lines.length ≤ 16
      && !s.storedTo v.x.core lines && !lockedDst then v.stitchLoad lines false s
  else s

/-- A load: the checks, then the values (R100, R107). -/
def Env.loadOp (v : Env) (s : State) (k : AccKind) (pieces : List Piece) (acq : Bool) (as : List LaneAcc)
    (once : Bool) (note : Option Bool) : Eff :=
  if as = [] then .done s
  else
    match v.busy false with
    | some p => .park s p
    | none =>
      checked (v.check s k as) (fun s bytes =>
        match v.load s pieces acq as (if once then bytes.take 1 else bytes) with
        | .done s => .done (match note with
          | some ro => v.noteLoad k.space ro bytes s
          | none => s)
        | e => e)

/-- The pieces of a load of `n` words of a type into registers from `mk 0`. -/
def wordPieces (mk : Nat → Reg) (ty : Ty) (n : Nat) : List Piece :=
  (List.range n).map (fun j => ⟨mk j, 4 * j, ty.width / 8, ty, none⟩)

/-- The type in MOD2. -/
def TwoWord.ty (w : TwoWord) : Ty := Ty.ofCode (w.x.mod2.toNat % 16)

/-- The bytes that a vector access of `n` words moves. -/
def accBytes (ty : Ty) (n : Nat) : Nat := if n = 1 then ty.width / 8 else 4 * n

/-- A vector load of `n` words a lane (R100). -/
def vecLoad (w : TwoWord) (n : Nat) (acq : Bool) (note : Option Bool) (v : Env) (s : State) : Eff :=
  let size := accBytes (TwoWord.ty w) n
  v.loadOp s { space := spaceOf w, n := size, align := size, write := false }
    (wordPieces (fun j => .v (v.d + j)) (TwoWord.ty w) n) acq (v.accs (spaceOf w) v.offC) false note

/-- A store: the checks, then one store-queue entry with every lane's bytes in lane order (R97, R100, R107). -/
def Env.storeOp (v : Env) (s : State) (k : AccKind) (as : List LaneAcc) (once rel : Bool) (data : Nat → List Byte) : Eff :=
  if as = [] then .done s
  else
    match v.busy false with
    | some p => .park s p
    | none =>
      checked (v.check s k as) (fun s bytes =>
        match v.busy true with
        | some p => .park s p
        | none =>
          let bytes := if once then bytes.take 1 else bytes
          let cells := (bytes.map (fun b => b.2.zip (data b.1))).flatten
          let far := cells.any (fun c => c.1.isFar)
          .done (v.enqueue s
            { work := .store cells, flag := v.flag, pc := v.cl.own
              lanes := v.act
              addr := match as with | a :: _ => a.addr | [] => 0
              far := far, rel := rel, via := v.via s (as.map (v.x.vas k.space k.n)).flatten } (linesOf bytes)))

/-- A vector store of `n` words a lane (R100). -/
def vecStore (w : TwoWord) (n : Nat) (rel : Bool) (v : Env) (s : State) : Eff :=
  let size := accBytes (TwoWord.ty w) n
  let one : Nat := if n = 1 then size else 4
  v.storeOp s { space := spaceOf w, n := size, align := size, write := true } (v.accs (spaceOf w) v.offC) false rel
    (fun l => ((List.range n).map (fun j => toBytes one (v.x.regs.getV (v.d + j) l).toNat)).flatten)

/-- The space of a short access: SP 0 global, 1 scratchpad (R102). -/
def shortSpace (w : ShortMem) : Nat := if w.sp then 1 else 0

/-- ldo (R102). -/
def execLdo (w : ShortMem) (s : State) : Out :=
  runWord (.ldo w) noIll (fun v s =>
    v.loadOp s { space := shortSpace w, n := 4, align := 4, write := false } (wordPieces (fun j => .v (v.d + j)) .b32 1)
      false (v.accs (shortSpace w) (fun _ => 4 * (w.off.toNat : Int))) false (some false)) s

/-- sto (R102). -/
def execSto (w : ShortMem) (s : State) : Out :=
  runWord (.sto w) noIll (fun v s =>
    v.storeOp s { space := shortSpace w, n := 4, align := 4, write := true }
      (v.accs (shortSpace w) (fun _ => 4 * (w.off.toNat : Int))) false false
      (fun l => toBytes 4 (v.x.regs.getV v.d l).toNat)) s

/-- ld (R100). -/
def execMxLd (w : TwoWord) (s : State) : Out := runWord (.mxLd w) noIll (vecLoad w 1 false (some false)) s

/-- st (R100). -/
def execMxSt (w : TwoWord) (s : State) : Out := runWord (.mxSt w) noIll (vecStore w 1 false) s

/-- ld.x2 (R100). -/
def execMxLdX2 (w : TwoWord) (s : State) : Out := runWord (.mxLdX2 w) noIll (vecLoad w 2 false (some false)) s

/-- st.x2 (R100). -/
def execMxStX2 (w : TwoWord) (s : State) : Out := runWord (.mxStX2 w) noIll (vecStore w 2 false) s

/-- ld.x4 (R100). -/
def execMxLdX4 (w : TwoWord) (s : State) : Out := runWord (.mxLdX4 w) noIll (vecLoad w 4 false (some false)) s

/-- st.x4 (R100). -/
def execMxStX4 (w : TwoWord) (s : State) : Out := runWord (.mxStX4 w) noIll (vecStore w 4 false) s

/-- ld.acq: performed before every later access of the group; ld.ro entries of the core's table go (R114, 11_register
R217). -/
def execMxLdAcq (w : TwoWord) (s : State) : Out :=
  runWord (.mxLdAcq w) noIll (fun v s =>
    match vecLoad w 1 true none v s with
    | .done s => .done (s.unstitchRo v.x.core)
    | e => e) s

/-- st.rel: performed only after every earlier access of the group (R114). -/
def execMxStRel (w : TwoWord) (s : State) : Out := runWord (.mxStRel w) noIll (vecStore w 1 true) s

/-- ldmx: one interleaved block a lane, its elements in v[D] onward and its scale byte in byte C of the register B
(R104). -/
def execMxLdmx (w : TwoWord) (s : State) : Out :=
  runWord (.mxLdmx w) noIll (fun v s =>
    let n : Nat := if TwoWord.ty w = .mx4 then 4 else 8
    let pieces := wordPieces (fun j => .v (v.d + j)) .b32 n
      ++ [⟨.v w.b.toNat, 4 * n, 1, .n8, some (w.x.c.toNat % 4)⟩]
    v.loadOp s { space := spaceOf w, n := 4 * n + 1, align := 1, write := false } pieces false
      (v.accs (spaceOf w) (fun _ => 0)) false none) s

/-- A pref of one line: the state after its walk, and the places of the line, none where it is dropped (R105). -/
def Env.prefetch (v : Env) (s : State) (space line : Nat) : State × List Loc :=
  let a : LaneAcc := ⟨0, line⟩
  if v.outside s space 128 false false false a || v.locked s space 128 true a ≠ [] then (s, [])
  else if space = 0 && moduleOf line = 0 then
    match s.look v.site v.c (line % 2 ^ 52) (fun _ => true) with
    | (s, .leaf l) => (s, if pteC l.pte then [] else v.locs s space 128 a)
    | (s, .fault _ _ _ _) | (s, .link) => (s, [])
  else (s, v.locs s space 128 a)

/-- pref: it may set A, a line of another module is asked for as a load asks (18_link R365), and its flag counts until the line
arrives or the last lane is dropped (R105). -/
def execMxPref (w : TwoWord) (s : State) : Out :=
  runWord (.mxPref w) noIll (fun v s =>
    let lines := ((v.accs (spaceOf w) v.offC).map (fun a => a.addr / 128 * 128)).eraseDups
    let r := lines.foldl (fun (p : State × List Loc) line =>
      let (s, ls) := v.prefetch p.1 (spaceOf w) line
      (s, p.2 ++ ls)) (s, [])
    if r.2 = [] then .done r.1
    else
      let (id, s) := (r.1.sendLoads false r.2).fresh
      let p : Pend := { id := id, regs := [], flag := v.flag, pc := v.cl.own, lanes := v.act, kind := .pref
                        homes := if r.2.any Loc.isFar then [9] else [] }
      .done (s.modGroup v.g (fun x => (x.modIo (fun io => { io with pend := io.pend ++ [p] })).count v.flag))) s

/-- The one access of a scalar form: the same for every lane, and made whatever Active holds (R101). -/
def Env.scalarAccs (v : Env) (space : Nat) : List LaneAcc :=
  if v.lanes = [] then [⟨0, v.addr space v.e.t.a (v.offC 0) 0⟩] else v.accs space v.offC

/-- sld (R101). -/
def execMxSld (w : TwoWord) (s : State) : Out :=
  runWord (.mxSld w) noIll (fun v s =>
    let size := accBytes (TwoWord.ty w) 1
    v.loadOp s { space := spaceOf w, n := size, align := size, write := false }
      (wordPieces (fun j => .s (v.d + j)) (TwoWord.ty w) 1) false (v.scalarAccs (spaceOf w)) true (some false)) s

/-- sst (R101). -/
def execMxSst (w : TwoWord) (s : State) : Out :=
  runWord (.mxSst w) noIll (fun v s =>
    let size := accBytes (TwoWord.ty w) 1
    v.storeOp s { space := spaceOf w, n := size, align := size, write := true } (v.scalarAccs (spaceOf w)) true false
      (fun _ => toBytes size (v.x.regs.getS v.d).toNat)) s

/-- ld.ro (R103): the model reads the byte at issue, one of the values the rule allows. -/
def execMxLdRo (w : TwoWord) (s : State) : Out := runWord (.mxLdRo w) noIll (vecLoad w 1 false (some true)) s

/-- The atomics in the order of R109, by which a remote access names them. -/
def atomOps : List AtomOp := [.add, .min, .max, .and, .or, .xor, .xchg, .cas]

/-- The new value of an atomic (R109). -/
def atomNew (op : AtomOp) (ty : Ty) (old b c : Word) : Word :=
  let f32 (x : Nat) : Word := BitVec.ofNat 32 x
  match op with
  | .add => if ty = .f32 then f32 (fAdd .f32 {} .rne old.toNat b.toNat).1 else old + b
  | .min =>
    if ty = .f32 then f32 (fMin .f32 {} old.toNat b.toNat)
    else if ty = .i32 then (if b.slt old then b else old) else (if b < old then b else old)
  | .max =>
    if ty = .f32 then f32 (fMax .f32 {} old.toNat b.toNat)
    else if ty = .i32 then (if old.slt b then b else old) else (if old < b then b else old)
  | .and => old &&& b
  | .or => old ||| b
  | .xor => old ^^^ b
  | .xchg => b
  | .cas => if old = c then b else old

/-- An atomic enters the store queue; v[D] is pending until it is performed (R97, R108, R109). For cas C is the compare
value and the address has no offset. -/
def atomic (op : AtomOp) (w : TwoWord) (v : Env) (s : State) : Eff :=
  let cas : Bool := op = .cas
  let as := v.accs (spaceOf w) (if cas then fun _ => 0 else v.offC)
  let ty := TwoWord.ty w
  if as = [] then .done s
  else
    match v.busy false with
    | some p => .park s p
    | none =>
      let k : AccKind :=
        { space := spaceOf w, n := 4, align := 4, write := true, atomic := true, sys := w.x.mod1 = 4 }
      checked (v.check s k as) (fun s bytes =>
        match v.busy true with
        | some p => .park s p
        | none =>
          let part (b : Nat × List Loc) : List AtomLane := match b.2 with
            | l :: _ => [⟨b.1, l, v.read w.b ty b.1, if cas then v.read w.x.c ty b.1 else 0⟩]
            | [] => []
          let lanes := (bytes.map part).flatten
          let far := lanes.any (fun a => a.loc.isFar)
          let (id, s) := s.fresh
          let mask := as.foldl (fun m a => m ||| Mask.single a.lane) 0
          let addr := match as with | a :: _ => a.addr | [] => 0
          let s := v.enqueue s
            { work := .atomic op ty lanes (some v.d), flag := v.flag, pc := v.cl.own, lanes := mask, addr := addr, far := far
              pend := some id, via := v.via s (as.map (v.x.vas k.space 4)).flatten } (linesOf bytes)
          let s := s.unstitchRo v.x.core
          .done (s.modGroup v.g (fun x => x.modIo (fun io =>
            { io with pend := io.pend ++ [{ id := id, regs := [.v v.d], flag := none, pc := v.cl.own, lanes := mask
                                            addr := addr, kind := .atomic }] }))))

/-- atom.add (R109). -/
def execMxAtomAdd (w : TwoWord) (s : State) : Out := runWord (.mxAtomAdd w) noIll (atomic .add w) s

/-- atom.min (R109). -/
def execMxAtomMin (w : TwoWord) (s : State) : Out := runWord (.mxAtomMin w) noIll (atomic .min w) s

/-- atom.max (R109). -/
def execMxAtomMax (w : TwoWord) (s : State) : Out := runWord (.mxAtomMax w) noIll (atomic .max w) s

/-- atom.and (R109). -/
def execMxAtomAnd (w : TwoWord) (s : State) : Out := runWord (.mxAtomAnd w) noIll (atomic .and w) s

/-- atom.or (R109). -/
def execMxAtomOr (w : TwoWord) (s : State) : Out := runWord (.mxAtomOr w) noIll (atomic .or w) s

/-- atom.xor (R109). -/
def execMxAtomXor (w : TwoWord) (s : State) : Out := runWord (.mxAtomXor w) noIll (atomic .xor w) s

/-- atom.xchg (R109). -/
def execMxAtomXchg (w : TwoWord) (s : State) : Out := runWord (.mxAtomXchg w) noIll (atomic .xchg w) s

/-- atom.cas (R109). -/
def execMxAtomCas (w : TwoWord) (s : State) : Out := runWord (.mxAtomCas w) noIll (atomic .cas w) s

/-- fence: the group parks until every earlier access is performed and the store queue is empty; its flag counts and
decrements at once (R106, R114). -/
def execMxFence (w : TwoWord) (s : State) : Out :=
  runWord (.mxFence w) noIll (fun v s => if v.x.drained then .done (s.unstitchRo v.x.core) else .park s .drain) s

/-- Registers of a group written, one value at a time. -/
def Group.writeRegs (x : Group) (vals : List (Reg × Nat × Word)) : Group :=
  x.modRegs (fun r => vals.foldl (fun r w => r.write w.1 w.2.1 w.2.2) r)

/-- One of a group's pending entries removed. -/
def Group.dropPend (x : Group) (id : Nat) : Group :=
  x.modIo (fun io => { io with pend := io.pend.filter (fun p => p.id ≠ id) })

/-- A free value for each register that a failed access would have written (05_memory R106; log 9). -/
def State.freeVals (s : State) : List (Reg × Nat) → List (Reg × Nat × Word) × State
  | [] => ([], s)
  | r :: rs =>
    let (n, s) := s.freeVal
    let (xs, s) := s.freeVals rs
    ((r.1, r.2, BitVec.ofNat 32 n) :: xs, s)

/-- The error that a later instruction takes (R106). -/
def lateOf (res : IoEnd) (pc : Word) (addr : Nat) (lanes : Mask) (regs : List Reg) : Late :=
  { trap := { cause := match res with | .link => .link | _ => .memerr, tmask := lanes, addr := addr, info := pc.toNat }
    regs := regs }

/-- The registers of a group hold what an access returned; an error waits for the instruction that takes it (R106). -/
def State.finish (s : State) (g : Nat) (flag : Option Nat) (res : IoEnd) (vals : List (Reg × Nat × Word))
    (late : Late) : State :=
  match res with
  | .ok => (s.rewrote g (vals.map (·.1))).modGroup g (fun x => (x.writeRegs vals).uncount flag)
  | _ =>
    let (vals, s) := s.freeVals (vals.map (fun w => (w.1, w.2.1)))
    (s.rewrote g (vals.map (·.1))).modGroup g (fun x => ((x.writeRegs vals).uncount flag).modIo (fun io => { io with late := io.late ++ [late] }))

/-- One lane of an atomic performed: the old value (R109). -/
def State.performLane (s : State) (g : Nat) (op : AtomOp) (ty : Ty) (a : AtomLane) : State × Word :=
  let old : Word := BitVec.ofNat 32 (ofBytes ((List.range 4).map (fun i => s.readLoc g (a.loc.add i))))
  let new := atomNew op ty old a.b a.c
  (s.writeCells g ((toBytes 4 new.toNat).mapIdx (fun i b => (a.loc.add i, b))), old)

/-- The lines that written bytes touch leave the stitch tables: a scratchpad's that of its core, a memory line, of this module or
of another, every core's (11_register R217). -/
def State.unstitchLocs (s : State) (ls : List Loc) : State :=
  ls.foldl (fun s l => match l with
    | .sp c o => s.unstitch c (o / 128)
    | _ => (l.roLine.map s.unstitchMem).getD s) s

/-- The places that a store-queue entry writes beyond the scratchpads and the stack cache. -/
def SqWork.places : SqWork → List Loc
  | .store cells => (cells.map (·.1)).filter (fun l => match l with | .stk .. => false | _ => true)
  | .atomic _ _ lanes _ => (lanes.map (·.loc)).filter (fun l => match l with | .stk .. => false | _ => true)

/-- A place at which an operation that ends so is performed: after LINK only where no path or link can have failed it (18_link
R362). -/
def State.landed (s : State) (die : Nat) (res : IoEnd) (l : Loc) : Bool :=
  res = .ok || (res = .link && (match l.home with
    | some h => !s.mayLink die h
    | none => true))

/-- The lanes of an atomic performed, each at its home: the old values; `data` are those that other modules answer (R109,
18_link R365). -/
def State.performLanes (s : State) (g die : Nat) (res : IoEnd) (op : AtomOp) (ty : Ty) :
    List AtomLane → List Nat → State × List Word
  | [], _ => (s, [])
  | a :: as, data =>
    if a.loc.isFar then
      let s := if res = .ok then
          s.sendAccess a.loc (.atomic (atomOps.idxOf op) ty.code a.b a.c) else s
      let r := s.performLanes g die res op ty as (data.drop 1)
      (r.1, BitVec.ofNat 32 (data.headD 0) :: r.2)
    else
      let (s, old) : State × Word := if s.landed die res a.loc then s.performLane g op ty a else (s, 0)
      let r := s.performLanes g die res op ty as data
      (r.1, old :: r.2)

/-- The oldest entry of a group's store queue is performed at its home, after the loads of other modules
that stand before it (R113). `data` are the old values that another module answers, by lane. Where it ends with LINK, what lies
at a home with a path is performed (log 69). -/
def State.performStore (s : State) (group : Nat) (res : IoEnd) (data : List Nat) : Option State :=
  match s.group group with
    | none => none
    | some x =>
      match x.io.sq with
      | [] => none
      | e :: rest =>
        let waits : Bool := x.io.pend.any (fun p => e.after.contains p.id || (e.rel && p.isLoad))
        let die := dieOfCore x.core
        if waits || !s.mayEnd die (homesOf e.work.places) res then none
        else
          let s := s.setGroup group (x.modIo (fun io => { io with sq := rest }))
          match e.work with
          | .store cells =>
            if res = .memerr then none
            else
              let here := cells.filter (fun c => s.landed die res c.1)
              let s := if res = .ok then s.sendStores false cells else s
              let s := ((s.writeCells group here).unstitchLocs (here.map (·.1))).refreshLocs (here.map (·.1))
              some (s.finish group e.flag res [] (lateOf res e.pc e.addr e.lanes []))
          | .atomic op ty lanes d =>
            let (s, olds) := s.performLanes group die res op ty lanes data
            let s := (s.unstitchLocs (lanes.map (·.loc))).refreshLocs (lanes.map (·.loc))
            let s := s.modGroup group (fun x => match e.pend with
              | some id => x.dropPend id
              | none => x)
            let vals : List (Reg × Nat × Word) := match d with
              | some d => (lanes.zip olds).map (fun p => (Reg.v d, p.1.lane, p.2))
              | none => []
            some (s.finish group e.flag res vals (lateOf res e.pc e.addr e.lanes (d.toList.map Reg.v)))

/-- STORE_PERFORMED (R106). -/
def execEvStorePerformed (group : Nat) (res : IoEnd) (data : List Nat) (s : State) : Out :=
  event ((s.corrected res).1.performStore group (s.corrected res).2 data)

/-- An upper-level entry lies on the walk to the range that an invalidation names (06_page R132). -/
def PgInv.above (p : PgInv) (u : Upper) : Bool :=
  match p.kind with
  | 0 => u.vpn = vpnOf u.level p.va
  | 1 => u.ctx = p.ctx
  | _ => true

/-- The leaf is named by an invalidation: KIND 0 names those of CTX and every global leaf (06_page R132). -/
def PgInv.names (p : PgInv) (l : Leaf) : Bool :=
  match p.kind with
  | 0 => (l.ctx = some p.ctx || l.ctx = none) && l.vpn = vpnOf l.level p.va
  | 1 => l.ctx = some p.ctx
  | 2 => l.ctx = none
  | _ => true

/-- A write to PGINV_CTL (06_page R132): ERR first, then BUSY; the other fields are held while BUSY reads 1. -/
def State.writePginvCtl (s : State) (x : Nat) : State :=
  let p := s.pginv
  let p := if bit x 30 then { p with err := false } else p
  if p.busy then { s with pginv := if bit x 31 then { p with err := true } else p }
  else { s with pginv := { p with busy := bit x 31, kind := bits x 11 10, ctx := bits x 5 0 } }

/-- PGINV_START: a write of PGINV_CTL with 1 in BUSY (06_page R132). -/
def execEvPginvStart (ctl : Word) (s : State) : Out :=
  hostWrite s (fun s => s.writePginvCtl (ctl.toNat ||| 2 ^ 31))

end Sys2Proof.Machine
end

