-- ==== Sys2Proof/Machine/Engine.lean ====
section
/-!
DEFINITION. What every engine shares: its own accesses to memory (06_page R129 to R134, 13_transfer R253), and the release of
an operation's flag and ranges.
-/
namespace Sys2Proof.Machine

/-- One transfer less into or out of a handle: the last of them changes its state (13_transfer R250, R252). -/
def State.handleDone (s : State) (core h : Nat) (fill err : Bool) : State :=
  let x := (s.core core).handle h
  let x := { x with err := x.err || err }
  if fill then (s.putHandle core h { x with fills := x.fills - 1 }).refreshHandles core
  else
    let s := s.putHandle core h { x with drains := x.drains - 1 }
    if x.drains = 1 ∧ x.st = .draining then s.enterHandle core h (if x.keep then .full else .free) else s

/-- The core's number of the team's handle h, or none at and above HNDL (13_transfer R249). -/
def Env.handleNo (v : Env) (h : Nat) : Option Nat :=
  if h < v.team.kern.hndl then
    (v.team.cores.find? (fun c => c.core = v.x.core)).map (fun c => c.handle0 + h)
  else none

/-- How an engine's access of bytes ends: their places, a page fault at an address, or a cause that stops it. -/
inductive Span where
  | ok (ls : List Loc)
  | fault (va reason level entry entryAddr : Nat)
  | stop (c : Cause) (va : Nat)
  deriving DecidableEq, Repr

/-- The address of byte i of an access (05_memory R90). -/
def byteAddr (addr i : Nat) : Nat := addr / 2 ^ 52 * 2 ^ 52 + (addr + i) % 2 ^ 52

/-- The base pages that n bytes touch: the address of the first byte in each, and how many lie there. -/
def pageRuns (addr n : Nat) : List (Nat × Nat) :=
  let starts := (List.range n).filter (fun i => i = 0 || (addr + i) % 65536 = 0)
  (starts.zip (starts.tail ++ [n])).map (fun p => (byteAddr addr p.1, p.2 - p.1))

/-- The virtual address of the first byte in each page. -/
def enginePages (addr n : Nat) : List Nat := (pageRuns addr n).map (fun p => p.1 % 2 ^ 52)

/-- The pages of an access translated in turn, and the places of their bytes. -/
def State.runPages (f : State → Nat → State × Xlat) : List (Nat × Nat) → State → State × Span
  | [], s => (s, .ok [])
  | (va, n) :: rs, s =>
    match f s va with
    | (s, .page r lv e pa) => (s, .fault va r lv e pa)
    | (s, .stop c) => (s, .stop c va)
    | (s, .ok l) =>
      match State.runPages f rs s with
      | (s, .ok ls) => (s, .ok ((List.range n).map (fun i => .mem (l.pa va + i) (pteKey l.pte)) ++ ls))
      | r => r

/-- Places that a unit of a die has a path to; else the access stops with LINK (01_module R13, 18_link R362). -/
def State.onPath (s : State) (die va : Nat) : Span → Span
  | .ok ls => if (homesOf ls).all (s.reaches die) then .ok ls else .stop .link va
  | r => r

/-- `n` bytes of an engine's access from an address, translated at once on the die and checked as the engine's rules say
(06_page R129 to R131; `copy`: a copy engine, which may reach a page that carries C). D is left to the write. -/
def State.engCheck (s : State) (die c : Nat) (csp write copy : Bool) (addr n : Nat) : State × Span :=
  if csp then
    let d := bits addr 30 28
    let g := (s.ctx c).grant d
    let ok (i : Nat) : Bool :=
      let off := (addr + i) % 2 ^ 28
      addr + i < 2 ^ 31 && bits (addr + i) 30 28 = d && (s.ctx c).hasDie d && g.1 ≤ off && off < g.1 + g.2
    match (List.range n).find? (fun i => !ok i) with
    | some i => (s, .stop .prot (addr + i))
    | none => (s, s.onPath die addr (.ok ((List.range n).map (fun i => .csp d (addr % 2 ^ 28 + i)))))
  else if moduleOf addr ≠ 0 then
    if n = 0 then (s, .ok [])
    else if (s.ctx c).mapped (moduleOf addr) then
      let e := (Tab.get 0 (s.ctx c).map (moduleOf addr)).toNat
      (s, s.onPath die addr (.ok ((List.range n).map (fun i => .far (bits e 11 0) (bits e 23 18) c ((addr + i) % 2 ^ 52)))))
    else (s, .stop .prot addr)
  else
    let r := State.runPages (fun s va => s.xlat (.die die) c va write copy) (pageRuns addr n) s
    (r.1, r.1.onPath die addr r.2)

/-- Several accesses of an engine, each by its space, address and length, checked in turn: the places of their bytes. -/
def State.engCheckAll (die c : Nat) (write copy : Bool) : List (Bool × Nat × Nat) → State → State × Span
  | [], s => (s, .ok [])
  | r :: rs, s =>
    match s.engCheck die c r.1 write copy r.2.1 r.2.2 with
    | (s, .ok ls) =>
      match State.engCheckAll die c write copy rs s with
      | (s, .ok more) => (s, .ok (ls ++ more))
      | e => e
    | e => e

/-- The pages of this module's memory that accesses of an engine reach. -/
def rangePages (rs : List (Bool × Nat × Nat)) : List Nat :=
  ((rs.filter (fun r => !r.1 && moduleOf r.2.1 = 0)).map (fun r => enginePages r.2.1 r.2.2)).flatten

/-- Accesses of an engine that are now performed: every check of every one first, then, of writes, D of every leaf; where an
entry has changed, its page is walked and the accesses checked again (06_page R131). -/
def State.engBytesAll (s : State) (die c : Nat) (write copy : Bool) (rs : List (Bool × Nat × Nat)) : State × Span :=
  match State.engCheckAll die c write copy rs s with
  | (s, .ok ls) =>
    if write then
      match s.dirtyAll (.die die) c (rangePages rs) with
      | (s, none) => (s, .ok ls)
      | (s, some _) =>
        match State.engCheckAll die c write copy rs s with
        | (s, .ok ls) => ((s.dirtyAll (.die die) c (rangePages rs)).1, .ok ls)
        | e => e
    else (s, .ok ls)
  | e => e

/-- `n` bytes of an engine's access from an address, performed now. -/
def State.engBytes (s : State) (die c : Nat) (csp write copy : Bool) (addr n : Nat) : State × Span :=
  s.engBytesAll die c write copy [(csp, addr, n)]

/-- INFO of a cause that stops an engine: the issuing word's PC for MEMERR and LINK (07_context R146, 05_memory R106). -/
def Cause.info (c : Cause) (pc : Word) : Nat := if c = .memerr ∨ c = .link then pc.toNat else 0

/-- The translations that an engine's access uses, as its die holds them (06_page R132). -/
def State.engVia (s : State) (die c addr n : Nat) : List Leaf :=
  if moduleOf addr ≠ 0 then [] else (enginePages addr n).filterMap (s.cached (.die die) c)

/-- Bytes at known places of this module, and free values for those of another, whose answers the model does not hold (log 8).
-/
def State.engTake (s : State) : List Loc → State × List Byte
  | [] => (s, [])
  | .far .. :: ls =>
    let (n, s) := s.freeVal
    let (s, bs) := s.engTake ls
    (s, BitVec.ofNat 8 n :: bs)
  | l :: ls =>
    let b := s.readLoc 0 l
    let (s, bs) := s.engTake ls
    (s, b :: bs)

/-- Bytes read by an engine; a byte of another module is asked for, and is a free value (18_link R364; log 8). -/
def State.engRead (s : State) (copy : Bool) (ls : List Loc) : State × List Byte := (s.sendLoads copy ls).engTake ls

/-- Bytes written by an engine at their homes; scratchpad lines leave the stitch table. -/
def State.engWrite (s : State) (copy : Bool) (ls : List Loc) (bs : List Byte) : State :=
  (((ls.zip bs).foldl (fun s e => match e.1 with
    | .sp c o => s.writeSpRaw c o e.2
    | l => s.writeLoc 0 l e.2) s).sendStores copy (ls.zip bs)).unstitchLocs ls

/-- A load of `n` bytes at one uniform global address by an instruction's issue, with the checks of R107 (13_transfer R257,
R258): its queued stores are seen. A record to which the die has no path raises LINK (01_module R13; log 82). One in another
module is asked for, and the instruction waits at its word until it returns (DESIGN CHOICE, log 69). -/
def Env.loadBlock (v : Env) (s : State) (addr n align : Nat) (f : State → List Byte → Eff) : Eff :=
  match v.busy false with
  | some p => .park s p
  | none =>
    checked (v.check s { space := 0, n := n, align := align, write := false } (v.lanes.map (fun l => ⟨l, addr⟩)))
      (fun s bytes =>
        match bytes with
        | [] => f s (List.replicate n 0)
        | b :: _ =>
          if b.2.any Loc.isFar then
            let mine (p : Pend) : Option (Nat × List Byte) := match p.kind with
              | .block m (some bs) => if p.pc = v.cl.own && m = n && p.addr = addr then some (p.id, bs) else none
              | _ => none
            match v.x.io.pend.findSome? mine with
            | some (id, bs) =>
              match f (s.modGroup v.g (fun x => x.dropPend id)) bs with
              | .park s p => .park (s.modGroup v.g (fun x => x.modIo (fun io => { io with
                  pend := v.x.io.pend.filter (fun q => q.id = id) ++ io.pend }))) p
              | e => e
            | none =>
              if v.x.io.sq.any (fun e => e.far) then .park s .ownAtomic
              else
                let (id, s) := s.fresh
                let p : Pend := { id := id, regs := [], flag := none, pc := v.cl.own, lanes := v.act, addr := addr
                                  kind := .block n none, homes := homesOf b.2 }
                .park ((s.sendLoads false b.2).modGroup v.g (fun x => x.modIo (fun io => { io with pend := io.pend ++ [p] })))
                  (.block id)
          else if !(homesOf b.2).all (s.reaches v.die) then .trap s { v.whole .link with addr := addr, info := v.cl.own.toNat }
          else match b.2.mapM (s.readOwn v.g) with
            | some bs => f s bs
            | none => .park s .ownAtomic)

/-- The 64-bit value of an s-register pair named by an operand code. -/
def Env.pair (v : Env) (code : BitVec 8) : Nat := readPair v.x.regs v.e.t.lit code.toNat 0

/-- q[QD] written in every lane of Active (00_scope R4). -/
def State.setPred (s : State) (v : Env) (ok : Bool) : State :=
  s.modGroup v.g (fun x => x.modRegs (fun r => r.setQ v.qd v.act (if ok then v.act else 0)))

/-- An engine operation of an instruction enters flight: its flag is counted and its destinations are pending. -/
def State.launchOp (s : State) (v : Env) (uid : Nat) (regs : List Reg) : State :=
  s.modGroup v.g (fun x =>
    (x.modIo (fun io => { io with pend := io.pend ++
      [{ id := uid, regs := regs, flag := v.flag, pc := v.cl.own, lanes := v.act, kind := .engine uid }] })).count v.flag)

/-- An engine operation of a group is complete: its results are written, its flag decrements (02_encoding R28). -/
def State.endOp (s : State) (g uid : Nat) (vals : List (Reg × Nat × Word)) : State :=
  match s.group g with
  | none => s
  | some x =>
    match x.io.pend.find? (fun p => p.id = uid) with
    | none => s
    | some p => (s.rewrote g (vals.map (·.1))).setGroup g (((x.dropPend uid).writeRegs vals).uncount p.flag)

/-- An error put before those of later nevals (15_net R296). -/
def insertLate (l : Late) : List Late → List Late
  | [] => [l]
  | m :: ms =>
    match l.neval, m.neval with
    | some a, some b => if a < b then l :: m :: ms else m :: insertLate l ms
    | _, _ => m :: insertLate l ms

/-- An error of an engine operation waits for the instruction that takes it; none where the group has ended (13_transfer
R253). -/
def State.addLate (s : State) (g : Nat) (l : Late) : State :=
  s.modGroup g (fun x => x.modIo (fun io => { io with late := insertLate l io.late }))

/-- Range-lock entries of an operation leave the core's table (05_memory R121). -/
def State.unlock (s : State) (core uid : Nat) : State := s.modCore core (fun c => c.dropLocks uid)

/-- A fault posted by an engine on a die: SRC, UNIT and its party (06_page R134). -/
def State.postEngine (s : State) (die src unit c : Nat) (write : Bool) (p : Party)
    (va reason level entry entryAddr : Nat) : State :=
  ((s.walked (fun q => q = p)).post die
    { src := src, unit := unit, entry := entry, entryAddr := entryAddr, ctx := c, access := if write then 2 else 1
      level := level, reason := reason, va := va % 2 ^ 52, parties := [p] }).1

/-- The context of a group's team. -/
def State.ctxOf (s : State) (x : Group) : Option Nat := (s.team x.team).map (·.ctx)

/-- A group of a context holds a slot on a core. -/
def State.onCore (s : State) (c core : Nat) : Bool := s.groups.any (fun g => g.2.on && g.2.core = core && s.ctxOf g.2 = some c)

/-- The record of a core that no group of a context holds, as the core now stands (07_context R153). A swap that a window of an
ended group still holds up is recorded as made (15_net R299). -/
def State.recordCore (s : State) (c core : Nat) : State :=
  if s.onCore c core then s
  else
    let k := s.core core
    let bank (a : ActTable) : ActBank × Nat := match a.pending with
      | some b => (b, (a.gen + 1) % 2 ^ 32)
      | none => (a.live, a.gen)
    let r : CoreRec := ⟨k.srseed, k.am, k.acts.map (fun e => (e.1, bank e.2))⟩
    s.modCtx c (fun x => { x with coreRec := Tab.set none x.coreRec core (some r) })

/-- What an operation of a group that has left has changed of a core's generator and amax registers is kept in the record of the
context that last held the core (03_numbers R60, 07_context R153). -/
def State.keepCore (s : State) (core : Nat) : State :=
  match (s.core core).owner with
  | some c => s.recordCore c core
  | none => s

/-- The keys by which groups rank at port `port`, first the display class; smaller is first (10_group R199). -/
def State.rank (s : State) (port : Nat) (x : Group) : List Nat :=
  match s.team x.team with
  | none => [1, 1, 1, 0, 0, 0]
  | some t =>
    [b2n (t.cls ≠ 0), b2n (!(x.flow.ahead.contains port || 1024 ≤ Tab.get 0 x.flow.passed port)), b2n (!(x.gid < t.kern.prod)), t.age, t.teamid, x.gid]

/-- Lexicographic order of keys. -/
def keyLt : List Nat → List Nat → Bool
  | a :: as, b :: bs => a < b || (a = b && keyLt as bs)
  | [], _ :: _ => true
  | _, [] => false

end Sys2Proof.Machine
end

