-- ==== Sys2Proof/Machine/Transfer.lean ====
section
/-!
DEFINITION. The transfer and the buffer handle (13_transfer R235 to R259): the tensor iterator record, copies, gathers and
bins, codebooks, expert bins and handles.
-/
namespace Sys2Proof.Machine

/-- A 32-bit word of a byte list at a byte offset. -/
def wordAt (bs : List Byte) (off : Nat) : Nat := ofBytes ((bs.drop off).take 4)

/-- A 64-bit number of a byte list at a byte offset. -/
def quadAt (bs : List Byte) (off : Nat) : Nat := ofBytes ((bs.drop off).take 8)

/-- The 128 bits of dimension entry k (R237). -/
def dimBits (bs : List Byte) (k : Nat) : Nat := ofBytes ((bs.drop (0x40 + 16 * k)).take 16)

/-- A dimension entry (R239). -/
def TDim.of (x : Nat) : TDim :=
  { ext := bits x 23 0, bcast := bit x 24, mstr := signed 40 (bits x 87 48), dstr := signed 40 (bits x 127 88) }

/-- NDIM of a control word (R238). -/
def ctrlNdim (c : Nat) : Nat := bits c 3 0

/-- The record that 256 bytes hold (R237). -/
def TRec.of (bs : List Byte) : TRec :=
  let ctrl := wordAt bs 32
  { mbase := quadAt bs 0, dbase := quadAt bs 8, scbase := quadAt bs 16, amax := quadAt bs 24, ctrl := ctrl
    seed := BitVec.ofNat 32 (wordAt bs 36), mcsp := bit (wordAt bs 40) 0, dcsp := bit (wordAt bs 40) 1
    dims := (List.range (min 12 (ctrlNdim ctrl))).map (fun k => TDim.of (dimBits bs k)) }

/-- The fields of the control word (R238). -/
def TRec.fs (r : TRec) : Ty := Ty.ofCode (bits r.ctrl 7 4)
def TRec.fd (r : TRec) : Ty := Ty.ofCode (bits r.ctrl 11 8)
def TRec.kind (r : TRec) : Nat := bits r.ctrl 13 12
def TRec.fm (r : TRec) : FMode := ⟨bit r.ctrl 14, bit r.ctrl 15⟩
def TRec.blk (r : TRec) : Nat := bits r.ctrl 17 16
def TRec.xpose (r : TRec) : Bool := bit r.ctrl 18
def TRec.amaxen (r : TRec) : Bool := bit r.ctrl 19
def TRec.reduce (r : TRec) : Bool := bit r.ctrl 20
def TRec.expand (r : TRec) : Bool := bit r.ctrl 21
def TRec.compress (r : TRec) : Bool := bit r.ctrl 22
def TRec.idx4 (r : TRec) : Bool := bit r.ctrl 23
def TRec.cb (r : TRec) : Nat := bits r.ctrl 27 24
def TRec.rnd (r : TRec) : Nat := bits r.ctrl 30 28
def TRec.seedv (r : TRec) : Bool := bit r.ctrl 31

/-- The extent of dimension k, 1 where there is none. -/
def TRec.ext (r : TRec) (k : Nat) : Nat := (nth ⟨1, false, 0, 0⟩ r.dims k).ext

/-- The number of elements (R240). -/
def TRec.total (r : TRec) : Nat := r.dims.foldl (fun n d => n * d.ext) 1

/-- The transfer uses a codebook (R238). -/
def TRec.coded (r : TRec) : Bool := r.expand || r.compress

/-- The memory-side elements are 4 bits wide (R240). -/
def TRec.nibble (r : TRec) : Bool :=
  if r.coded then r.idx4 else if r.kind = 1 then r.fd = .mx4 else r.fs = .mx4

/-- Bytes of a memory-side element; 1 for a nibble, which shares its byte. -/
def TRec.memSize (r : TRec) : Nat :=
  if r.coded || r.nibble then 1 else if r.kind = 1 then r.fd.width / 8 else r.fs.width / 8

/-- Bytes of a scratchpad element (R240). -/
def TRec.spSize (r : TRec) : Nat := if r.kind = 1 then r.fs.width / 8 else r.fd.width / 8

/-- The float targets of R242. -/
def wide3 (t : Ty) : Bool := t = .f32 || t = .f16 || t = .bf16

/-- The raw move of R242. -/
def TRec.raw (r : TRec) : Bool := r.fs = r.fd && !r.reduce && !r.coded

/-- The type pairs and flag combinations of R242, for a codebook slot's format. -/
def TRec.pairOk (r : TRec) (slot : Ty) : Bool :=
  let flagsOk :=
    (!r.expand || r.kind = 0) && (!r.compress || r.kind = 1) && (!r.reduce || r.kind = 1) && (!r.amaxen || r.kind = 1)
      && (!r.xpose || r.kind ≠ 2) && !(r.reduce && r.compress) && !(r.reduce && r.blk ≠ 0) && (!r.idx4 || r.coded)
  let narrow := r.fs.srOk
  let row :=
    if r.expand then r.fs = slot && (r.fd = slot || wide3 r.fd) && r.rnd = 0 && r.blk = 0
    else if r.compress then wide3 r.fs && r.fd = slot && r.blk = 0
    else if r.reduce then wide3 r.fs && (wide3 r.fd || r.fd = .e4m3 || r.fd = .e5m2 || r.fd = .mt8)
    else if r.fs = r.fd then
      r.fs ≠ .mx4 && r.rnd = 0 && r.blk = 0 && !r.fm.ftz32 && !r.fm.ftzn && !r.amaxen
    else if r.kind = 0 then
      narrow && wide3 r.fd && r.rnd = 0 && (r.blk = 0 || !(r.fs = .f16 || r.fs = .bf16))
    else if r.kind = 1 then wide3 r.fs && r.fd.srOk && (r.blk = 0 || !(r.fd = .f16 || r.fd = .bf16))
    else false
  flagsOk && row && (r.rnd ≠ 4 || r.fd.srOk)

/-- The rules of R239 and R240 over the record's bytes. -/
def TRec.dimsOk (r : TRec) (bs : List Byte) : Bool :=
  let one (k : Nat) (d : TDim) : Bool :=
    d.ext ≠ 0 && bits (dimBits bs k) 47 25 = 0 && (!d.bcast || d.mstr = 0) && (r.kind = 2 || d.dstr = 0)
  let d0 := nth ⟨1, false, 0, 0⟩ r.dims 0
  (List.range r.dims.length).all (fun k => one k (nth ⟨0, false, 0, 0⟩ r.dims k))
    && (List.range 12).all (fun k => k < r.dims.length || dimBits bs k = 0)
    && (!r.nibble || (d0.mstr = 1 && d0.ext % 2 = 0))
    && (r.blk = 0 || (d0.ext % 32 = 0 && d0.mstr = r.memSize))

/-- CheckRecord of R244, but for the codebook's owner. -/
def TRec.ok (r : TRec) (bs : List Byte) (slot : Ty) : Bool :=
  bits (wordAt bs 40) 31 2 = 0 && (List.range 5).all (fun k => wordAt bs (44 + 4 * k) = 0)
    && 1 ≤ ctrlNdim r.ctrl && ctrlNdim r.ctrl ≤ 12 && r.kind ≤ 2 && r.rnd ≤ 4 && r.blk ≤ 2
    && r.dimsOk bs && r.pairOk slot && (!r.dcsp || r.kind = 2) && (r.kind = 2 || r.dbase = 0)
    && (r.blk = 2 || r.scbase = 0) && (if r.amaxen then r.amax % 4 = 0 else r.amax = 0) && r.total ≤ 2 ^ 40

/-- The indices (i_0, i_1, ...) of element n (R240). -/
def indices : List TDim → Nat → List Nat
  | [], _ => []
  | d :: ds, n => n % d.ext :: indices ds (n / d.ext)

/-- An address with an offset added modulo 2^52 (05_memory R90). -/
def addOff (base : Nat) (off : Int) : Nat :=
  base / 2 ^ 52 * 2 ^ 52 + wrap 52 (((base % 2 ^ 52 : Nat) : Int) + off)

/-- The row offset of an element: every dimension from `k` up. -/
def rowOff (stride : TDim → Int) : List TDim → List Nat → Int
  | d :: ds, i :: is => stride d * (i : Int) + rowOff stride ds is
  | _, _ => 0

/-- The memory stride that counts: none under BCAST (R240). -/
def TDim.mem (d : TDim) : Int := if d.bcast then 0 else d.mstr

/-- The memory address of an element by its indices (R240). -/
def TRec.memAddr (r : TRec) (is : List Nat) : Nat :=
  let i0 := nth 0 is 0
  let d0 := nth ⟨1, false, 0, 0⟩ r.dims 0
  let upper := rowOff TDim.mem (r.dims.drop 1) (is.drop 1)
  let inner : Int :=
    if r.blk = 1 then
      let j := i0 / 32
      if r.nibble then (j * 17 + i0 % 32 / 2 : Nat) else (j * 33 + i0 % 32 : Nat)
    else if r.nibble then (i0 / 2 : Nat)
    else TDim.mem d0 * (i0 : Int)
  addOff r.mbase (upper + inner)

/-- The address of the scale of an element's block (R240). -/
def TRec.scaleAddr (r : TRec) (is : List Nat) (n : Nat) : Nat :=
  let i0 := nth 0 is 0
  if r.blk = 1 then
    let j := i0 / 32
    let upper := rowOff TDim.mem (r.dims.drop 1) (is.drop 1)
    addOff r.mbase (upper + (if r.nibble then (j * 17 + 16 : Nat) else (j * 33 + 32 : Nat)))
  else addOff r.scbase ((n / r.ext 0 * (r.ext 0 / 32) + i0 / 32 : Nat) : Int)

/-- The KIND 2 destination of an element (R240). -/
def TRec.dstAddr (r : TRec) (is : List Nat) : Nat := addOff r.dbase (rowOff TDim.dstr r.dims is)

/-- The dense position of element n on the scratchpad side (R240). -/
def TRec.pos (r : TRec) (n : Nat) : Nat :=
  if r.xpose then
    let e0 := r.ext 0
    let e1 := r.ext 1
    n / (e0 * e1) * (e0 * e1) + n / e0 % e1 + e1 * (n % e0)
  else n

/-- The element whose dense position is p. -/
def TRec.inv (r : TRec) (p : Nat) : Nat :=
  if r.xpose then
    let e0 := r.ext 0
    let e1 := r.ext 1
    p / (e0 * e1) * (e0 * e1) + p % (e0 * e1) / e1 + e0 * (p % e1)
  else p

/-- A codebook slot of a die. -/
def State.book (s : State) (die k : Nat) : Codebook := Tab.get {} s.books (16 * die + k)

/-- A codebook slot replaced. -/
def State.setBook (s : State) (die k : Nat) (b : Codebook) : State :=
  { s with books := Tab.set {} s.books (16 * die + k) b }

/-- A copy engine of a die. -/
def State.engine (s : State) (die k : Nat) : Engine := Tab.get {} s.engines (8 * die + k)

/-- A copy engine replaced. -/
def State.setEngine (s : State) (die k : Nat) (e : Engine) : State :=
  { s with engines := Tab.set {} s.engines (8 * die + k) e }

/-- The contents and format that a pin names: the live generation, or the pending one (R245). -/
def Codebook.at (b : Codebook) (gen : Nat) : List Nat × Ty :=
  match b.shadow with
  | some (d, f) => if gen = b.gen then (b.live, Ty.ofCode b.fmt) else (d, Ty.ofCode f)
  | none => (b.live, Ty.ofCode b.fmt)

/-- The generation that a transfer issued now pins (R245). -/
def Codebook.pinGen (b : Codebook) : Nat := if b.shadow.isSome then (b.gen + 1) % 4096 else b.gen

/-- Transfers in flight on a die that pin the live generation of a slot (R245). -/
def State.inFlight (s : State) (die k : Nat) : Nat :=
  let g := (s.book die k).gen
  ((List.range 8).map (fun e => ((s.engine die e).queue.filter (fun t => t.pin = some (k, g))).length)).foldl (· + ·) 0

/-- The old generation of a slot is free: the shadow becomes live (R245). -/
def State.switchBook (s : State) (die k : Nat) : State :=
  let b := s.book die k
  match b.shadow with
  | some (d, f) =>
    if s.inFlight die k = 0 then
      s.setBook die k { b with live := d, fmt := f, shadow := none, gen := (b.gen + 1) % 4096 }
    else s
  | none => s

/-- How an element ends. -/
inductive ElemEnd where
  /-- done: the engine's generator and the state after it -/
  | ok (s : State) (seed : Word)
  /-- the row of a tbin has been given its place (R248) -/
  | placed (s : State) (p : Bool × Nat)
  /-- the engine waits for the presence of a scratchpad line (R241) -/
  | wait
  | fault (s : State) (write : Bool) (va reason level entry entryAddr : Nat)
  | stop (s : State) (c : Cause) (va : Nat)
  deriving DecidableEq, Repr

/-- What follows an engine's access. -/
def spanThen (r : State × Span) (write : Bool) (f : State → List Loc → ElemEnd) : ElemEnd :=
  match r with
  | (s, .ok ls) => f s ls
  | (s, .fault va x lv e pa) => .fault s write va x lv e pa
  | (s, .stop c va) => .stop s c va

/-- The generator state that element n uses: it advances once per run of 32 (03_numbers R58). -/
def runSeed (r : TRec) (seed : Word) (n : Nat) : Word := if r.rnd = 4 ∧ n % 32 = 0 then rngNext seed else seed

/-- The rounding of element n (03_numbers R58). -/
def elemRnd (r : TRec) (seed : Word) (n : Nat) : Rnd :=
  if r.rnd = 4 then .sr (rngU seed (7 * (n % 32))) else Rnd.ofCode r.rnd

/-- A scale byte applied to a value (03_numbers R50). -/
def scaled (x : Val) (scale : Nat) : Val :=
  match e8m0 scale with
  | none => .nan
  | some k => x.scale k

/-- The nearest entry to a value: the lowest index of the smallest distance; a NaN takes the lowest NaN entry, else 0
(R246). -/
def nearestEntry (fmt : Ty) (entries : List Nat) (x : Val) : Nat :=
  let vals := entries.map (fun e => decodeRaw fmt (e % 2 ^ fmt.width))
  if x.isNan then (vals.findIdx? (fun v => v.isNan)).getD 0
  else
    let dist (v : Val) : Val :=
      match x, v with
      | .inf a, .inf b => if a = b then .zero false else .inf false
      | _, _ => (addVal .rne x v.negate).1.abs
    let best := vals.foldl (fun (acc : Nat × Nat × Val) v =>
      let (i, k, d) := acc
      if v.isNan then (i + 1, k, d)
      else
        let e := dist v
        if d.isNan || e.lt d then (i + 1, i, e) else (i + 1, k, d)) (0, 0, .nan)
    best.2.1

/-- A nibble or byte code put into the byte that holds it (03_numbers R50). -/
def putNibble (old : Byte) (i0 code : Nat) : Byte :=
  if i0 % 2 = 0 then BitVec.ofNat 8 (old.toNat / 16 * 16 + code % 16)
  else BitVec.ofNat 8 (old.toNat % 16 + code % 16 * 16)

/-- The scratchpad bytes of element n of a transfer (R240). -/
def Transfer.spLocs (t : Transfer) (n : Nat) : List Loc :=
  let z := t.ti.spSize
  (List.range z).map (fun i => .sp t.core (t.base + t.ti.pos n * z + i))

/-- Every line of these scratchpad bytes is present. -/
def State.allPresent (s : State) (ls : List Loc) : Bool :=
  ls.all (fun l => match l with | .sp c o => s.present c (o / 128) | _ => true)

/-- The line of element n becomes present when the transfer has written the last of its bytes in it (R252). -/
def State.markLine (s : State) (t : Transfer) (n : Nat) : State :=
  let r := t.ti
  let z := r.spSize
  let line := (t.base + r.pos n * z) / 128
  let p0 := (line * 128 - t.base + z - 1) / z
  let p1 := min r.total (((line + 1) * 128 - t.base) / z)
  if (List.range (p1 - p0)).all (fun i => r.inv (p0 + i) ≤ n) then s.mark t.core line true else s

/-- A word of an index list in the scratchpad; none where its line is absent. -/
def State.listWord (s : State) (core off k : Nat) : Option Nat :=
  if s.present core ((off + 4 * k) / 128) then some (s.readSpNat core (off + 4 * k) 4) else none

/-- The indices by which the memory side of element n is addressed, with the outermost one taken from the list of a
gather (R257): `none` in the pair where the list word asks for zeros; none where the list is absent. -/
def State.memIndices (s : State) (t : Transfer) (n : Nat) : Option (Option (List Nat)) :=
  let is := indices t.ti.dims n
  if t.op = .gather then
    match s.listWord t.core t.list (nth 0 is (is.length - 1)) with
    | none => none
    | some x => if x = 2 ^ 32 - 1 then some none else some (some (setAt is (is.length - 1) x))
  else some (some is)

/-- A memory element as the binary32 intermediate that every step works on: a .bf16 subnormal is a binary32 subnormal too, and
FTZ32 makes it zero (R243, 03_numbers R56). -/
def elemVal (t : Ty) (fm : FMode) (x : Nat) : Val :=
  if t = .bf16 ∧ fm.ftz32 ∧ isSubnormal t x then .zero (bit x 15) else (decode t fm x).1

/-- The bits of a memory element read from its bytes. -/
def TRec.code (r : TRec) (i0 : Nat) (bs : List Byte) : Nat :=
  let x := ofBytes bs
  if r.nibble then bits x (4 * (i0 % 2) + 3) (4 * (i0 % 2)) else x

/-- KIND 0: memory to scratchpad, with expand and dequantise (R241, R243, R246). -/
def State.fillElem (s : State) (die : Nat) (t : Transfer) (seed : Word) (n : Nat) : ElemEnd :=
  let r := t.ti
  let c := t.ctx
  let finish (s : State) (code : Nat) : ElemEnd :=
    .ok ((s.engWrite true (t.spLocs n) (toBytes r.spSize code)).markLine t n) seed
  match s.memIndices t n with
  | none => .wait
  | some none => finish s 0
  | some (some is) =>
    spanThen (s.engBytes die c r.mcsp false true (r.memAddr is) r.memSize) false (fun s ls =>
      let (s, bs) := s.engRead true ls
      let code := r.code (nth 0 is 0) bs
      if r.raw then finish s code
      else
        let (code, fmt) : Nat × Ty :=
          if r.expand then
            let (d, f) := match t.pin with
              | some (k, g) => (s.book die k).at g
              | none => ([], r.fs)
            (nth 0 d code % 2 ^ f.width, f)
          else (code, r.fs)
        if r.expand && r.fd = fmt then finish s code
        else
          let x := elemVal fmt r.fm code
          if r.blk = 0 then finish s (roundTo r.fd r.fm .rne x).1
          else
            spanThen (s.engBytes die c (r.blk = 1 && r.mcsp) false true (r.scaleAddr is n) 1) false (fun s ls =>
              let (s, sb) := s.engRead true ls
              finish s (roundTo r.fd r.fm .rne (scaled x (ofBytes sb))).1))

/-- The amax word takes the unsigned maximum of the values that enter quantise: one atomic at its home, which may lie in another
module (03_numbers R60, 18_link R365). -/
def State.foldAmax (s : State) (ls : List Loc) (xs : List Val) : State :=
  let code (x : Val) : Nat := if x.isNan then 0x7FC00000 else (roundTo .f32 {} .rne x.abs).1
  let most (m : Nat) : Nat := xs.foldl (fun m x => max m (code x)) m
  match ls with
  | .far m r f a :: _ =>
    s.sendAccess (.far m r f a) (.atomic (atomOps.idxOf .max) Ty.n32.code (BitVec.ofNat 32 (most 0)) 0)
  | _ => s.engWrite true ls (toBytes 4 (most (ofBytes (ls.map (s.readLoc 0)))))

/-- The sum that REDUCE forms at an element: the destination's old bits and the value added (R243). -/
def reduceSum (fd : Ty) (fm : FMode) (old : Nat) (x : Val) : Nat :=
  (roundTo .f32 fm .rne (addVal .rne (elemVal fd fm old) x).1).1

/-- KIND 1: scratchpad to memory, with reduce, quantise, amax and compress (R241, R243, R246); `m` elements from n, 32 of
them where a block's scale is formed. Every check of what they write comes before any D is set (06_page R131). -/
def State.drainElems (s : State) (die : Nat) (t : Transfer) (seed : Word) (n m : Nat) : ElemEnd :=
  let r := t.ti
  let c := t.ctx
  let ns := (List.range m).map (fun j => n + j)
  let sps := ns.map t.spLocs
  if !s.allPresent sps.flatten then .wait
  else
    let is (k : Nat) : List Nat := indices r.dims k
    let data := ns.map (fun k => (r.mcsp, r.memAddr (is k), r.memSize))
    let amax := if r.amaxen then [(false, r.amax, 4)] else []
    let scale := if r.blk = 0 then [] else [(r.blk = 1 && r.mcsp, r.scaleAddr (is n) n, 1)]
    spanThen (s.engBytesAll die c true true (data ++ amax ++ scale)) true (fun s all =>
      let dst := all.take (m * r.memSize)
      let am := (all.drop (m * r.memSize)).take (4 * amax.length)
      let sc := all.drop (m * r.memSize + 4 * amax.length)
      let seed := runSeed r seed n
      let raws := ns.map (fun k => ofBytes ((t.spLocs k).map (s.readLoc 0)))
      let dstOf (j : Nat) : List Loc := (dst.drop (j * r.memSize)).take r.memSize
      let put (s : State) (j code : Nat) : State :=
        if r.nibble then
          let (s, old) := s.engRead true (dstOf j)
          match old with
          | b :: _ => s.engWrite true (dstOf j) [putNibble b (nth 0 (is (n + j)) 0) code]
          | [] => s
        else s.engWrite true (dstOf j) (toBytes r.memSize code)
      let putAll (s : State) (codes : List Nat) : State :=
        (codes.foldl (fun (p : State × Nat) x => (put p.1 p.2 x, p.2 + 1)) (s, 0)).1
      if r.raw then .ok (putAll s raws) seed
      else
        let (s, vals) : State × List Val :=
          if r.reduce then
            let (s, old) := s.engTake (dstOf 0)
            (s, raws.map (fun x => decodeRaw .f32 (reduceSum r.fd r.fm (ofBytes old) (elemVal r.fs r.fm x))))
          else (s, raws.map (fun x => elemVal r.fs r.fm x))
        let unflushed := if r.reduce then vals else raws.map (decodeRaw r.fs)
        let s := if r.amaxen then s.foldAmax am unflushed else s
        let rnd (j : Nat) : Rnd := elemRnd r seed (n + j)
        if r.blk = 0 then
          let codes := vals.mapIdx (fun j x => (roundTo r.fd r.fm (rnd j) x).1)
          let codes :=
            if r.compress then
              let (d, f) := match t.pin with
                | some (k, g) => (s.book die k).at g
                | none => ([], r.fd)
              codes.map (fun x => nearestEntry f (d.take (if r.idx4 then 16 else 256)) (decodeRaw f x))
            else codes
          match dstOf 0, raws with
          | l :: _, x :: _ =>
            if r.reduce && l.isFar then
              let (u, m) : Nat × Nat := match rnd 0 with
                | .sr u => (u, 4)
                | m => (0, m.num)
              .ok (s.sendAccess l (.reduce r.fd.code r.fm.ftzn r.fm.ftz32 m u
                (roundTo .f32 {} .rne (elemVal r.fs r.fm x)).1)) seed
            else .ok (putAll s codes) seed
          | _, _ => .ok (putAll s codes) seed
        else
          let scale := blockScale r.fd vals
          let codes := (blockElems r.fd r.fm scale (vals.mapIdx (fun j x => (x, rnd j)))).map (·.1)
          .ok ((putAll s codes).engWrite true sc [BitVec.ofNat 8 scale]) seed)

/-- KIND 2: memory to memory, bytes unchanged (R241). -/
def State.moveElem (s : State) (die : Nat) (t : Transfer) (seed : Word) (n : Nat) : ElemEnd :=
  let r := t.ti
  let z := r.fs.width / 8
  match s.memIndices t n with
  | none => .wait
  | some is =>
    let dst := r.dstAddr (indices r.dims n)
    let finish (s : State) (bs : List Byte) : ElemEnd :=
      spanThen (s.engBytes die t.ctx r.dcsp true true dst z) true (fun s ls => .ok (s.engWrite true ls bs) seed)
    match is with
    | none => finish s (List.replicate z 0)
    | some is =>
      spanThen (s.engBytes die t.ctx r.mcsp false true (r.memAddr is) z) false (fun s ls =>
        let (s, bs) := s.engRead true ls
        finish s bs)

/-- A bin table of a context on a die (R247). -/
def Ctx.bin (c : Ctx) (die k : Nat) : BinTable := Tab.get {} c.bins (4 * die + k)

/-- A bin table replaced. -/
def State.setBin (s : State) (c die k : Nat) (b : BinTable) : State :=
  s.modCtx c (fun x => { x with bins := Tab.set {} x.bins (4 * die + k) b })

/-- A 32-bit counter bumped. -/
def bump (n : Nat) : Nat := (n + 1) % 2 ^ 32

/-- Where the row of a tbin goes: its bin, or the overflow, with the number given to it (R248). -/
def BinTable.place (b : BinTable) (e : Nat) (p : Bool × Nat) : Nat × Nat :=
  if p.1 then (addOff b.ovf.1 (p.2 * (16 + b.rowb) : Nat), 16 + b.rowb)
  else (addOff (Tab.get (0, 0, 0) b.entries e).1 (p.2 * b.rowb : Nat), b.rowb)

/-- One row of a tbin (R248): its counter is bumped and gives it its place, or it is dropped; then it is written there, once its
lines are present. -/
def State.binRow (s : State) (die : Nat) (t : Transfer) (seed : Word) (k : Nat) : ElemEnd :=
  let b := (s.ctx t.ctx).bin die t.table
  match s.listWord t.core t.list k with
  | none => .wait
  | some e =>
    if e ≥ 256 then .ok s seed
    else
      match t.place with
      | none =>
        let (base, cap, cnt) := Tab.get (0, 0, 0) b.entries e
        let b1 := { b with entries := Tab.set (0, 0, 0) b.entries e (base, cap, bump cnt) }
        let (ob, oc, on) := b.ovf
        if cnt < cap then .placed (s.setBin t.ctx die t.table b1) (false, cnt)
        else
          let b2 := { b1 with ovf := (ob, oc, bump on) }
          if on < oc then .placed (s.setBin t.ctx die t.table b2) (true, on)
          else .ok (s.setBin t.ctx die t.table { b2 with drops := bump b.drops }) seed
      | some p =>
        let row := (List.range b.rowb).map (fun i => Loc.sp t.core (t.base + k * b.rowb + i))
        if !s.allPresent row then .wait
        else
          let bs := row.map (s.readLoc 0)
          let out := if p.1 then toBytes 4 e ++ toBytes 4 k ++ List.replicate 8 0 ++ bs else bs
          let w := b.place e p
          spanThen (s.engBytes die t.ctx false true true w.1 w.2) true (fun s ls => .ok (s.engWrite true ls out) seed)

/-- Elements that a transfer does in one step: 32 where it forms block scales, else one. -/
def Transfer.unit (t : Transfer) : Nat := if t.op ≠ .bin ∧ t.ti.kind = 1 ∧ t.ti.blk ≠ 0 then 32 else 1

/-- Elements or rows of a transfer. -/
def Transfer.count (t : Transfer) : Nat := if t.op = .bin then t.rows else t.ti.total

/-- The next elements of a transfer. -/
def State.transferElem (s : State) (die : Nat) (t : Transfer) (seed : Word) : ElemEnd :=
  if t.op = .bin then s.binRow die t seed t.next
  else if t.ti.kind = 0 then s.fillElem die t seed t.next
  else if t.ti.kind = 1 then s.drainElems die t seed t.next t.unit
  else s.moveElem die t seed t.next

/-- The memory that the next elements or the next row of a transfer reach, by space, address and length, the source first (R240,
R248, R257). -/
def State.nextRanges (s : State) (die : Nat) (t : Transfer) : List (Bool × Nat × Nat) :=
  let r := t.ti
  if t.op = .bin then
    let b := (s.ctx t.ctx).bin die t.table
    match s.listWord t.core t.list t.next with
    | none => []
    | some e =>
      let cnt := (Tab.get (0, 0, 0) b.entries e).2
      let w := b.place e (t.place.getD (if cnt.2 < cnt.1 then (false, cnt.2) else (true, b.ovf.2.2)))
      [(false, w.1, w.2)]
  else
    let is (n : Nat) : List Nat := match s.memIndices t n with
      | some (some is) => is
      | _ => indices r.dims n
    let ns := (List.range t.unit).map (fun j => t.next + j)
    ns.map (fun n => (r.mcsp, r.memAddr (is n), r.memSize))
      ++ (if r.kind = 2 then [(r.dcsp, r.dstAddr (indices r.dims t.next), r.fs.width / 8)] else [])

/-- The scale byte and the amax word of the next elements (R240, R246; 03_numbers R60). -/
def State.sideRanges (s : State) (t : Transfer) : List (Bool × Nat × Nat) :=
  let r := t.ti
  if t.op = .bin then []
  else
    let is := match s.memIndices t t.next with
      | some (some is) => is
      | _ => indices r.dims t.next
    (if r.blk = 0 then [] else [(r.blk = 1 && r.mcsp, r.scaleAddr is t.next, 1)])
      ++ (if r.kind = 1 && r.amaxen then [(false, r.amax, 4)] else [])

/-- The address of the element at which a transfer stops: the one that an address at which it failed lies in (R255). -/
def State.elemVa (s : State) (die : Nat) (t : Transfer) (va : Nat) : Nat :=
  let rs := s.nextRanges die t
  let holds (r : Bool × Nat × Nat) : Bool := r.2.1 ≤ va && va < r.2.1 + r.2.2
  match (rs.find? holds).or rs.head? with
  | some r => r.2.1
  | none => va

/-- A lost link may fail an access of a transfer. -/
def State.mayLose (s : State) (die : Nat) (t : Transfer) (r : Bool × Nat × Nat) : Bool :=
  match (s.engCheck die t.ctx r.1 false true r.2.1 1).2 with
  | .ok ls => (homesOf ls).any (s.mayLink die)
  | .stop .link _ => true
  | _ => false

/-- The address of the element at which a transfer stops with an error: of a lost link, the one of its places that a link can fail
(R255). -/
def State.failAddr (s : State) (die : Nat) (t : Transfer) (res : IoEnd) : Nat :=
  let rs := s.nextRanges die t
  (((if res = .link then rs.find? (s.mayLose die t) else none).or rs.head?).getD (false, 0, 0)).2.1

/-- The transfer leaves its engine: handle counts, ranges, codebook pin and flag are released (R252). -/
def State.retireTransfer (s : State) (die e : Nat) (t : Transfer) (err : Bool) : State :=
  let en := s.engine die e
  let s := s.setEngine die e { en with queue := en.queue.filter (fun q => q.uid ≠ t.uid) }
  let s := match t.handle with
    | some h => s.handleDone t.core h (t.op ≠ CopyOp.bin && t.ti.kind = 0) err
    | none => s
  let s := s.unlock t.core t.uid
  let s := match t.pin with
    | some (k, _) => s.switchBook die k
    | none => s
  (s.leaveSlots (fun p => p = .copy t.uid)).endOp t.group t.uid []

/-- A transfer stops with a cause: CEERR latches it, the issuing group has it pending, and the transfer completes with ERR
in its handle (R253, R255). -/
def State.stopTransfer (s : State) (die e : Nat) (t : Transfer) (c : Cause) (va info : Nat) : State :=
  let en := s.engine die e
  let s := if en.err.valid then s
    else (s.setEngine die e { en with err := ⟨true, c.code, t.ctx, va % 2 ^ 52⟩ }).interrupt 5
  let s := s.addLate t.group
    { trap := { cause := c, tmask := t.lanes, addr := va, info := info }, regs := []
      handle := if t.op = CopyOp.bin ∨ t.handle.isSome then some t.hnum else none }
  s.retireTransfer die e t true

/-- The head of an engine's queue replaced. -/
def State.setHead (s : State) (die e : Nat) (t : Transfer) : State :=
  let en := s.engine die e
  s.setEngine die e { en with queue := en.queue.map (fun q => if q.uid = t.uid then t else q) }

/-- A transfer runs for up to `fuel` steps: it ends, waits, parks on a fault slot, or stops (R241, R252, R253). -/
def State.runTransfer (die e : Nat) : Nat → Transfer → State → State
  | 0, t, s => s.setHead die e t
  | n + 1, t, s =>
    if t.next ≥ t.count then s.setHead die e t
    else
      let seed := (s.engine die e).seed
      match s.transferElem die t seed with
      | .ok s seed =>
        let s := s.setEngine die e { s.engine die e with seed := seed }
        State.runTransfer die e n { t with next := t.next + t.unit, place := none } s
      | .placed s p => State.runTransfer die e n { t with place := some p } s
      | .wait => s.setHead die e t
      | .fault s w va r lv en pa =>
        let s := s.postEngine die 2 e t.ctx w (.copy t.uid) va r lv en pa
        s.setHead die e { t with parked := true, faultVa := s.elemVa die t va }
      | .stop s c va => s.stopTransfer die e t c (s.elemVa die t va) (c.info t.pc)

/-- The transfer that an engine works on: the one at the head of its queue, unless a pre-emption holds it; those behind it wait
(R235, R254). -/
def Engine.head (e : Engine) : Option Transfer :=
  match e.queue with
  | t :: _ => if t.held.isNone then some t else none
  | [] => none

/-- TRANSFER_START (R235): the transfer at the head of an engine's queue starts, and processes up to `elements` of its
elements. SEED is loaded at the first element (R255), the saved generator state where it goes on (R254). -/
def execEvTransferStart (die engine elements : Nat) (s : State) : Out :=
  event (match (s.engine die engine).head with
    | some t =>
      if t.started then none
      else
        let en := s.engine die engine
        let s := match t.resume with
          | some w => s.setEngine die engine { en with seed := w }
          | none =>
            if t.op ≠ CopyOp.bin ∧ t.ti.seedv then s.setEngine die engine { en with seed := seedOf t.ti.seed } else s
        some (s.runTransfer die engine elements { t with started := true, resume := none })
    | none => none)

/-- The rest of a transfer's elements are processed; after the last of them the flag, handle
counts, locks and pin are released (R252). `res` is the memory error or lost link at which it stops instead, a lost link only
where its next elements have one to lose (01_module R13, 18_link R362). -/
def State.completeTransfer (s : State) (die engine : Nat) (res : IoEnd) : Option State :=
  match (s.engine die engine).head with
    | some t =>
      if !t.started || t.parked then none
      else
        match res with
        | .ok | .fixed _ =>
          let s := (s.walked (fun p => p = .copy t.uid)).runTransfer die engine (2 * (t.count - t.next)) t
          match (s.engine die engine).head with
          | some u =>
            if u.uid = t.uid ∧ u.next ≥ u.count then some (s.retireTransfer die engine u false)
            else if u = t then none else some s
          | none => some s
        | .memerr => some (s.stopTransfer die engine t .memerr (s.failAddr die t .memerr) t.pc.toNat)
        | .link =>
          if (s.nextRanges die t ++ s.sideRanges t).any (s.mayLose die t) then
            some (s.stopTransfer die engine t .link (s.failAddr die t .link) t.pc.toNat)
          else none
    | none => none

/-- TRANSFER_COMPLETE (R252). -/
def execEvTransferComplete (die engine : Nat) (res : IoEnd) (s : State) : Out :=
  event ((s.corrected res).1.completeTransfer die engine (s.corrected res).2)

/-- The lowest and highest offset of a strided operand (05_memory R121). -/
def bounds (stride : TDim → Int) (dims : List TDim) : Int × Int :=
  dims.foldl (fun (p : Int × Int) d =>
    let x := stride d * ((d.ext : Int) - 1)
    (p.1 + min 0 x, p.2 + max 0 x)) (0, 0)

/-- A range-lock entry of a memory operand from its base and offset bounds. -/
def memLock (csp : Bool) (base : Nat) (lo hi : Int) (size : Nat) (dst : Bool) (uid : Nat) : Lock :=
  let a := addOff base lo
  ⟨if csp then .csp else .glob, a, a + (hi - lo).toNat + size, dst, uid, []⟩

/-- The offset bounds of the memory side (R240). -/
def TRec.memBounds (r : TRec) : Int × Int :=
  let upper := bounds TDim.mem (r.dims.drop 1)
  let d0 := nth ⟨1, false, 0, 0⟩ r.dims 0
  let inner : Int × Int :=
    if r.blk = 1 then (0, ((d0.ext / 32 * (if r.nibble then 17 else 33) - 1 : Nat) : Int))
    else if r.nibble then (0, ((d0.ext / 2 - 1 : Nat) : Int))
    else bounds TDim.mem [d0]
  (upper.1 + inner.1, upper.2 + inner.2)

/-- The words of an index list as they stand, but for 0xFFFF_FFFF. -/
def State.listWords (s : State) (core off n : Nat) : List Nat :=
  ((List.range n).map (fun k => s.readSpNat core (off + 4 * k) 4)).filter (fun x => x ≠ 2 ^ 32 - 1)

/-- The offset bounds of a gather's memory side: the outermost index runs over the list (log 25). -/
def State.gatherBounds (s : State) (core : Nat) (r : TRec) (list : Nat) : Int × Int :=
  let last := r.dims.length - 1
  let d := nth ⟨1, false, 0, 0⟩ r.dims last
  let (lo, hi) := ({ r with dims := setAt r.dims last { d with ext := 1 } } : TRec).memBounds
  let offs : List Int := (s.listWords core list d.ext).map (fun (x : Nat) => d.mem * (x : Int))
  match offs with
  | [] => (lo, hi)
  | o :: os => (lo + os.foldl min o, hi + os.foldl max o)

/-- The ranges that a transfer enters (R252). -/
def State.transferLocks (s : State) (t : Transfer) : List Lock :=
  let sp (off n : Nat) (dst : Bool) : Lock := ⟨.sp, off, off + n, dst, t.uid, []⟩
  let r := t.ti
  match t.op with
  | .bin => [sp t.base (t.rows * ((s.ctx t.ctx).bin (dieOfCore t.core) t.table).rowb) false, sp t.list (4 * t.rows) false]
  | _ =>
    let (lo, hi) := if t.op = .gather then s.gatherBounds t.core r t.list else r.memBounds
    let mem (dst : Bool) : Lock := memLock r.mcsp r.mbase lo hi r.memSize dst t.uid
    let dense := r.total * r.spSize
    let base := match r.kind with
      | 0 => [mem false, sp t.base dense true]
      | 1 => [sp t.base dense false, mem true] ++ (if r.amaxen then [⟨.glob, r.amax, r.amax + 4, true, t.uid, []⟩] else [])
      | _ =>
        let (dlo, dhi) := bounds TDim.dstr r.dims
        [mem false, memLock r.dcsp r.dbase dlo dhi (r.fd.width / 8) true t.uid]
    base ++ (if t.op = .gather then [sp t.list (4 * r.ext (r.dims.length - 1)) false] else [])

/-- The end of tcopy, tgather and tbin after their checks (R257): a false predicate where the queue or the range-lock table
is full, else the wait of R251 and the enqueue. -/
def Env.enqueueTransfer (v : Env) (s : State) (t : Transfer) (engine : Nat) (keep : Bool) : Eff :=
  let en := s.engine v.die engine
  let (uid, s') := s.fresh
  let t := { t with uid := uid }
  let locks := s.transferLocks t
  match (s.core v.x.core).enterLocks locks with
  | none => .done (s.setPred v false)
  | some core =>
    if en.queue.length ≥ 32 then .done (s.setPred v false)
    else if !v.x.drained then .park s .drain
    else
      let s := (s'.setCore v.x.core core).setEngine v.die engine { en with queue := en.queue ++ [t] }
      let fill : Bool := t.op ≠ .bin && t.ti.kind = 0
      let s := match t.handle with
        | some h =>
          let x := (s.core v.x.core).handle h
          if fill then s.putHandle v.x.core h { x with fills := x.fills + 1 }
          else
            let s := s.putHandle v.x.core h { x with drains := x.drains + 1, keep := x.keep || keep }
            if x.st = HSt.draining then s else s.enterHandle v.x.core h .draining
        | none => s
      .done ((s.launchOp v uid []).setPred v true)

/-- CheckList of R257: ALIGN at 4, PROT outside the group's regions. -/
def Env.checkList (v : Env) (off n : Nat) : Option Trap :=
  if off % 4 ≠ 0 then some { v.whole .align with addr := off }
  else if 2 ^ 19 < off + 4 * n || !v.x.owns off (4 * n) then some { v.whole .prot with addr := off }
  else none

/-- The engine that MOD2 names, and KEEP (R256). -/
def Env.engineNo (v : Env) : Nat := bits v.e.t.x.mod2.toNat 2 0
def Env.keepBit (v : Env) : Bool := bit v.e.t.x.mod2.toNat 3

/-- A transfer before its handle is known. -/
def Env.newTransfer (v : Env) (op : CopyOp) : Transfer :=
  { uid := 0, ctx := v.c, team := v.x.team, group := v.g, core := v.x.core, pc := v.cl.own, lanes := v.act, op := op
    hnum := v.e.t.x.c.toNat }

/-- tcopy and tgather (R257). -/
def tensorCopy (gather : Bool) (v : Env) (s : State) : Eff :=
  v.loadBlock s (v.pair v.e.t.a) 256 256 (fun s bs =>
    let r := TRec.of bs
    let list := if gather then (v.uni v.e.t.b).toNat else 0
    let n := if ctrlNdim r.ctrl = 0 then 1 else r.ext (r.dims.length - 1)
    match (if gather then v.checkList list n else none) with
    | some t => .trap s t
    | none =>
      let b := s.book v.die r.cb
      let gen := b.pinGen
      if !r.ok bs (b.at gen).2 || (r.coded && b.owner ≠ some v.c) || (gather && r.kind = 1) then .trap s (v.whole .prot)
      else
        let h := v.e.t.x.c.toNat
        let t := { v.newTransfer (if gather then .gather else .copy) with
          ti := r, list := list, pin := if r.coded then some (r.cb, gen) else none }
        if r.kind = 2 then
          if h ≠ 0xFF then .trap s (v.whole .hstate) else v.enqueueTransfer s t v.engineNo v.keepBit
        else
          match v.handleNo h with
          | none => .trap s (v.whole .hstate)
          | some k =>
            let x := (s.core v.x.core).handle k
            let ok : Bool := if r.kind = 0 then x.st = .filling else x.st = .full ∨ x.st = .draining
            if !ok then .trap s (v.whole .hstate)
            else if r.total * r.spSize > x.size * 128 then .trap s (v.whole .prot)
            else v.enqueueTransfer s { t with handle := some k, base := x.base * 128 } v.engineNo v.keepBit)

/-- tcopy (R257). -/
def execEnTcopy (w : TwoWord) (s : State) : Out := runWord (.enTcopy w) noIll (tensorCopy false) s

/-- tgather (R257). -/
def execEnTgather (w : TwoWord) (s : State) : Out := runWord (.enTgather w) noIll (tensorCopy true) s

/-- tbin (R248, R257). -/
def execEnTbin (w : TwoWord) (s : State) : Out :=
  runWord (.enTbin w) noIll (fun v s =>
    let list := (v.uni w.a).toNat
    let n := (v.uni w.b).toNat
    let table := bits w.x.mod2.toNat 5 4
    if n > 16777215 then .trap s (v.whole .prot)
    else
      match v.checkList list n with
      | some t => .trap s t
      | none =>
        match v.handleNo w.x.c.toNat with
        | none => .trap s (v.whole .hstate)
        | some k =>
          let x := (s.core v.x.core).handle k
          let rowb := ((s.ctx v.c).bin v.die table).rowb
          if ¬(x.st = .full ∨ x.st = .draining) then .trap s (v.whole .hstate)
          else if rowb = 0 || n * rowb > x.size * 128 then .trap s (v.whole .prot)
          else
            v.enqueueTransfer s { v.newTransfer .bin with
              handle := some k, base := x.base * 128, list := list, rows := n, table := table } v.engineNo v.keepBit) s

/-- 16-bit entries of a codebook image (R245). -/
def bookEntries : Nat → List Byte → List Nat
  | 0, _ => []
  | n + 1, bs => ofBytes (bs.take 2) :: bookEntries n (bs.drop 2)

/-- cbload (R258). -/
def execEnCbload (w : TwoWord) (s : State) : Out :=
  runWord (.enCbload w) noIll (fun v s =>
    v.loadBlock s (v.pair w.a) 512 64 (fun s bs =>
      let k := bits w.x.c.toNat 3 0
      let fmt := bits w.x.c.toNat 7 4
      let b := s.book v.die k
      let data := bookEntries 256 bs
      if b.owner.isSome ∧ b.owner ≠ some v.c then .trap s (v.whole .prot)
      else if b.shadow.isSome then .done (s.setPred v false)
      else if s.inFlight v.die k = 0 then
        .done ((s.setBook v.die k { b with live := data, fmt := fmt, gen := (b.gen + 1) % 4096, owner := some v.c }).setPred v true)
      else .done ((s.setBook v.die k { b with shadow := some (data, fmt), owner := some v.c }).setPred v true))) s

/-- The handle that C names, or HSTATE (R249). -/
def withHandle (v : Env) (s : State) (f : Nat → Handle → Eff) : Eff :=
  match v.handleNo v.e.t.x.c.toNat with
  | none => .trap s (v.whole .hstate)
  | some k => f k ((s.core v.x.core).handle k)

/-- A range of lines lies in the team region or a private region of the team on the core (R249). -/
def Env.rangeOk (v : Env) (base size : Nat) : Bool :=
  let k := v.team.kern
  v.team.cores.any (fun c => c.core = v.x.core && c.region ≤ base && base + size ≤ c.region + k.spTeam)
    || v.team.privs.any (fun p => p.2.1 = v.x.core && p.2.2.1 ≤ base && base + size ≤ p.2.2.1 + k.spPriv)

/-- hbind (R250, R258). -/
def execEnHbind (w : TwoWord) (s : State) : Out :=
  runWord (.enHbind w) noIll (fun v s => withHandle v s (fun k x =>
    let r := (v.uni w.a).toNat
    let base := bits r 11 0
    let size := bits r 24 12
    let fill := bit w.x.mod2.toNat 0
    if x.st ≠ .free then .trap s (v.whole .hstate)
    else if bits r 31 25 ≠ 0 || size = 0 || !v.rangeOk base size then .trap s (v.whole .prot)
    else
      let s := s.putHandle v.x.core k { x with base := base, size := size, err := false, keep := false }
      let s := if fill then (List.range size).foldl (fun s i => s.mark v.x.core (base + i) false) s else s
      .done (s.enterHandle v.x.core k (if fill then .filling else .full)))) s

/-- hwait (R258). -/
def execEnHwait (w : TwoWord) (s : State) : Out :=
  runWord (.enHwait w) noIll (fun v s => withHandle v s (fun k x =>
    if x.st.code = w.x.mod2.toNat then .done s else .park s (.handle k w.x.mod2.toNat))) s

/-- hstate (R258). -/
def execEnHstate (w : TwoWord) (s : State) : Out :=
  runWord (.enHstate w) noIll (fun v s => withHandle v s (fun _ x =>
    let r := putBits x.st.code 2 30 + putBits (b2n x.err) 1 29 + putBits (b2n x.keep) 1 28 + putBits x.size 13 12
      + putBits x.base 12 0
    .done (s.setGroup v.g (v.x.modRegs (fun g => g.setS v.d (BitVec.ofNat 32 r)))))) s

/-- hrel (R258). -/
def execEnHrel (w : TwoWord) (s : State) : Out :=
  runWord (.enHrel w) noIll (fun v s => withHandle v s (fun k x =>
    if x.st = .full ∨ (x.st = .filling ∧ x.fills = 0) then .done (s.enterHandle v.x.core k .free)
    else .trap s (v.whole .hstate))) s

/-- hsig (R258). -/
def execEnHsig (w : TwoWord) (s : State) : Out :=
  runWord (.enHsig w) noIll (fun v s => withHandle v s (fun k x =>
    let c := (v.uni w.a).toNat
    if c > 255 then .trap s (v.whole .prot)
    else if x.sig.isSome then .done (s.setPred v false)
    else .done ((s.putHandle v.x.core k { x with sig := some (v.c, c) }).setPred v true))) s

/-- A tbin that names a table of a context is in flight on a die (R258). -/
def State.binBusy (s : State) (die c table : Nat) : Bool :=
  (List.range 8).any (fun e => (s.engine die e).queue.any (fun t => t.op = .bin ∧ t.ctx = c ∧ t.table = table))

/-- binset (R258). PROT for a v3 that is not 0, and for a ROWB that is not a multiple of 16 or is above 65,520: the rule states
the constraint and no outcome (DESIGN CHOICE, log 94). -/
def execEnBinset (w : TwoWord) (s : State) : Out :=
  runWord (.enBinset w) noIll (fun v s =>
    let x := (v.uni w.a).toNat
    let word (j : Nat) : Nat := (v.x.regs.getS (w.b.toNat - 0x80 + j)).toNat
    let base := word 0 + 2 ^ 32 * word 1
    let cap := word 2
    let table := w.x.c.toNat % 4
    let b := (s.ctx v.c).bin v.die table
    let entryBad : Bool := base % 16 ≠ 0 || cap > 16777216 || word 3 ≠ 0
    let rowBad : Bool := word 0 % 16 ≠ 0 || word 0 > 65520
    if x > 0x102 || (x ≤ 0x100 && entryBad) || (x = 0x101 && rowBad) then .trap s (v.whole .prot)
    else if s.binBusy v.die v.c table then .done (s.setPred v false)
    else
      let b :=
        if x < 0x100 then { b with entries := Tab.set (0, 0, 0) b.entries x (base, cap, 0) }
        else if x = 0x100 then { b with ovf := (base, cap, 0) }
        else if x = 0x101 then
          { b with rowb := word 0, drops := 0, ovf := (b.ovf.1, b.ovf.2.1, 0)
                   entries := b.entries.foldl (fun t e => Tab.set (0, 0, 0) t e.1 (e.2.1, e.2.2.1, 0)) [] }
        else { b with drops := 0 }
      .done ((s.setBin v.c v.die table b).setPred v true)) s

/-- binrd (R258). -/
def execEnBinrd (w : TwoWord) (s : State) : Out :=
  runWord (.enBinrd w) noIll (fun v s =>
    let x := (v.uni w.a).toNat
    let b := (s.ctx v.c).bin v.die (w.x.c.toNat % 4)
    if x > 0x102 then .trap s (v.whole .prot)
    else
      let r : Nat :=
        if x < 0x100 then (Tab.get (0, 0, 0) b.entries x).2.2
        else if x = 0x100 then b.ovf.2.2 else if x = 0x101 then b.rowb else b.drops
      v.set s (v.x.modRegs (fun g => g.setS v.d (BitVec.ofNat 32 r)))) s

/-- cbstat (R258): OWN reads 1 where the issuing context owns the slot. -/
def execEnCbstat (w : TwoWord) (s : State) : Out :=
  runWord (.enCbstat w) noIll (fun v s =>
    let k := w.x.c.toNat % 16
    let b := s.book v.die k
    let r := putBits (b2n b.shadow.isSome) 1 31 + putBits (b2n (decide (b.owner = some v.c))) 1 30 + putBits b.fmt 4 26
      + putBits (s.inFlight v.die k) 14 12 + putBits b.gen 12 0
    v.set s (v.x.modRegs (fun g => g.setS v.d (BitVec.ofNat 32 r)))) s

end Sys2Proof.Machine
end

