-- ==== Sys2Proof/Machine/Tile.lean ====
section
/-!
DEFINITION. The matrix tile (14_tile R260 to R282): accumulator tiles, the matrix engine and its lease, operand maps, mma,
moves and the tile drain. A tile instruction issues when its group holds the engine, is accepted, and completes, in order.
-/
namespace Sys2Proof.Machine

/-- Element (i, j) of a tile of a core. -/
def Core.elem (c : Core) (t i j : Nat) : Word := Tab.get 0 c.acc (1024 * t + 32 * i + j)

/-- A tile written whole. -/
def Core.setTile (c : Core) (t : Nat) (f : Nat → Nat → Word) : Core :=
  { c with acc := (List.range 1024).foldl (fun m k => Tab.set 0 m (1024 * t + k) (f (k / 32) (k % 32))) c.acc }

/-- The tile that a group's name a<k> stands for (R260). -/
def Env.tile (v : Env) (k : Nat) : Nat := v.x.tile0 + k

/-- A tile name at or above ACC (R260). -/
def badTile (k : Nat) (v : Env) : Bool := v.x.tiles ≤ k

/-- Bytes of an element of K times two: 4 for BF16, 2 for 8-bit formats, 1 for MXFP4 (R269). -/
def halfBytes (t : Ty) : Nat := t.width / 4

/-- K of an mma step (R272). -/
def kStep (t : Ty) : Nat := 128 / halfBytes t

/-- The A format of an AFMT code (R271). -/
def afmtOf (c : Nat) : Ty := nth .mx4 [.bf16, .e4m3, .e5m2, .mt8] c

/-- The 2,048 bytes of the A fragment in line order (R265). -/
def fragment (r : Regs) (w va : Nat) : List Byte :=
  let byte (l b : Nat) : Byte :=
    let (reg, lane) : Nat × Nat :=
      if w = 16 then (if l < 16 then (va + b / 4, l) else (va + 16 + b / 4, l - 16))
      else if w = 32 then (va + b / 4, l)
      else if b < 32 then (va + b / 4, l) else (va + (b - 32) / 4, l + 32)
    nth 0 (toBytes 4 (r.getV reg lane).toNat) (b % 4)
  ((List.range 32).map (fun l => (List.range 64).map (byte l))).flatten

/-- The codes of 2,048 bytes in ascending byte order (R265, 03_numbers R50). -/
def codesOf (t : Ty) (bs : List Byte) : List Nat :=
  match halfBytes t with
  | 1 => (bs.map (fun b => [b.toNat % 16, b.toNat / 16])).flatten
  | 2 => bs.map (·.toNat)
  | _ => (wordsOf bs).map (fun x => [x.toNat % 65536, x.toNat / 65536]) |>.flatten

/-- Blocks of 32 elements in a row of a step (R267). -/
def stepBlocks (t : Ty) : Nat := kStep t / 32

/-- The scale byte of block q of row i, from the scale registers (R267). -/
def scaleByte (r : Regs) (w vc sxb : Nat) (t : Ty) (i q : Nat) : Nat :=
  let n := stepBlocks t
  let (reg, lane, byte) : Nat × Nat × Nat :=
    if w = 16 then (if i < 16 then (vc, i, sxb + q) else (vc + 1, i - 16, sxb + q))
    else if w = 32 then (vc, i, sxb + q)
    else if q < n / 2 then (vc, i, sxb + q) else (vc, i + 32, sxb + q - n / 2)
  bits (r.getV reg lane).toNat (8 * byte + 7) (8 * byte)

/-- The scale bytes that a step reads lie in their register (R267). -/
def sxbOk (w : Nat) (t : Ty) (sxb : Nat) : Bool :=
  let n := stepBlocks t
  t = .bf16 || sxb + (if w = 64 then n / 2 else n) ≤ 4

/-- The scratchpad offset of B element (k', j), and its nibble (R269). -/
def OMap.elemAt (m : OMap) (base k j : Nat) : Nat × Nat :=
  let t := Ty.ofCode m.fmt
  let h := halfBytes t
  let q := k / 32
  let bs := if t = .mx4 then 17 else 33
  if m.t then
    if m.sc then (base + j * m.stride + q * bs + k % 32 * h / 2, k % 2) else (base + j * m.stride + k * h / 2, k % 2)
  else if m.sc then (base + (33 * q + k % 32) * m.stride + j * h / 2, j % 2)
  else (base + k * m.stride + j * h / 2, j % 2)

/-- The scratchpad offset of the scale of column j, block q (R269). -/
def OMap.scaleAt (m : OMap) (base q j : Nat) : Nat :=
  let bs := if Ty.ofCode m.fmt = .mx4 then 17 else 33
  if m.t then base + j * m.stride + q * bs + bs - 1 else base + (33 * q + 32) * m.stride + j

/-- The bytes of B that an mma step reads (R269, R273). -/
def OMap.offsets (m : OMap) (base k0 : Nat) : List Nat :=
  let t := Ty.ofCode m.fmt
  let kb := kStep t
  let z := (halfBytes t + 1) / 2
  let elems := ((List.range kb).map (fun k => (List.range 32).map (fun j =>
    (List.range z).map (fun i => (m.elemAt base (k0 + k) j).1 + i)))).flatten.flatten
  let scales := if m.sc then
      ((List.range (stepBlocks t)).map (fun q => (List.range 32).map (fun j => m.scaleAt base (k0 / 32 + q) j))).flatten
    else []
  elems ++ scales

/-- The bounding byte range of a list of offsets. -/
def boundOf (os : List Nat) : Nat × Nat :=
  match os with
  | [] => (0, 0)
  | o :: os => (os.foldl min o, os.foldl max o + 1)

/-- The operation is an mma, the one operation that counts towards a lease (R262). -/
def TileOp.isMma (o : TileOp) : Bool :=
  match o.work with
  | .mma .. => true
  | _ => false

/-- Range-lock entries of a core freed. -/
def State.freeEntries (s : State) (core : Nat) (ls : List Nat) : State :=
  s.modCore core (fun c => { c with locks := ls.foldl (fun t l => Tab.set none t l none) c.locks })

/-- The map entry's ranges follow the mma in flight through it, one bounding range each; with none, it is kept, empty, for the
map, or for the last mma of a group that has exited, and is removed otherwise (R268). -/
def State.refreshMapLock (s : State) (core lock : Nat) : State :=
  let c := s.core core
  let rs := c.tileq.filterMap (fun o => match o.work with
    | .mma _ _ _ _ _ m base k0 => if m.lock = lock then some (boundOf (m.offsets base k0)) else none
    | _ => none)
  let mapped := s.groups.any (fun g => g.2.core = core && g.2.on && g.2.io.maps.any (fun m => match m.2 with
    | some m => m.lock = lock
    | none => false)) || c.tileq.any (fun o => o.frees.contains lock)
  let e : Option Lock := match rs with
    | [] => if mapped then some ⟨.sp, 0, 0, false, 2 ^ 64 + lock, []⟩ else none
    | r :: rest => some ⟨.sp, r.1, r.2, false, 2 ^ 64 + lock, rest⟩
  s.setCore core { c with locks := Tab.set none c.locks lock e }

/-- A window slot of a core. -/
def Core.win (c : Core) (w : Nat) : Window := Tab.get {} c.windows w

/-- A window slot replaced. -/
def State.setWin (s : State) (core w : Nat) (x : Window) : State :=
  s.modCore core (fun c => { c with windows := Tab.set {} c.windows w x })

/-- The Closed window that the arbiter chooses: of those with their ranges entered, the first to close (15_net R291). -/
def Core.closedWin (c : Core) : Option Nat :=
  let ws := (List.range 4).filter (fun w => (c.win w).st = .closed && (c.win w).locked)
  ws.foldl (fun (b : Option Nat) w => match b with
    | none => some w
    | some o => if (c.win w).order < (c.win o).order then some w else some o) none

/-- Operations of a group that are issued and not yet accepted (R263). -/
def Core.waitingOps (c : Core) (g : Nat) : Nat := (c.tileq.filter (fun o => o.group = g ∧ ¬o.accepted)).length

/-- The groups of a core that wait for the engine: at a tile instruction, unless their issue is stopped, or with an operation
not yet accepted (R262, R281). -/
def State.engineWaiters (s : State) (core : Nat) : List (Nat × Group) :=
  s.groups.filter (fun g => g.2.core = core && g.2.on
    && ((g.2.flow.park = some .tile && !g.2.flow.stop) || (s.core core).waitingOps g.1 > 0))

/-- The first of a list of groups by the keys of R199 on port E. -/
def State.firstGroup (s : State) (port : Nat) : List (Nat × Group) → Option (Nat × Group)
  | [] => none
  | g :: gs =>
    match s.firstGroup port gs with
    | none => some g
    | some h => if keyLt (s.rank port h.2) (s.rank port g.2) then some h else some g

/-- The group is of the display class. -/
def State.isDisplay (s : State) (x : Group) : Bool :=
  match s.team x.team with
  | some t => t.cls = 0
  | none => false

/-- The lease length of a group's kernel (R262). -/
def State.leaseOf (s : State) (g : Nat) : Nat :=
  match s.group g with
  | some x => match s.team x.team with
    | some t => t.kern.lease
    | none => 1
  | none => 1

/-- LEASE mma of the holder have been accepted (R262). -/
def State.leaseSpent (s : State) (core : Nat) : Bool :=
  let c := s.core core
  match c.holder with
  | some (.group g) => c.leaseUsed ≥ s.leaseOf g
  | _ => false

/-- 16 ac have passed with no tile instruction of the holder waiting or in flight (R262). -/
def State.leaseIdle (s : State) (core : Nat) : Bool :=
  let c := s.core core
  match c.holder with
  | some (.group g) =>
    !c.tileq.any (fun o => o.group = g) && !(s.engineWaiters core).any (fun w => w.1 = g) && c.lastTile + 16 ≤ s.sched.now
  | _ => false

/-- A display-class group waits for the engine while the holder is not of that class (R262). -/
def State.leaseYields (s : State) (core : Nat) : Bool :=
  let c := s.core core
  match c.holder with
  | some (.group g) =>
    (match s.group g with
      | some x => !s.isDisplay x
      | none => true) && (s.engineWaiters core).any (fun w => s.isDisplay w.2)
  | _ => false

/-- The lease of the group that holds the engine is over, though the arbiter has not yet chosen (R262). -/
def State.leaseOver (s : State) (core : Nat) : Bool := s.leaseSpent core || s.leaseIdle core || s.leaseYields core

/-- A lease of a group starts. -/
def Core.lease (c : Core) (g now : Nat) : Core :=
  { c with holder := some (.group g), leaseUsed := 0, leased := some g, lastTile := now }

/-- The engine of a core goes to a group: it starts a lease, and a wait at a tile instruction ends, but not that of a group whose
issue is stopped, which is saved at that word (R262, R281). -/
def State.grantEngine (s : State) (core g : Nat) : State :=
  let s := s.modCore core (fun c => c.lease g s.sched.now)
  s.modGroup g (fun x =>
    if x.flow.park = some .tile ∧ x.flow.stop = false then x.modFlow (fun f => { f with park := none }) else x)

/-- The first of the groups that wait, by R199; the one that had the last lease comes after the others, so that two groups
alternate (R282; DEDUCED, log 95: keys 2 to 5 of R199 alone would give the older of the two every lease). -/
def State.firstWaiter (s : State) (core : Nat) (ws : List (Nat × Group)) : Option (Nat × Group) :=
  match s.firstGroup 4 (ws.filter (fun g => (s.core core).leased ≠ some g.1)) with
  | some g => some g
  | none => s.firstGroup 4 ws

/-- The arbiter's choice at the end of a lease: a display-class group, the skein unit, then the other groups by R199 (R262). -/
def State.arbitrate (s : State) (core : Nat) : Option State :=
  let c := s.core core
  let waiters := s.engineWaiters core
  match s.firstWaiter core (waiters.filter (fun g => s.isDisplay g.2)) with
  | some g => some (s.grantEngine core g.1)
  | none =>
    match c.closedWin with
    | some w =>
      let s := s.setWin core w { c.win w with st := .running }
      some (s.modCore core (fun c => { c with holder := some (.skein w), leaseUsed := 0 }))
    | none => (s.firstWaiter core waiters).map (fun g => s.grantEngine core g.1)

/-- The core as a tile instruction of a group finds it where the group holds the engine, or takes it: the engine has no holder
and nothing else waits for the arbiter (R262). -/
def State.acquire (s : State) (core g : Nat) : Option Core :=
  let c := s.core core
  match c.holder with
  | none =>
    if (s.engineWaiters core).any (fun w => w.1 ≠ g) || c.closedWin.isSome then none else some (c.lease g s.sched.now)
  | some (.group h) => if h = g && !s.leaseOver core then some { c with lastTile := s.sched.now } else none
  | some (.skein _) => none

/-- A tile instruction issues: it waits at issue for the engine, or for room among its group's four unaccepted operations (R262,
R263). -/
def withEngine (v : Env) (s : State) (f : State → Eff) : Eff :=
  match s.acquire v.x.core v.g with
  | none => .park s .tile
  | some c => if c.waitingOps v.g ≥ 4 then .park s .tile else f (s.setCore v.x.core c)

/-- A tile operation is issued: it joins the core's queue, its flag counts and its results are pending (R263). -/
def State.issueTile (s : State) (v : Env) (regs : List Reg) (work : TileWork) : State :=
  let (uid, s) := s.fresh
  let s := s.modCore v.x.core (fun c =>
    { c with tileq := c.tileq ++ [{ uid := uid, group := v.g, team := v.x.team, fm := v.fm, lanes := v.act, pc := v.cl.own, cbase := v.cl.base, work := work }] })
  s.launchOp v uid regs

/-- The map that D[22:21] names (R270, R271). -/
def Env.mapNo (v : Env) : Nat := bits v.e.t.d.toNat 6 5

/-- A map of a group. -/
def Group.map (x : Group) (m : Nat) : Option OMap := Tab.get none x.io.maps m

/-- omap, set (R270). -/
def execEnOmap (w : TwoWord) (s : State) : Out :=
  runWord (.enOmap w) noIll (fun v s =>
    let m2 := w.x.mod2.toNat
    let h := bit m2 6
    let base := (v.uni w.a).toNat
    let stride := (v.uni w.b).toNat
    let reserved := if h then bits base 25 19 else bits base 31 19
    if reserved ≠ 0 ∨ stride > 0x7FFFF then .trap s (v.whole .prot)
    else
      let new (lock : Nat) : OMap := ⟨m2 % 16, bit m2 4, bit m2 5, h, base, stride, lock⟩
      let put (s : State) (lock : Nat) : State :=
        s.modGroup v.g (fun x => x.modIo (fun io => { io with maps := Tab.set none io.maps v.mapNo (some (new lock)) }))
      match v.x.map v.mapNo with
      | some o => .done ((put s o.lock).setPred v true)
      | none =>
        match (s.core v.x.core).freeLocks with
        | [] => .done (s.setPred v false)
        | k :: _ => .done (((put s k).refreshMapLock v.x.core k).setPred v true)) s

/-- omap.rel (R270). -/
def execEnOmapRel (w : TwoWord) (s : State) : Out :=
  runWord (.enOmapRel w) noIll (fun v s =>
    match v.x.map v.mapNo with
    | none => .done s
    | some o =>
      let s := s.modGroup v.g (fun x => x.modIo (fun io => { io with maps := Tab.set none io.maps v.mapNo none }))
      .done (s.refreshMapLock v.x.core o.lock)) s

/-- The rules of an mma's encoding that depend on the group and its map (R265 to R267, R271). -/
def mmaIll (w : TwoWord) (v : Env) (_ : State) : Bool :=
  let m2 := w.x.mod2.toNat
  let af := afmtOf (bits m2 5 3)
  let c := w.x.c.toNat
  let top := if v.x.w = 16 then c + 1 else c
  badTile (w.d.toNat % 32) v || !sxbOk v.x.w af (m2 % 4)
    || (match v.x.map (bits w.d.toNat 6 5) with
      | none => false
      | some m => if m.sc then v.x.alloc ≤ top else c ≠ 0)

/-- The permitted pairs of A and B formats (R272). -/
def mmaPair (a b : Ty) : Bool :=
  let eight (t : Ty) : Bool := t = .e4m3 || t = .e5m2 || t = .mt8
  (a = .bf16 && b = .bf16) || (a = .mx4 && b = .mx4) || (eight a && eight b)

/-- mma at issue: the checks of R273 in order, then the operation with its captured sources (R263, R271). -/
def mmaIssue (w : TwoWord) (v : Env) (s : State) : Eff :=
  withEngine v s (fun s =>
    let m2 := w.x.mod2.toNat
    let af := afmtOf (bits m2 5 3)
    let k0 := (v.uni w.b).toNat
    match v.x.map v.mapNo with
    | none => .trap s (v.whole .prot)
    | some m =>
      let off := bits m.base 18 0
      let handle := if m.h then v.handleNo (bits m.base 31 26) else none
      let hs := match handle with
        | some k => (s.core v.x.core).handle k
        | none => {}
      let base := if m.h then hs.base * 128 + off else off
      let os := m.offsets base k0
      let inside (o : Nat) : Bool :=
        v.x.owns o 1 && (!m.h || (hs.base * 128 ≤ o && o < (hs.base + hs.size) * 128))
      if !mmaPair af (Ty.ofCode m.fmt) || k0 % kStep af ≠ 0 then .trap s (v.whole .prot)
      else if af = .bf16 && (off % 2 ≠ 0 || m.stride % 2 ≠ 0) then .trap s (v.whole .align)
      else if m.h && (handle.isNone || !(hs.st = .filling || hs.st = .full)) then .trap s (v.whole .hstate)
      else if !os.all inside then .trap s (v.whole .prot)
      else
        let codes := codesOf af (fragment v.x.regs v.x.w w.a.toNat)
        let sb := if m.sc then ((List.range 32).map (fun i => (List.range (stepBlocks af)).map (fun q =>
          scaleByte v.x.regs v.x.w w.x.c.toNat (m2 % 4) af i q))).flatten else []
        .done ((s.issueTile v [] (.mma (v.tile (w.d.toNat % 32)) af (bit m2 2) codes sb m base k0)).refreshMapLock
          v.x.core m.lock))

/-- mma (R271 to R273). -/
def execEnMma (w : TwoWord) (s : State) : Out := runWord (.enMma w) (mmaIll w) (mmaIssue w) s

/-- Element i of a list of codes as a value, with the flags of its decode. -/
def codeAt (t : Ty) (fm : FMode) (codes : List Nat) (i : Nat) : Val × Flags := decode t fm (nth 0 codes i)

/-- One native block of an mma: the scaled, rounded sum of its products (R272, 03_numbers R61). -/
def blockSum (fm : FMode) (ps : List ((Val × Flags) × (Val × Flags))) (sa sb : Option Nat) : Nat × Flags :=
  let fl := ps.foldl (fun f p => f ||| p.1.2 ||| p.2.2) 0
  let sum := ps.foldl (fun (acc : Val) p => (addVal .rne acc (mulVal p.1.1 p.2.1).1).1) (.zero false)
  let nanScale := sa = some 0xFF ∨ sb = some 0xFF
  let exp (x : Option Nat) : Int := match x with
    | some b => (b : Int) - 127
    | none => 0
  if sum.isNan ∨ nanScale then (Ty.canonNan .f32, fl ||| Flags.nv)
  else
    let r := if sum.isZero then (0, 0) else roundTo .f32 fm .rne (sum.scale (exp sa + exp sb))
    (r.1, fl ||| r.2)

/-- One element of the accumulation (R272). -/
def mmaElem (fm : FMode) (af : Ty) (sc : Bool) (aAt : Nat → Val × Flags) (bAt : Nat → Val × Flags)
    (sa sb : Nat → Nat) (acc : Word) : Word × Flags :=
  let nb := kStep af / 4
  (List.range 4).foldl (fun (p : Word × Flags) n =>
    let ps := (List.range nb).map (fun k => (aAt (n * nb + k), bAt (n * nb + k)))
    let q := n * nb / 32
    let (x, f1) := blockSum fm ps (if sc then some (sa q) else none) (if sc then some (sb q) else none)
    let (y, f2) := fAdd .f32 fm .rne p.1.toNat x
    (BitVec.ofNat 32 y, p.2 ||| f1 ||| f2)) (acc, 0)

/-- A B element read from the scratchpad (R269). -/
def State.bCode (s : State) (core : Nat) (m : OMap) (base k j : Nat) : Nat :=
  let t := Ty.ofCode m.fmt
  let (o, nib) := m.elemAt base k j
  if t = .mx4 then bits (s.readSp core o).toNat (4 * nib + 3) (4 * nib)
  else s.readSpNat core o (halfBytes t / 2)

/-- The tile after an mma, and its flags (R272). -/
def State.mmaResult (s : State) (core : Nat) (fm : FMode) (t : Nat) (af : Ty) (at_ : Bool) (codes scales : List Nat)
    (m : OMap) (base k0 : Nat) : Core × Flags :=
  let c := s.core core
  let bf := Ty.ofCode m.fmt
  let kb := kStep af
  let nq := stepBlocks af
  let a (i k : Nat) : Val × Flags := codeAt af fm codes (if at_ then k * 32 + i else i * kb + k)
  let b (j k : Nat) : Val × Flags := decode bf fm (s.bCode core m base (k0 + k) j)
  let sa (i q : Nat) : Nat := nth 0 scales (i * nq + q)
  let sb (j q : Nat) : Nat := (s.readSp core (m.scaleAt base (k0 / 32 + q) j)).toNat
  let rs := (List.range 1024).map (fun n =>
    mmaElem fm af m.sc (a (n / 32)) (b (n % 32)) (sa (n / 32)) (sb (n % 32)) (c.elem t (n / 32) (n % 32)))
  (c.setTile t (fun i j => (nth (0, 0) rs (32 * i + j)).1), rs.foldl (fun f r => f ||| r.2) 0)

/-- The slice that registers hold (R275). -/
def sliceOf (r : Regs) (w d : Nat) : List Word :=
  (List.range 32).map (fun l => if w = 16 ∧ 16 ≤ l then r.getV (d + 1) (l - 16) else r.getV d l)

/-- The register values of a slice in the lanes of a mask (R275). -/
def sliceVals (w d : Nat) (m : Mask) (sl : List Word) : List (Reg × Nat × Word) :=
  let one (l : Nat) : List (Reg × Nat × Word) :=
    if w = 16 then [(.v d, l, nth 0 sl l), (.v (d + 1), l, nth 0 sl (l + 16))] else [(.v d, l, nth 0 sl (l % 32))]
  ((lanesOf m).map one).flatten

/-- tzero (R276). -/
def execEnTzero (w : TwoWord) (s : State) : Out :=
  runWord (.enTzero w) (fun v _ => badTile w.d.toNat v) (fun v s =>
    withEngine v s (fun s => .done (s.issueTile v [] (.zero (v.tile w.d.toNat))))) s

/-- tfill (R276). -/
def execEnTfill (w : TwoWord) (s : State) : Out :=
  runWord (.enTfill w) (fun v _ => badTile w.b.toNat v) (fun v s =>
    withEngine v s (fun s =>
      .done (s.issueTile v [] (.fill (v.tile w.b.toNat) (bit w.x.mod2.toNat 0) (sliceOf v.x.regs v.x.w v.d))))) s

/-- The slice index of tget and tset: PROT above 31 (R276). -/
def withIndex (w : TwoWord) (v : Env) (s : State) (f : State → Nat → Eff) : Eff :=
  withEngine v s (fun s =>
    let n := (v.uni w.a + BitVec.ofNat 32 w.x.c.toNat).toNat
    if n > 31 then .trap s (v.whole .prot) else f s n)

/-- tset (R276). -/
def execEnTset (w : TwoWord) (s : State) : Out :=
  runWord (.enTset w) (fun v _ => badTile w.b.toNat v) (fun v s => withIndex w v s (fun s n =>
    .done (s.issueTile v [] (.put (v.tile w.b.toNat) (bit w.x.mod2.toNat 0) n (sliceOf v.x.regs v.x.w v.d))))) s

/-- tget (R276). -/
def execEnTget (w : TwoWord) (s : State) : Out :=
  runWord (.enTget w) (fun v _ => badTile w.b.toNat v) (fun v s => withIndex w v s (fun s n =>
    let regs := if v.x.w = 16 then [Reg.v v.d, Reg.v (v.d + 1)] else [Reg.v v.d]
    .done (s.issueTile v regs (.get (v.tile w.b.toNat) (bit w.x.mod2.toNat 0) n v.d)))) s

/-- tmov (R276). -/
def execEnTmov (w : TwoWord) (s : State) : Out :=
  runWord (.enTmov w) (fun v _ => badTile w.d.toNat v || badTile w.b.toNat v) (fun v s =>
    withEngine v s (fun s =>
      .done (s.issueTile v [] (.mov (v.tile w.d.toNat) (v.tile w.b.toNat) (bit w.x.mod2.toNat 0))))) s

/-- tstat (R276). -/
def execEnTstat (w : TwoWord) (s : State) : Out :=
  runWord (.enTstat w) (fun v _ => badTile w.b.toNat v) (fun v s =>
    withEngine v s (fun s => .done (s.issueTile v [.s v.d] (.stat v.d (v.tile w.b.toNat))))) s

/-- sxsel (R276): it acts on group state and does not use the engine. -/
def execEnSxsel (w : TwoWord) (s : State) : Out :=
  runWord (.enSxsel w) (fun v _ => badTile w.d.toNat v) (fun v s =>
    let e := (v.uni w.a).toInt
    if e < -127 ∨ e > 127 then .trap s (v.whole .prot)
    else .done (s.modCore v.x.core (fun c => { c with sx := Tab.set 0 c.sx (v.tile w.d.toNat) e }))) s

/-- Bytes of an output row of a drain (R278). -/
def drainRow (fd : Ty) (blk : Bool) : Nat := 4 * fd.width + (if blk then 1 else 0)

/-- tdrain at issue: the checks of R279, the destination's range-lock entry, and the operation. -/
def drainIssue (w : TwoWord) (v : Env) (s : State) : Eff :=
  withEngine v s (fun s =>
    let m2 := w.x.mod2.toNat
    let c := w.x.c.toNat
    let fd := Ty.ofCode (m2 % 16)
    let sp := bit m2 4
    let blk := bit c 7
    let n := drainRow fd blk
    let addr := if sp then (v.uni w.a).toNat else v.pair w.a
    let stride := (v.uni w.b).toNat
    let align := if fd = .f32 then 4 else if fd = .f16 ∨ fd = .bf16 then 2 else 1
    let at_ (t : Trap) : Trap := { t with tmask := v.act, addr := addr }
    if addr % align ≠ 0 ∨ stride % align ≠ 0 then .trap s (at_ (v.whole .align))
    else if stride < n ∨ stride > 0xFFFFFF then .trap s (at_ (v.whole .prot))
    else
      let rows : List LaneAcc := (List.range 32).map (fun o =>
        ⟨o, if sp then addr + o * stride else addOff addr (o * stride : Nat)⟩)
      match v.check s { space := b2n sp, n := n, align := 1, write := true, locks := false, rows := true } rows with
      | .trap s t => .trap s (at_ t)
      | .park s p => .park s p
      | .ok s bytes =>
        let uid := s.sched.uid
        let lock : Lock := ⟨if sp then .sp else .glob, addr, addr + 31 * stride + n, true, uid, []⟩
        match (s.core v.x.core).enterLocks [lock] with
        | none => .done (s.setPred v false)
        | some core =>
          -- D of the destination's leaves, only where the drain will write (06_page R131)
          let vas := (rows.map (v.x.vas (b2n sp) n)).flatten
          match v.dirtyAll (pagesOf vas) s with
          | (s, some va) => .park s (.walk va true false)
          | (s, none) =>
          let t := v.tile (c % 32)
          let work : TileWork := .drain
            { tile := t, fd := fd, rnd := w.x.mod1.toNat, am := if bit w.d.toNat 3 then some (bits w.d.toNat 6 4) else none
              tr := bit c 5, z := bit c 6, blk := blk, sx := Tab.get 0 core.sx t, addr := addr, rows := bytes.map (·.2), via := v.via s vas }
          .done (((s.setCore v.x.core core).issueTile v [] work).setPred v true))

/-- tdrain (R277 to R279). -/
def execEnTdrain (w : TwoWord) (s : State) : Out :=
  runWord (.enTdrain w) (fun v _ => badTile (w.x.c.toNat % 32) v) (drainIssue w) s

/-- A conversion of the drain of one element: the code and its flags (R278, R280). -/
def drainElem (x : Drain) (fm : FMode) (bitsOf : Word) : (Val × Flags) × (Nat × Flags) :=
  let (a, f) := decode .f32 fm bitsOf.toNat
  let y := a.scale x.sx
  let big := match y with
    | .fin _ m e => Val.lt (.fin false 0xFFFFFF 104) (.fin false m e)
    | _ => false
  let f := f ||| Flags.when big .of
  if x.fd = .f32 ∧ x.sx = 0 then
    let flushed := isSubnormal .f32 bitsOf.toNat && fm.ftz32
    ((y, f), (if flushed then bitsOf.toNat / 2 ^ 31 * 2 ^ 31 else bitsOf.toNat, f))
  else ((y, f), (0, f))

/-- The am register that a drain updates takes the maximum over the tile (03_numbers R60). -/
def Core.amaxTile (c : Core) (k t : Nat) : Core :=
  let one (m x : Nat) : Nat := max m (if (decodeRaw .f32 x).isNan then 0x7FC00000 else x % 2 ^ 31)
  let m := (List.range 1024).foldl (fun m n => one m (c.elem t (n / 32) (n % 32)).toNat) (Tab.get 0 c.am k).toNat
  { c with am := Tab.set 0 c.am k (BitVec.ofNat 32 m) }

/-- Generator states of the 32 tile rows of a stochastic drain (03_numbers R58). The core generator advances when the drain
converts, which the model does at TILE_OP_COMPLETE (DESIGN CHOICE, log 66). -/
def drainSeeds (x : Drain) (seed : Word) : Nat → List Word
  | 0 => []
  | n + 1 =>
    let s := if x.rnd = 4 then rngNext seed else seed
    s :: drainSeeds x s n

/-- The rows that a drain writes, the core after it, and its flags (R278). -/
def Core.drainRows (c : Core) (x : Drain) (fm : FMode) : List (List Byte) × Core × Flags :=
  let seeds := drainSeeds x c.srseed 32
  let rnd (i j : Nat) : Rnd := if x.rnd = 4 then .sr (rngU (nth 0 seeds i) (7 * j)) else Rnd.ofCode x.rnd
  let src (o k : Nat) : Nat × Nat := if x.tr then (k, o) else (o, k)
  let row (o : Nat) : List Byte × Flags :=
    let xs := (List.range 32).map (fun k =>
      let (i, j) := src o k
      (drainElem x fm (c.elem x.tile i j), rnd i j))
    let f0 := xs.foldl (fun f e => f ||| e.1.1.2) 0
    let scale := blockScale x.fd (xs.map (fun e => e.1.1.1))
    let rs : List (Nat × Flags) :=
      if x.blk then blockElems x.fd fm scale (xs.map (fun e => (e.1.1.1, e.2)))
      else if x.fd = .f32 ∧ x.sx = 0 then xs.map (fun e => e.1.2)
      else xs.map (fun e => roundTo x.fd fm e.2 e.1.1.1)
    let packed := rs.foldr (fun r n => r.1 % 2 ^ x.fd.width + 2 ^ x.fd.width * n) 0
    (toBytes (4 * x.fd.width) packed ++ (if x.blk then [BitVec.ofNat 8 scale] else []), rs.foldl (fun f r => f ||| r.2) f0)
  let rows := (List.range 32).map row
  let c := match x.am with
    | some k => c.amaxTile k x.tile
    | none => c
  let c := { c with srseed := nth c.srseed seeds 31 }
  let c := if x.z then c.setTile x.tile (fun _ _ => 0) else c
  (rows.map (·.1), c, rows.foldl (fun f r => f ||| r.2) 0)

/-- The first operation of a core that the engine has not accepted and may accept: its group holds the engine, in a lease that
is not over, or has ended and no window runs (R261 to R263). -/
def State.nextOp (s : State) (core : Nat) : Option TileOp :=
  let c := s.core core
  let gone (g : Nat) : Bool := match s.group g with
    | some x => x.flow.ended
    | none => true
  let skein : Bool := match c.holder with
    | some (.skein _) => true
    | _ => false
  c.tileq.find? (fun o => !o.accepted
    && ((c.holder = some (.group o.group) && !s.leaseOver core) || (gone o.group && !skein)))

/-- The engine works for the holder of its lease: what it does for a group that has ended counts for no lease (R262). -/
def Core.atWork (c : Core) (g : Nat) (mma : Bool) (now : Nat) : Core :=
  if c.holder = some (.group g) then { c with leaseUsed := c.leaseUsed + b2n mma, lastTile := now } else c

/-- TILE_OP_ACCEPT (R263): the engine accepts the next operation of its holder, once the group's stores that it must observe
are performed. -/
def execEvTileOpAccept (core : Nat) (s : State) : Out :=
  event (
    let c := s.core core
    match s.nextOp core with
    | none => none
    | some o =>
      let ready : Bool := match o.work, s.group o.group with
        | .mma .., some x => x.io.sq.isEmpty
        | .drain _, some x => x.drained
        | _, _ => true
      if !ready then none
      else
        some (s.setCore core (Core.atWork { c with
          tileq := c.tileq.map (fun q => if q.uid = o.uid then { q with accepted := true } else q) }
            o.group o.isMma s.sched.now)))

/-- The oldest accepted operation of a core. -/
def Core.headOp (c : Core) : Option TileOp := c.tileq.find? (fun o => o.accepted)

/-- An operation leaves the core's queue, and frees the map entries of a group that exited before it; its flags are raised, its
results written, its flag decremented (R264, R268, R280). -/
def State.finishTile (s : State) (core : Nat) (o : TileOp) (fl : Flags) (vals : List (Reg × Nat × Word)) : State :=
  let s := s.modCore core (fun c =>
    Core.atWork { c with tileq := c.tileq.filter (fun q => q.uid ≠ o.uid) } o.group false s.sched.now)
  ((((s.freeEntries core o.frees).modGroup o.group (fun x => x.raise fl)).endOp o.group o.uid vals)).keepCore core

/-- The oldest accepted operation takes effect (R264, R272, R276, R278). `res` is a memory error in a B line or in a drain, or a
lost link of a drain: such a drain writes no byte, and leaves am<k>, %srseed and the tile as they are (DESIGN CHOICE, log 85: R279
says only that the error is taken under R106). -/
def State.completeTile (s : State) (core : Nat) (res : IoEnd) : Option State :=
    let c := s.core core
    match c.headOp with
    | none => none
    | some o =>
      let done (s : State) (fl : Flags) (vals : List (Reg × Nat × Word)) : Option State :=
        if res = .ok then some (s.finishTile core o fl vals) else none
      match o.work with
      | .mma t af at_ codes scales m base k0 =>
        let lines := (m.offsets base k0).map (· / 128)
        if !(lines.all (fun n => s.present core n)) then none
        else
          let after (s : State) : State := (s.finishTile core o 0 []).refreshMapLock core m.lock
          match res with
          | .ok =>
            let (c', fl) := s.mmaResult core o.fm t af at_ codes scales m base k0
            some (after ((s.setCore core c').modGroup o.group (fun x => x.raise fl)))
          | .memerr =>
            let l := lateOf .memerr o.pc base o.lanes []
            some (after (s.addLate o.group { l with tile := true }))
          | .link | .fixed _ => none
      | .zero t => done (s.setCore core (c.setTile t (fun _ _ => 0))) 0 []
      | .fill t col sl => done (s.setCore core (c.setTile t (fun i j => nth 0 sl (if col then i else j)))) 0 []
      | .put t col n sl =>
        done (s.setCore core (c.setTile t (fun i j =>
          if (if col then j else i) = n then nth 0 sl (if col then i else j) else c.elem t i j))) 0 []
      | .get t col n d =>
        let sl := (List.range 32).map (fun l => if col then c.elem t l n else c.elem t n l)
        match s.group o.group with
        | some x => done s 0 (sliceVals x.w d o.lanes sl)
        | none => done s 0 []
      | .mov d t tr => done (s.setCore core (c.setTile d (fun i j => if tr then c.elem t j i else c.elem t i j))) 0 []
      | .stat d t =>
        let m := Tab.get 0 ({ c with am := [] }.amaxTile 0 t).am 0
        done s 0 [(.s d, 0, m)]
      | .drain x =>
        if !s.mayEnd (dieOfCore core) (homesOf x.rows.flatten) res then none
        else match res with
        | .ok =>
          let (rows, c', fl) := c.drainRows x o.fm
          let s := s.setCore core c'
          let s := (x.rows.zip rows).foldl (fun s r => s.engWrite false r.1 r.2) s
          let s := x.rows.flatten.foldl (fun s l => match l with
            | .sp k off => s.mark k (off / 128) true
            | _ => s) s
          some (((s.finishTile core o fl []).unlock core o.uid).refreshHandles core)
        | r =>
          let s := s.addLate o.group (lateOf r o.pc x.addr o.lanes [])
          some ((s.finishTile core o 0 []).unlock core o.uid)

/-- TILE_OP_COMPLETE (R264, R272, R276, R278). -/
def execEvTileOpComplete (core : Nat) (res : IoEnd) (s : State) : Out :=
  event ((s.corrected res).1.completeTile core (s.corrected res).2)

/-- The holder gives the engine up, and the arbiter chooses (R262). -/
def State.endLease (s : State) (core : Nat) : State :=
  let s := s.modCore core (fun c => { c with holder := none })
  (s.arbitrate core).getD s

/-- LEASE_COUNT_EXPIRY (R262): LEASE mma of the holder have been accepted and its lease ends. -/
def execEvLeaseCountExpiry (core : Nat) (s : State) : Out :=
  event (if s.leaseSpent core then some (s.endLease core) else none)

/-- LEASE_IDLE_EXPIRY (R262): 16 ac have passed with no tile instruction of the holder waiting or in flight. -/
def execEvLeaseIdleExpiry (core : Nat) (s : State) : Out :=
  event (if s.leaseIdle core then some (s.endLease core) else none)

end Sys2Proof.Machine
end

