-- ==== Sys2Proof/Machine/Net.lean ====
section
/-!
DEFINITION. The net handle and the skein unit (15_net R283 to R304): binding networks, gather windows, the evaluation of
their rows, activation tables; and the arbiter of the matrix engine (14_tile R262).
-/
namespace Sys2Proof.Machine

/-- Word j of a bound record. -/
def NetRec.word (r : NetRec) (j : Nat) : Nat := (nth 0 r.words j).toNat

/-- The header's fields (R285). -/
def NetRec.hdr (r : NetRec) : Nat := r.word 0
def NetRec.nl (r : NetRec) : Nat := bits r.hdr 3 0
def NetRec.nin (r : NetRec) : Nat := bits r.hdr 11 6 + 1
def NetRec.nout (r : NetRec) : Nat := bits r.hdr 15 12 + 1
def NetRec.wfmt (r : NetRec) : Ty := nth .mt8 [.bf16, .e4m3, .e5m2] (bits r.hdr 17 16)
def NetRec.wcsp (r : NetRec) : Bool := bit r.hdr 24

/-- The fields of layer l (R286). -/
def NetRec.wbase (r : NetRec) (l : Nat) : Nat := r.word (4 + 4 * l) + 2 ^ 32 * r.word (5 + 4 * l)
def NetRec.boff (r : NetRec) (l : Nat) : Nat := r.word (6 + 4 * l)
def NetRec.wid (r : NetRec) (l : Nat) : Nat := bits (r.word (7 + 4 * l)) 5 0 + 1
def NetRec.act (r : NetRec) (l : Nat) : Nat := bits (r.word (7 + 4 * l)) 11 8

/-- Inputs of layer l (R287). -/
def NetRec.ins (r : NetRec) (l : Nat) : Nat := if l = 0 then r.nin else r.wid (l - 1)

/-- The row stride S_l (R287). -/
def NetRec.stride (r : NetRec) (l : Nat) : Nat := ceilDiv (r.ins l * (r.wfmt.width / 8)) 64 * 64

/-- The record is one that nbind accepts (R287). -/
def NetRec.valid (r : NetRec) : Bool :=
  let layer (l : Nat) : Bool :=
    if l < r.nl then
      bits (r.word (7 + 4 * l)) 31 12 = 0 && bits (r.word (7 + 4 * l)) 7 6 = 0 && (r.act l ≤ 7 || r.act l = 15)
        && r.wbase l % 64 = 0 && r.boff l % 4 = 0 && r.wid l * r.stride l ≤ r.boff l
        && (!r.wcsp || r.wbase l < 2 ^ 32)
    else (List.range 4).all (fun k => r.word (4 + 4 * l + k) = 0)
  bits r.hdr 31 25 = 0 && bits r.hdr 23 18 = 0 && bits r.hdr 5 4 = 0
    && (List.range 3).all (fun k => r.word (1 + k) = 0) && (List.range 35).all (fun k => r.word (29 + k) = 0)
    && 1 ≤ r.nl && r.nl ≤ 6 && (List.range 6).all layer && r.wid (r.nl - 1) = r.nout

/-- The tables that a network's layers name. -/
def NetRec.tables (r : NetRec) : List Nat :=
  (((List.range r.nl).map r.act).filter (fun a => a < 8)).eraseDups

/-- An activation table of a core. -/
def Core.table (c : Core) (t : Nat) : ActTable := Tab.get {} c.acts t

/-- A window pins the live bank of a table (R288, R299). -/
def Core.pinned (c : Core) (t : Nat) : Bool :=
  (List.range 4).any (fun w =>
    let x := c.win w
    x.st ≠ .free && (match x.snap with
      | some s => s.pins.any (fun p => p.1 = t && p.2.1 = (c.table t).gen && p.2.2 = (c.table t).live)
      | none => false))

/-- The pending swap of a table is made (R299). -/
def Core.swap (c : Core) (t : Nat) : Core :=
  let a := c.table t
  match a.pending with
  | some b => { c with acts := Tab.set {} c.acts t ⟨b, none, (a.gen + 1) % 2 ^ 32⟩ }
  | none => c

/-- Every pending swap of a core whose live bank no window pins is made (R299). -/
def Core.swaps (c : Core) : Core :=
  (List.range 8).foldl (fun c t => if (c.table t).pending.isSome && !c.pinned t then c.swap t else c) c

/-- A window's slot is Free: its ranges and its fault go, the engine has no holder, and swaps that it held up are made (R291,
R299). -/
def State.clearWindow (s : State) (core w : Nat) : State :=
  let x := (s.core core).win w
  let s := ((s.setWin core w {}).unlock core x.uid).leaveSlots (fun p => p = .skein core w)
  s.modCore core (fun c => (if c.holder = some (.skein w) then { c with holder := none } else c).swaps)

/-- A window closes (R290). -/
def State.closeWindow (s : State) (core w : Nat) : State :=
  let x := (s.core core).win w
  if x.st = .opened then
    let (n, s) := s.fresh
    s.setWin core w { x with st := .closed, order := n }
  else s

/-- Every Open window of a core with a row that meets `p` closes (R290). -/
def State.closeWindows (s : State) (core : Nat) (p : NetRow → Bool) : State :=
  (List.range 4).foldl (fun s w => if ((s.core core).win w).rows.any p then s.closeWindow core w else s) s

/-- The windows that hold rows of a group close (R290). -/
def State.closeFor (s : State) (g : Nat) : State :=
  match s.group g with
  | some x => s.closeWindows x.core (fun r => r.group = g)
  | none => s

/-- A window opened in a Free slot with a snapshot. -/
def State.openWindow (s : State) (core w c : Nat) (snap : NetSnap) : State :=
  let (uid, s) := s.fresh
  s.setWin core w { st := .opened, ctx := c, snap := some snap, openedAt := s.sched.now, timer := (s.core core).window, uid := uid }

/-- A row joins a window, which closes when it is full (R289). -/
def State.joinWindow (s : State) (core w : Nat) (r : NetRow) : State :=
  let x := (s.core core).win w
  let s := s.setWin core w { x with rows := x.rows ++ [r] }
  if x.rows.length + 1 ≥ 32 then s.closeWindow core w else s

/-- A Free window slot of a core, the lowest. -/
def Core.freeWin (c : Core) : Option Nat := (List.range 4).find? (fun w => (c.win w).st = .free)

/-- The snapshot that an opening takes now: the handle's record and the live banks of its tables (R288). -/
def Core.snapshot (c : Core) (n : Nat) (r : NetRec) : NetSnap :=
  ⟨r, n, r.tables.map (fun t => (t, (c.table t).gen, (c.table t).live))⟩

/-- One row enters a window; none where it must wait for a slot or a swap (R289). -/
def State.enterRow (s : State) (core c n : Nat) (net : NetRec) (r : NetRow) : Option State :=
  let k := s.core core
  let joins (w : Nat) : Bool :=
    let x := k.win w
    x.st = .opened && x.ctx = c && x.rows.length < 32 && (match x.snap with
      | some sn => sn.handle = n && sn.net.gen = net.gen
      | none => false)
  match (List.range 4).find? joins with
  | some w => some (s.joinWindow core w r)
  | none =>
    if net.tables.any (fun t => (k.table t).pending.isSome) then none
    else
      match k.freeWin with
      | none => none
      | some w => some ((s.openWindow core w c (k.snapshot n net)).joinWindow core w r)

/-- A binary32 pattern widened exactly from a BF16 one. -/
def widenBf16 (x : Nat) : Word := BitVec.ofNat 32 (x % 65536 * 65536)

/-- The inputs of a row (R301). -/
def Env.netInput (v : Env) (bf : Bool) (nin l : Nat) : List Word :=
  (List.range nin).map (fun i =>
    if bf then widenBf16 ((v.x.regs.getV (v.e.t.a.toNat + i / 2) l).toNat / 65536 ^ (i % 2))
    else v.x.regs.getV (v.e.t.a.toNat + i) l)

/-- The rows of a neval enter windows in ascending lane order: the lanes that have entered, and whether all have (R289). -/
def State.enterRows (s : State) (core c n : Nat) (net : NetRec) (mk : Nat → NetRow) : List Nat → Mask → State × Mask × Bool
  | [], m => (s, m, true)
  | l :: ls, m =>
    match s.enterRow core c n net (mk l) with
    | none => (s, m, false)
    | some s => s.enterRows core c n net mk ls (m ||| Mask.single l)

/-- Rows of a neval that no window has yet written. -/
def State.rowsLeft (s : State) (core g op : Nat) : Bool :=
  (List.range 4).any (fun w => ((s.core core).win w).rows.any (fun r => r.group = g ∧ r.op = op))
    || (match s.group g with
      | some x => x.io.rows.any (fun r => r.1.op = op)
      | none => false)

/-- What waits at a word of a neval, in place of what waited there (R289). -/
def Group.waitNeval (x : Group) (pc : Word) (n : Option NevalWait) : Group :=
  x.modIo (fun io => { io with nevals := io.nevals.filter (fun m => m.pc ≠ pc) ++ n.toList })

/-- The key and value of a neval that has missed, all of whose lanes live, enter the stitch table as it completes (R303). -/
def State.enterNeval (s : State) (core g : Nat) (x : Group) (op : Nat) : State :=
  match x.io.pend.find? (fun p => p.id = op) with
  | none => s
  | some p =>
    match p.key with
    | none => s
    | some k =>
      if p.lanes &&& ~~~x.live ≠ 0 then s
      else
        let ds := regRun Reg.v k.d k.nout
        s.modPool core (fun q =>
          match q.sourced { key := k.key, value := x.valueOf ds, srcs := k.srcs, todo := (keysOf g ds).map (fun n => (n, x.w)) } with
          | some e => q.enter e
          | none => q)

/-- A neval whose rows have all entered and all been written, dropped or failed is complete (R294). -/
def State.checkNeval (s : State) (core g op : Nat) : State :=
  match s.group g with
  | none => s
  | some x =>
    if x.io.nevals.any (fun n => n.op = op) || s.rowsLeft core g op then s
    else (s.enterNeval core g x op).endOp g op []

/-- A neval one of whose rows has failed, or has not entered, enters nothing in the stitch table (R289, R303). -/
def State.spoilNeval (s : State) (g op : Nat) : State :=
  s.modGroup g (fun x => x.modIo (fun io => { io with
    pend := io.pend.map (fun p => if p.id = op then { p with key := none } else p) }))

/-- The entry that serves a neval: its key holds the generations of the handle and of the tables that its layers name (R303). -/
def Env.netKey (v : Env) (s : State) (net : NetRec) : Stitch :=
  v.entry s (net.gen :: net.tables.map (fun t => ((s.core v.x.core).table t).gen))

/-- Hit(entry) for a neval: the entry's lanes of Active are written, and no window opens (11_register R215, R303). -/
def Env.netHit (v : Env) (s : State) (o : Stitch) : State :=
  let word (j l : Nat) : Word := BitVec.ofNat 32 (nth 0 (nth [] o.value j) l)
  let vals := (v.lanes.map (fun l => (v.vDests.zipIdx).map (fun d => (Reg.v d.1, l, word d.2 l)))).flatten
  (s.modGroup v.g (fun x => (x.writeRegs vals).raise o.flags)).modPool v.x.core (fun p =>
    (p.served o).mapTo o (v.vDests.map (fun n => (128 * v.g + n, v.x.w))))

/-- A neval that goes on with other lanes, sources or tables than it missed with does not write every row of its key, and enters
nothing (R289, R303). The prior contents of its destinations, field 5 of a key, are left out: its own rows may have written them. -/
def Env.goesOn (v : Env) (s : State) (net : NetRec) (op : Nat) : State :=
  let was := (v.x.io.pend.find? (fun p => p.id = op)).bind (fun p => p.key.map (fun k => k.key.eraseIdx 5))
  if was = some ((v.netKey s net).key.eraseIdx 5) then s else s.spoilNeval v.g op

/-- The rows of a neval enter windows, its first issue counting its flag; the group waits where they cannot all enter (R289). -/
def nevalEnter (w : TwoWord) (net : NetRec) (v : Env) (s : State) : Eff :=
  let bf := bit w.b.toNat 7
  let nout := w.x.mod2.toNat % 16 + 1
  let (op, entered, s) : Nat × Mask × State := match v.x.resuming v.cl.own with
    | some k => (k.op, k.entered, v.goesOn s net k.op)
    | none =>
      let k := v.netKey s net
      let reuse := v.mayReuse s
      let (op, s) := s.fresh
      let s := s.launchOp v op (regRun Reg.v v.d nout)
      (op, 0, if reuse then s.modGroup v.g (fun x => x.modIo (fun io => { io with
          pend := io.pend.map (fun p => if p.id = op then { p with key := some ⟨k.key, k.srcs, v.d, nout⟩ } else p) }))
        else s)
  let mk (l : Nat) : NetRow :=
    { group := v.g, team := v.x.team, lane := l, input := v.netInput bf net.nin l, vd := v.d, nout := nout, op := op, pc := v.cl.own }
  let (s, m, all) := s.enterRows v.x.core v.c w.x.c.toNat net mk (v.lanes.filter (fun l => !entered.has l)) entered
  if all then .done ((s.modGroup v.g (fun x => x.waitNeval v.cl.own none)).checkNeval v.x.core v.g op)
  else .park (s.modGroup v.g (fun x => x.waitNeval v.cl.own (some ⟨v.cl.own, op, m⟩))) .window

/-- neval: the checks of R295, the stitch table (R303), the wait of R298, and the rows (R302). -/
def nevalIssue (w : TwoWord) (v : Env) (s : State) : Eff :=
  match Tab.get none (s.ctx v.c).net w.x.c.toNat with
  | none => .trap s (v.whole .neth)
  | some net =>
    let want := if bit w.b.toNat 7 then ceilDiv net.nin 2 else net.nin
    if w.x.mod2.toNat % 16 + 1 ≠ net.nout ∨ w.b.toNat % 64 + 1 ≠ want then .trap s (v.whole .neth)
    else if v.act = 0 then .done s
    else
      let hit := if v.mayReuse s && (v.x.resuming v.cl.own).isNone then
          (s.pool v.x.core).stitch.find? (fun o => o.key = (v.netKey s net).key)
        else none
      match hit with
      | some o => .done (v.netHit s o)
      | none => if !v.x.drained then .park s .drain else nevalEnter w net v s

/-- neval (R302). -/
def execEnNeval (w : TwoWord) (s : State) : Out := runWord (.enNeval w) noIll (nevalIssue w) s

/-- nflush (R302). -/
def execEnNflush (w : TwoWord) (s : State) : Out :=
  runWord (.enNflush w) noIll (fun v s => .done (s.closeFor v.g)) s

/-- The bank that 272 bytes hold, if it is one that actload accepts (R299, R302). -/
def ActBank.of (bs : List Byte) : Option ActBank :=
  let ws := wordsOf bs
  let lo := nth 0 ws 0
  let hi := nth 0 ws 1
  let fin (x : Word) : Bool := bits x.toNat 30 23 ≠ 255
  if fin lo && fin hi && Val.lt (decodeRaw .f32 lo.toNat) (decodeRaw .f32 hi.toNat) && nth 0 ws 2 = 0 && nth 0 ws 3 = 0 then
    some ⟨lo, hi, (ws.drop 4).take 64⟩
  else none

/-- actload (R302). -/
def execEnActload (w : TwoWord) (s : State) : Out :=
  runWord (.enActload w) noIll (fun v s =>
    v.loadBlock s (v.pair w.a) 272 16 (fun s bs =>
      match ActBank.of bs with
      | none => .trap s (v.whole .prot)
      | some b =>
        let t := w.x.c.toNat % 8
        let c := s.core v.x.core
        let a := c.table t
        if a.pending.isSome then .done (s.setPred v false)
        else
          let c := { c with acts := Tab.set {} c.acts t { a with pending := some b } }
          .done ((s.setCore v.x.core c.swaps).setPred v true))) s

/-- nbind (R302). -/
def execEnNbind (w : TwoWord) (s : State) : Out :=
  runWord (.enNbind w) noIll (fun v s =>
    let n := w.x.c.toNat
    let put (s : State) (r : Option NetRec) : State := s.modCtx v.c (fun x => { x with net := Tab.set none x.net n r })
    if v.pair w.a = 0 then .done ((put s none).setPred v true)
    else
      v.loadBlock s (v.pair w.a) 256 256 (fun s bs =>
        let ws := wordsOf bs
        let r : NetRec := ⟨ws, (nth 0 ws 28).toNat⟩
        if !r.valid then .trap s (v.whole .prot)
        else
          let same : Bool := match Tab.get none (s.ctx v.c).net n with
            | some o => o.gen = r.gen
            | none => false
          if same then .done (s.setPred v false) else .done ((put s (some r)).setPred v true))) s

/-- nstat (R302). -/
def execEnNstat (w : TwoWord) (s : State) : Out :=
  runWord (.enNstat w) noIll (fun v s =>
    let x : Nat := match Tab.get none (s.ctx v.c).net w.x.c.toNat with
      | none => 0
      | some r => putBits 1 1 31 + putBits r.nl 3 28 + putBits (r.nin - 1) 6 22 + putBits (r.nout - 1) 4 18
          + putBits (bits r.hdr 17 16) 2 16 + putBits r.gen 16 0
    v.set s (v.x.modRegs (fun g => g.setS v.d (BitVec.ofNat 32 x)))) s

/-- The activation of a layer through a bank (R293). -/
def actValue (b : ActBank) (x : Word) : Word :=
  let v := decodeRaw .f32 x.toNat
  if v.isNan then BitVec.ofNat 32 (Ty.canonNan .f32)
  else
    let lo := decodeRaw .f32 b.lo.toNat
    let hi := decodeRaw .f32 b.hi.toNat
    let xc := if v.lt lo then lo else if hi.lt v then hi else v
    let seg : Nat := match xc, lo, hi with
      | .fin n m e, .fin n1 m1 e1, .fin n2 m2 e2 =>
        let e0 := min e (min e1 e2)
        let l := signedMant n1 m1 e1 e0
        min 63 ((64 * (signedMant n m e e0 - l)) / (signedMant n2 m2 e2 e0 - l)).toNat
      | _, _, _ => 0
    let w := (nth 0 b.segs seg).toNat
    let slope := decodeRaw .f16 (w % 65536)
    let icept := decodeRaw .f16 (w / 65536)
    BitVec.ofNat 32 (roundTo .f32 {} .rne (addVal .rne (mulVal slope xc).1 icept).1).1

/-- A layer's bytes as read: its weight codes by output, and its biases. -/
structure LayerData where
  weights : List (List Nat)
  biases : List Word
  deriving DecidableEq, Repr

/-- The codes of a row's bytes. -/
def rowCodes (t : Ty) (bs : List Byte) : List Nat :=
  if t = .bf16 then bookEntries (bs.length / 2) bs else bs.map (·.toNat)

/-- How reading a network ends. -/
inductive NetRead where
  | ok (s : State) (ls : List LayerData)
  | fault (s : State) (va reason level entry entryAddr : Nat)
  | fail (s : State) (va : Nat)
  deriving DecidableEq, Repr

/-- Bytes of a network read by the skein unit of a die (R296). -/
def State.netBytes (s : State) (die c : Nat) (csp : Bool) (addr n : Nat) : NetRead × List Byte :=
  match s.engBytes die c csp false false addr n with
  | (s, .ok ls) =>
    let (s, bs) := s.engRead false ls
    (.ok s [], bs)
  | (s, .fault va r lv e pa) => (.fault s va r lv e pa, [])
  | (s, .stop _ va) => (.fail s va, [])

/-- The weight rows of a layer from row j on. -/
def State.netRows (s : State) (die c : Nat) (r : NetRec) (l : Nat) : Nat → Nat → NetRead × List (List Nat)
  | _, 0 => (.ok s [], [])
  | j, k + 1 =>
    match s.netBytes die c r.wcsp (addOff (r.wbase l) (j * r.stride l : Nat)) (r.ins l * (r.wfmt.width / 8)) with
    | (.ok s _, bs) =>
      match s.netRows die c r l (j + 1) k with
      | (.ok s x, rs) => (.ok s x, rowCodes r.wfmt bs :: rs)
      | e => e
    | (e, _) => (e, [])

/-- The bytes that a layer reads: its weight rows and its biases (R287). -/
def NetRec.reads (r : NetRec) (l : Nat) : List Nat :=
  ((List.range (r.wid l)).map (fun j => (List.range (r.ins l * (r.wfmt.width / 8))).map (fun i =>
      addOff (r.wbase l) (j * r.stride l + i : Nat)))).flatten
    ++ (List.range (4 * r.wid l)).map (fun i => addOff (r.wbase l) (r.boff l + i : Nat))

/-- The order of R107 among the ways in which a byte stops: outside its space, PAGE, COMPR. -/
def Span.order : Span → Nat
  | .stop .prot _ => 0
  | .fault .. => 1
  | .stop _ _ => 2
  | .ok _ => 3

/-- The first condition of R107 that any of some bytes meets, at its first byte. -/
def State.firstStop (s : State) (die c : Nat) (csp : Bool) (as : List Nat) : State × Span :=
  as.foldl (fun (p : State × Span) a =>
    let (s, r) := p.1.engCheck die c csp false false a 1
    (s, if r.order < p.2.order then r else p.2)) (s, .ok [])

/-- Every layer of a network checked as it starts, in the order of R107, and read (R296). -/
def State.netLayers (s : State) (die c : Nat) (r : NetRec) : Nat → Nat → NetRead
  | _, 0 => .ok s []
  | l, k + 1 =>
    match s.firstStop die c r.wcsp (r.reads l) with
    | (s, .fault va rs lv e pa) => .fault s va rs lv e pa
    | (s, .stop _ va) => .fail s va
    | (s, .ok _) =>
      match s.netRows die c r l 0 (r.wid l) with
      | (.ok s _, rows) =>
        match s.netBytes die c r.wcsp (addOff (r.wbase l) (r.boff l : Nat)) (4 * r.wid l) with
        | (.ok s _, bs) =>
          match s.netLayers die c r (l + 1) k with
          | .ok s ls => .ok s (⟨rows, wordsOf bs⟩ :: ls)
          | e => e
        | (e, _) => e
      | (e, _) => e

/-- One output of a layer for one row (R292). -/
def layerOut (t : Ty) (codes : List Nat) (p : Nat) (ws : List Nat) (bias : Word) : Word :=
  let nb := if t = .bf16 then 8 else 16
  (List.range (p / nb)).foldl (fun (acc : Word) b =>
    let ps := (List.range nb).map (fun i =>
      let k := b * nb + i
      ((decodeRaw t (nth 0 codes k), (0 : Flags)), (decodeRaw t (nth 0 ws k), (0 : Flags))))
    BitVec.ofNat 32 (fAdd .f32 {} .rne acc.toNat (blockSum {} ps none none).1).1) bias

/-- The value of a network on one row's input (R292). -/
def netValue (sn : NetSnap) : Nat → List LayerData → List Word → List Word
  | _, [], x => x
  | l, d :: ds, x =>
    let r := sn.net
    let t := r.wfmt
    let n := r.ins l
    let p := if t = .bf16 then alignUp n 32 else alignUp n 64
    let codes := (x.take n).map (fun v => (roundTo t {} .rne (decodeRaw .f32 v.toNat)).1)
    let a := r.act l
    let act (v : Word) : Word := match sn.pins.find? (fun q => q.1 = a) with
      | some q => actValue q.2.2 v
      | none => v
    netValue sn (l + 1) ds ((d.weights.zip d.biases).map (fun w => act (layerOut t codes p w.1 w.2)))

/-- A row's lane is live: its group has not ended and the lane has not exited (R294). -/
def State.rowLive (s : State) (r : NetRow) : Bool :=
  match s.group r.group with
  | some x => (x.lane r.lane).st ≠ .exited
  | none => false

/-- A window ends: its ranges go, its slot is Free, the engine has no holder, and nevals with no row left complete. -/
def State.freeWindow (s : State) (core w : Nat) : State :=
  let x := (s.core core).win w
  let s := s.clearWindow core w
  x.rows.foldl (fun s r => s.checkNeval core r.group r.op) s

/-- A failure of a neval joins an earlier one of the same neval that no instruction has yet taken: TMASK holds the neval's
failed lanes (R296). -/
def State.joinLate (s : State) (g : Nat) (l : Late) : State :=
  match (s.group g).bind (fun x => x.io.late.find? (fun m => m.neval = l.neval)) with
  | none => s.addLate g l
  | some m =>
    s.modGroup g (fun x => x.modIo (fun io => { io with late := io.late.map (fun q =>
      if q = m then { q with trap := { q.trap with tmask := q.trap.tmask ||| l.trap.tmask } } else q) }))

/-- Every live row of a window fails with a cause: the failure is pending in each group with a live row (R296). -/
def State.failWindow (s : State) (core w : Nat) (page : Option Nat) (va : Nat) : State :=
  let x := (s.core core).win w
  let live := x.rows.filter s.rowLive
  let ops := (live.map (fun r => (r.group, r.op))).eraseDups
  let s := ops.foldl (fun s p =>
    let rs := live.filter (fun r => r.group = p.1 ∧ r.op = p.2)
    match rs with
    | [] => s
    | r :: _ =>
      (s.spoilNeval p.1 p.2).joinLate p.1
        { trap := { cause := if page.isSome then .page else .neth, addr := va, info := page.getD r.pc.toNat
                    tmask := rs.foldl (fun m q => m ||| Mask.single q.lane) 0 }
          regs := regRun Reg.v r.vd r.nout, neval := some r.op }) s
  s.freeWindow core w

/-- The results of a window written to the lanes that still live (R294); %nrows counts its real rows. -/
def State.scatter (s : State) (core w : Nat) (sn : NetSnap) (ls : List LayerData) : State :=
  let x := (s.core core).win w
  let s := x.rows.foldl (fun s r =>
    if s.rowLive r then
      let ys := netValue sn 0 ls r.input
      (s.rewrote r.group (regRun Reg.v r.vd r.nout)).modGroup r.group (fun g =>
        g.writeRegs ((List.range r.nout).map (fun j => (Reg.v (r.vd + j), r.lane, nth 0 ys j))))
    else s) s
  let s := s.modCore core (fun c => { c with nrows := c.nrows + BitVec.ofNat 32 (x.rows.filter s.rowLive).length })
  s.freeWindow core w

/-- A Running window reads its layers, evaluates its rows and writes their results; a page
fault makes it Faulted and gives the engine back, another failure fails every row. `res` is an error in a weight read, at an
address among those read that is free (R291, R294, R296; log 68). -/
def State.scatterWindow (s : State) (core window : Nat) (res : IoEnd) : Option State :=
    let x := (s.core core).win window
    match x.snap with
    | some sn =>
      if x.st ≠ .running then none
      else
        let die := dieOfCore core
        let s := s.walked (fun p => p = .skein core window)
        match res with
        | .ok =>
          match s.netLayers die x.ctx sn.net 0 sn.net.nl with
          | .ok s ls => some (s.scatter core window sn ls)
          | .fail s va => some (s.failWindow core window none va)
          | .fault s va r lv e pa =>
            let s := s.setWin core window { x with st := .faulted, faultVa := va }
            let s := s.modCore core (fun c => { c with holder := none })
            some (s.postEngine die 3 (core % 320) x.ctx false (.skein core window) va r lv e pa)
        | _ =>
          let as := ((List.range sn.net.nl).map sn.net.reads).flatten
          let (n, s) := s.freeVal
          some (s.failWindow core window none (nth 0 as (n % max 1 as.length)))
    | none => none

/-- WINDOW_SCATTER (R291, R294, R296). -/
def execEvWindowScatter (core window : Nat) (res : IoEnd) (s : State) : Out :=
  event ((s.corrected res).1.scatterWindow core window (s.corrected res).2)

/-- ACT_SWAP (R299): a pending swap is made when no window pins the live bank. The step in which the last pin goes has made
it, so that this event finds one only in a state that no run reaches. -/
def execEvActSwap (core table : Nat) (s : State) : Out :=
  event (
    let c := s.core core
    if (c.table table).pending.isSome && !c.pinned table then some (s.setCore core (c.swap table)) else none)

/-- ENGINE_GRANT (14_tile R262): with no holder, or at the end of the executing operation where a display-class group waits
for a holder that is not, the arbiter chooses. -/
def execEvEngineGrant (core : Nat) (s : State) : Out :=
  event (
    let c := s.core core
    if c.holder.isNone || (s.leaseYields core && !c.tileq.any (fun o => o.accepted)) then
      (s.modCore core (fun c => { c with holder := none })).arbitrate core
    else none)

/-- Where the lanes of a group no longer stand at a waiting neval, its other rows are abandoned (R289). -/
def State.dropNeval (s : State) (g : Nat) : State :=
  match s.group g with
  | none => s
  | some x =>
    let gone := x.io.nevals.filter (fun n => !x.lanes.any (fun l => l.st ≠ .exited && l.pc = n.pc))
    gone.foldl (fun s n =>
      ((s.spoilNeval g n.op).modGroup g (fun x => x.waitNeval n.pc none)).checkNeval x.core g n.op) s

/-- Rows of a team taken out of the Faulted windows of a core and saved with their groups; a window with no row left is Free
(R297). -/
def State.takeRows (s : State) (core team : Nat) : State :=
  (List.range 4).foldl (fun s w =>
    let x := (s.core core).win w
    match x.snap with
    | some sn =>
      if x.st ≠ .faulted then s
      else
        let mine := x.rows.filter (fun r => r.team = team)
        let rest := x.rows.filter (fun r => r.team ≠ team)
        let s := mine.foldl (fun s r =>
          s.modGroup r.group (fun g => g.modIo (fun io => { io with rows := io.rows ++ [(r, sn)] }))) s
        if mine = [] then s
        else if rest = [] then
          s.clearWindow core w
        else s.setWin core w { x with rows := rest }
    | none => s) s

/-- Saved rows of a group enter a new window with their snapshot, where a slot is Free (R297). -/
def State.reenterRows (s : State) (g : Nat) : Option State :=
  match s.group g with
  | none => none
  | some x =>
    match x.io.rows, (s.core x.core).freeWin, s.team x.team with
    | (_, sn) :: _, some w, some t =>
      let mine := (x.io.rows.filter (fun r => r.2 = sn)).take 32
      let s := s.openWindow x.core w t.ctx sn
      let s := mine.foldl (fun s r => s.joinWindow x.core w r.1) s
      some (s.modGroup g (fun x => x.modIo (fun io => { io with rows := io.rows.filter (fun r => !mine.contains r) })))
    | _, _, _ => none

end Sys2Proof.Machine
end

