-- ==== Sys2Proof/Machine/Kernel.lean ====
section
/-!
DEFINITION. The kernel (09_kernel R178 to R189): the descriptor and its checks, the resources of a cluster, and the
assignment of a team's groups to its cores.
-/
namespace Sys2Proof.Machine

/-- The number that 32-bit words spell, word 0 least significant. -/
def natOfWords : List Word → Nat
  | [] => 0
  | w :: ws => w.toNat + 2 ^ 32 * natOfWords ws

/-- A kernel descriptor's fields (R178). -/
def Kernel.of (ws : List Word) : Kernel :=
  let x := natOfWords ws
  { stkAreas := bits x 255 240, stkArena := bits x 201 160, stkLim := bits x 159 136, tension := bits x 127 112
    lease := bits x 111 105, promise := bit x 104, reuse := bit x 103, spPriv := bits x 95 83, spTeam := bits x 82 70
    acc := bits x 69 64, width := bits x 63 62, team := bits x 61 56, prod := bits x 55 50, vgp := bits x 49 45
    vgc := bits x 44 40, hndl := bits x 39 33, msg := bit x 32, entry := BitVec.ofNat 32 x }

/-- The reserved fields of a descriptor are 0 (R178). -/
def kernelReserved (ws : List Word) : Bool :=
  let x := natOfWords ws
  bits x 511 256 = 0 && bits x 239 202 = 0 && bits x 135 128 = 0 && bits x 102 96 = 0

/-- The checks of R182 that need no cluster: the team's size, and whether a task queue opens with the kernel. -/
def Kernel.ranges (k : Kernel) (size : Nat) (task : Bool) : Bool :=
  k.width ≠ 3 && k.entry.toNat % 4 = 0 && 1 ≤ k.team && k.team ≤ 32 && 1 ≤ size && size ≤ 32 && 1 ≤ k.lease && k.lease ≤ 64
    && 1 ≤ k.tension && 1 ≤ k.vgc && k.vgc ≤ 16 && k.spPriv ≤ 4096 && k.spTeam ≤ 4096 && k.acc ≤ 32 && k.hndl ≤ 64
    && k.prod < size && k.vgp ≤ 16 && decide (k.prod = 0 ↔ k.vgp = 0) && k.spPriv + k.spTeam ≤ 4096
    && k.stkLim % 16 = 0 && size ≤ k.stkAreas && (!task || (k.prod = 0 && 2 ≤ k.vgc))

/-- Granules of a group at its start (R179). -/
def Kernel.granules (k : Kernel) (gid : Nat) : Nat := if gid < k.prod then k.vgp else k.vgc

/-- The bytes of a stack area (R186). -/
def Kernel.areaSize (k : Kernel) : Nat := alignUp (k.stkLim * k.w) 1024 + 1024

/-- Granules of width w that a block holds (R183). -/
def perBlock (w : Nat) : Nat := 64 / w

/-- The register blocks of a core: (width, granules taken) of each block that has a width (R183). -/
def blockTable (cells : List (Nat × Nat)) : Tab (Nat × Nat) :=
  cells.foldl (fun t c => Tab.ins t c.2 (c.1, (Tab.get (c.1, 0) t c.2).2 + 1)) []

/-- The granules of a group, as (width, block). -/
def Group.cells (x : Group) : List (Nat × Nat) := x.grans.map (fun b => (x.w, b))

/-- The free capacity at width w, in granules (R183). -/
def freeGranules (t : Tab (Nat × Nat)) (w : Nat) : Nat :=
  (t.map (fun e => if e.2.1 = w then perBlock w - e.2.2 else 0)).sum + (256 - t.length) * perBlock w

/-- Blocks for n granules: partly used blocks of the width, lowest first, then blocks with no width (log 30). -/
def takeGranules (t : Tab (Nat × Nat)) (w n : Nat) : List Nat :=
  let part := (t.map (fun e => if e.2.1 = w then List.replicate (perBlock w - e.2.2) e.1 else [])).flatten
  let fresh := ((List.range 256).map (fun b => if (Tab.find t b).isNone then List.replicate (perBlock w) b else [])).flatten
  (part ++ fresh).take n

/-- The lowest free run of n among `total`, where runs (first, count) are taken (R185). -/
def lowestRun (used : List (Nat × Nat)) (total n : Nat) : Option Nat :=
  let ok (p : Nat) : Bool := p + n ≤ total && used.all (fun u => !overlaps p (p + n) u.1 (u.1 + u.2))
  let cand := (0 :: used.map (fun u => u.1 + u.2)).filter ok
  match cand with
  | [] => none
  | c :: cs => some (cs.foldl min c)

/-- What is taken on a core (R184). -/
structure CoreUse where
  core : Nat
  slots : List Nat := []
  blocks : List (Nat × Nat) := []
  lines : List (Nat × Nat) := []
  tiles : List (Nat × Nat) := []
  handles : List (Nat × Nat) := []
  /-- the team's region and first handle, once it has them -/
  mine : Option (Nat × Nat) := none
  deriving DecidableEq, Repr

/-- Where one group of a team goes. -/
structure Place where
  core : Nat
  slot : Nat
  grans : List Nat
  tile0 : Nat
  priv : Nat
  region : Nat
  handle0 : Nat
  /-- the team is new on the core -/
  first : Bool
  deriving DecidableEq, Repr

/-- What a core's groups and teams hold, those of the teams `gone` left out (R184, R188). -/
def State.coreUse (s : State) (gone : List Nat) (core : Nat) : CoreUse :=
  let gs := (s.groups.filter (fun g => g.2.core = core && g.2.on && !gone.contains g.2.team)).map (·.2)
  let ts := (s.teams.filter (fun t => t.2.st ≠ .saved && !gone.contains t.1)).map (·.2)
  let regions := (ts.map (fun t => (t.cores.filter (fun c => c.core = core)).map (fun c => (c.region, t.kern.spTeam)))).flatten
  let privs := (ts.map (fun t => (t.privs.filter (fun p => p.2.1 = core)).map (fun p => (p.2.2.1, t.kern.spPriv)))).flatten
  let handles := (ts.map (fun t => (t.cores.filter (fun c => c.core = core)).map (fun c => (c.handle0, t.kern.hndl)))).flatten
  -- tiles of ended groups stay with the engine until their operations complete (14_tile R261)
  let busy := ((s.core core).tileq.map (fun o => match o.work with
    | .mma t .. | .zero t | .fill t .. | .put t .. | .get t .. | .stat _ t => [(t, 1)]
    | .mov d t _ => [(d, 1), (t, 1)]
    | .drain x => [(x.tile, 1)])).flatten
  { core := core, slots := gs.map (·.slot), blocks := (gs.map Group.cells).flatten, lines := regions ++ privs
    tiles := gs.map (fun g => (g.tile0, g.tiles)) ++ busy, handles := handles }

/-- A core takes a group of a kernel (R184, R185). -/
def CoreUse.take (u : CoreUse) (k : Kernel) (gid : Nat) : Option (CoreUse × Place) :=
  let free := (List.range 64).find? (fun n => !u.slots.contains n)
  let t := blockTable u.blocks
  let n := k.granules gid
  let (region, handle0) : Option Nat × Option Nat := match u.mine with
    | some m => (some m.1, some m.2)
    | none => (lowestRun u.lines 4096 k.spTeam, lowestRun u.handles 64 k.hndl)
  match free, region, handle0, lowestRun u.tiles 32 k.acc with
  | some slot, some r, some h, some tile =>
    if freeGranules t k.w < n then none
    else
      let first := u.mine.isNone
      let u := if first then
          { u with mine := some (r, h), lines := (r, k.spTeam) :: u.lines, handles := (h, k.hndl) :: u.handles }
        else u
      match lowestRun u.lines 4096 k.spPriv with
      | none => none
      | some p =>
        let gr := takeGranules t k.w n
        some ({ u with slots := slot :: u.slots, blocks := u.blocks ++ gr.map (fun b => (k.w, b))
                       lines := (p, k.spPriv) :: u.lines, tiles := (tile, k.acc) :: u.tiles },
          ⟨u.core, slot, gr, tile, p, r, h, first⟩)
  | _, _, _, _ => none

/-- A group goes to the core with the most free slots among those that can take it; the lower number wins a tie (R184). -/
def assignGroup (k : Kernel) (gid : Nat) (us : List CoreUse) : Option (List CoreUse × Place) :=
  let cand := us.filter (fun u => (u.take k gid).isSome)
  match cand with
  | [] => none
  | c :: cs =>
    let best := cs.foldl (fun b u => if u.slots.length < b.slots.length then u else b) c
    match best.take k gid with
    | none => none
    | some (u, p) => some (us.map (fun o => if o.core = u.core then u else o), p)

/-- The groups of a team assigned in ascending %groupid (R184). -/
def assignTeam (k : Kernel) : Nat → Nat → List CoreUse → Option (List Place)
  | _, 0, _ => some []
  | gid, n + 1, us =>
    match assignGroup k gid us with
    | none => none
    | some (us, p) => (assignTeam k (gid + 1) n us).map (fun ps => p :: ps)

/-- The team fits on an empty cluster (R182). -/
def Kernel.fitsEmpty (k : Kernel) (size : Nat) : Bool :=
  (assignTeam k 0 size ((List.range 4).map (fun i => { core := i }))).isSome

/-- The clusters of a context's partition, ascending (R184). -/
def Ctx.clusters (c : Ctx) : List Nat := (List.range (80 * 2 ^ c.d.psize)).map (fun i => 80 * c.d.pbase + i)

/-- A group of another context holds a core of the cluster; teams `gone` are left out (R184). -/
def State.foreign (s : State) (gone : List Nat) (c cluster : Nat) : Bool :=
  s.groups.any (fun g => g.2.on && clusterOfCore g.2.core = cluster && !gone.contains g.2.team
    && (match s.team g.2.team with
      | some t => t.ctx ≠ c
      | none => false))

/-- Free stack areas of an arena, lowest first, up to n (R186). -/
def Ctx.freeAreas (c : Ctx) (k : Kernel) (n : Nat) : List Nat :=
  ((List.range k.stkAreas).filter (fun a => !c.areas.contains (k.stkArena, a))).take n

/-- Where a new team of a context goes on a cluster, the teams `gone` removed (R184). -/
def State.planOn (s : State) (gone : List Nat) (c : Nat) (k : Kernel) (size cluster : Nat) : Option (List Place) :=
  if s.foreign gone c cluster then none
  else if ((s.ctx c).freeAreas k size).length < size then none
  else assignTeam k 0 size ((List.range 4).map (fun i => s.coreUse gone (4 * cluster + i)))

/-- Granule blocks for the groups of a saved team on one core, in group order. -/
def takeFor (w : Nat) : Tab (Nat × Nat) → List Nat → List Nat → Option (List (Nat × List Nat))
  | _, [], _ => some []
  | _, _, [] => some []
  | t, g :: gs, n :: ns =>
    if freeGranules t w < n then none
    else
      let bs := takeGranules t w n
      (takeFor w (bs.foldl (fun t b => Tab.ins t b (w, (Tab.get (w, 0) t b).2 + 1)) t) gs ns).map (fun r => (g, bs) :: r)

/-- Where a saved team goes back on a cluster: the same core indices, regions, tiles, handles and range-lock entries must
be free (07_context R154). The answer gives each group its slot and blocks. -/
def State.replanOn (s : State) (gone : List Nat) (tid : Nat) (t : Team) (cluster : Nat) : Option (List (Nat × Nat × List Nat)) :=
  if s.foreign gone t.ctx cluster then none
  else
    let gs := s.groups.filter (fun g => g.2.team = tid)
    let freeRun (used : List (Nat × Nat)) (p n : Nat) : Bool := used.all (fun u => !overlaps p (p + n) u.1 (u.1 + u.2))
    let onCore (i : Nat) : Option (List (Nat × Nat × List Nat)) :=
      let core := 4 * cluster + i
      let u := s.coreUse gone core
      let mine := gs.filter (fun g => g.2.core % 4 = i)
      let tc := t.cores.filter (fun c => c.core % 4 = i)
      let slots := ((List.range 64).filter (fun n => !u.slots.contains n)).take mine.length
      let locks := (mine.map (fun g => g.2.io.maps.filterMap (fun m => m.2.map (·.lock)))).flatten
      let held := ((s.engines.map (fun e => e.2.queue.filter (fun q => q.team = tid && q.core % 4 = i))).flatten.map
        (fun q => match q.held with | some h => h.1.length | none => 0)).sum
      let freeLocks := (s.core core).freeLocks
      let ok : Bool := tc.all (fun c => freeRun u.lines c.region t.kern.spTeam && freeRun u.handles c.handle0 t.kern.hndl)
        && (t.privs.filter (fun p => p.2.1 % 4 = i)).all (fun p => freeRun u.lines p.2.2.1 t.kern.spPriv)
        && mine.all (fun g => freeRun u.tiles g.2.tile0 g.2.tiles) && slots.length = mine.length
        && locks.all (fun k => freeLocks.contains k) && held + locks.length ≤ freeLocks.length
      if !ok then none
      else
        match takeFor t.kern.w (blockTable u.blocks) (mine.map (·.1)) (mine.map (fun g => g.2.alloc / 8)) with
        | none => none
        | some bs => some ((bs.zip slots).map (fun e => (e.1.1, e.2, e.1.2)))
    match onCore 0, onCore 1, onCore 2, onCore 3 with
    | some a, some b, some c, some d => some (a ++ b ++ c ++ d)
    | _, _, _, _ => none

/-- The first cluster of the partition on which a new team fits (R184). -/
def State.fitNew (s : State) (gone : List Nat) (c : Nat) (k : Kernel) (size : Nat) : Option (Nat × List Place) :=
  (s.ctx c).clusters.findSome? (fun cl => (s.planOn gone c k size cl).map (fun p => (cl, p)))

/-- The first cluster of the partition on which a saved team fits (07_context R154). -/
def State.fitSaved (s : State) (gone : List Nat) (tid : Nat) (t : Team) : Option (Nat × List (Nat × Nat × List Nat)) :=
  (s.ctx t.ctx).clusters.findSome? (fun cl => (s.replanOn gone tid t cl).map (fun p => (cl, p)))

end Sys2Proof.Machine
end

