-- ==== Sys2Proof/Machine/Place.lean ====
section
/-!
DEFINITION. Groups and teams come to the cores and leave them: what a core and a cluster keep of a context (07_context R153,
11_register R218, 12_barrier R226, 18_link R371), regions and tiles (05_memory R91, 14_tile R261), and the start of a
team's groups (09_kernel R187).
-/
namespace Sys2Proof.Machine

/-- A group of a context holds a slot on a cluster. -/
def State.onCluster (s : State) (c cl : Nat) : Bool :=
  s.groups.any (fun g => g.2.on && clusterOfCore g.2.core = cl && s.ctxOf g.2 = some c)

/-- A context comes to a core that held no group of it: the core record is restored, and the stitch table is flushed where
the context is another (07_context R153, 11_register R218). -/
def State.enterCore (s : State) (c core : Nat) : State :=
  if s.onCore c core then s
  else
    let r : CoreRec := (Tab.get none (s.ctx c).coreRec core).getD {}
    let s := if (s.core core).owner = some c then s else s.flushStitch core
    s.modCore core (fun k =>
      { k with
        srseed := r.srseed, am := r.am, owner := some c
        acts := r.acts.foldl (fun t e => Tab.set {} t e.1 { live := e.2.1, gen := e.2.2 }) [] })

/-- A context comes to a cluster that held no group of it: its cluster barriers start afresh and its saved flits return
(12_barrier R226, 18_link R371). -/
def State.enterCluster (s : State) (c cl : Nat) : State :=
  if s.onCluster c cl then s
  else
    let s := s.modCluster cl (fun k => { k with cb := [], flits := Tab.get [] (s.ctx c).flits cl })
    s.modCtx c (fun x => { x with flits := Tab.set [] x.flits cl [] })

/-- A group of a context has left a core: the last of them leaves the core record, and the cluster's flits with it
(07_context R153, 18_link R371). -/
def State.leaveCore (s : State) (c core : Nat) : State :=
  let s := s.recordCore c core
  let cl := clusterOfCore core
  if s.onCluster c cl then s
  else
    let f := (s.cluster cl).flits
    let s := s.modCluster cl (fun k => { k with flits := [] })
    s.modCtx c (fun x => { x with flits := Tab.set [] x.flits cl f })

/-- The bytes of scratchpad lines, by offset from the first. -/
def State.spLines (s : State) (core line n : Nat) : Tab Byte :=
  let lo := core * 2 ^ 19 + 128 * line
  (s.sp.filter (fun e => lo ≤ e.1 && e.1 < lo + 128 * n)).map (fun e => (e.1 - lo, e.2))

/-- Scratchpad lines take the given bytes, zeros elsewhere; their entries leave the stitch table. -/
def State.setSpLines (s : State) (core line n : Nat) (bs : Tab Byte) : State :=
  let lo := core * 2 ^ 19 + 128 * line
  let s := { s with sp := s.sp.filter (fun e => !(lo ≤ e.1 && e.1 < lo + 128 * n)) }
  let s := { s with sp := bs.foldl (fun m e => Tab.set 0 m (lo + e.1) e.2) s.sp }
  (List.range n).foldl (fun s i => s.unstitch core (line + i)) s

/-- A region is written with zeros and marked present (05_memory R91). -/
def State.freshRegion (s : State) (core line n : Nat) : State :=
  (List.range n).foldl (fun s i => s.mark core (line + i) true) (s.setSpLines core line n [])

/-- Accumulator tiles take the given contents, +0.0 elsewhere, and drain exponents. -/
def State.setTiles (s : State) (core tile0 n : Nat) (acc : Tab Word) (sx : Tab Int) : State :=
  s.modCore core (fun c =>
    let out (w : Nat) (k : Nat) : Bool := k < w * tile0 || w * (tile0 + n) ≤ k
    { c with acc := acc.foldl (fun t e => Tab.set 0 t (1024 * tile0 + e.1) e.2) (c.acc.filter (fun e => out 1024 e.1))
             sx := sx.foldl (fun t e => Tab.set 0 t (tile0 + e.1) e.2) (c.sx.filter (fun e => out 1 e.1)) })

/-- A lane as a grid starts it (09_kernel R187). -/
def startLane (entry : Word) : Lane := { pc := entry }

/-- The scalar registers at a group's start: the record's ARG0 to ARG3, ARGPTR, and the grid's extents (08_queue R160). -/
def startScalars (args grid : List Word) : Tab Word :=
  ((args ++ grid).mapIdx (fun i w => (i, w))).foldl (fun t e => Tab.set 0 t e.1 e.2) []

/-- A group as it starts (09_kernel R186, R187). -/
def startGroup (k : Kernel) (team gid area now : Nat) (p : Place) (args grid : List Word) : Group :=
  let base := k.stkArena * 1024 + area * k.areaSize + (k.areaSize - 1024 - k.stkLim * k.w)
  { team := team, gid := gid, core := p.core, slot := p.slot, w := k.w, alloc := 8 * k.granules gid, grans := p.grans
    lanes := List.replicate k.w (startLane k.entry), regs := { s := startScalars args grid }
    ctl := { sppriv := putBits k.spPriv 13 16 + putBits p.priv 12 0, spteam := putBits k.spTeam 13 16 + putBits p.region 12 0
             stklim := k.stkLim, stkbase := base, tfbase := base + k.stkLim * k.w, wdog0 := now }
    tile0 := p.tile0, tiles := k.acc, area := area }

/-- One group of a team starts at its place (05_memory R91, 09_kernel R187). -/
def State.addGroup (s : State) (c : Nat) (k : Kernel) (p : Place) (x : Group) : State :=
  let s := (s.enterCore c p.core).enterCluster c (clusterOfCore p.core)
  let s := if p.first then
      let s := s.freshRegion p.core p.region k.spTeam
      (List.range k.hndl).foldl (fun s h => s.putHandle p.core (p.handle0 + h) {}) s
    else s
  let s := s.freshRegion p.core p.priv k.spPriv
  let s := s.setTiles p.core p.tile0 k.acc [] []
  let (g, s) := s.fresh
  s.setGroup g x

/-- The quantum of a context restarts when it places a team, and a Resident context runs (07_context R142, 08_queue
R168). -/
def State.nowRunning (s : State) (c : Nat) : State :=
  s.modCtx c (fun x => { x with st := if x.st = .resident then .running else x.st, quantumOut := false })

/-- A new team placed: its stack areas are taken and its groups start. `shape` finishes each group. -/
def State.startTeam (s : State) (t : Team) (args grid : List Word) (places : List Place) (shape : Group → Group) : State :=
  let (tid, s) := s.fresh
  let areas := (s.ctx t.ctx).freeAreas t.kern t.size
  let cores := (places.filter (·.first)).map (fun p => (⟨p.core, p.region, p.handle0⟩ : TeamCore))
  let privs := places.mapIdx (fun i p => (i, p.core, p.priv, true))
  let s := s.setTeam tid { t with cores := cores, privs := privs, areas := areas }
  let s := s.modCtx t.ctx (fun x => { x with areas := areas.map (fun a => (t.kern.stkArena, a)) ++ x.areas })
  let s := s.nowRunning t.ctx
  ((places.zip areas).foldl (fun (q : State × Nat) p =>
    (q.1.addGroup t.ctx t.kern p.1 (shape (startGroup t.kern tid q.2 p.2 q.1.sched.now p.1 args grid)), q.2 + 1)) (s, 0)).1

end Sys2Proof.Machine
end

