-- ==== Sys2Proof/Machine/Queue.lean ====
section
/-!
DEFINITION. The queue (08_queue R156 to R177): launch records, the entry queue, launch queues, task queues, the queue
instructions, and the events of the module scheduler other than placement.
-/
namespace Sys2Proof.Machine

/-- The fields of a launch record (R160). -/
def recBits (ws : RecordWords) (hi lo : Nat) : Nat := bits (natOfWords ws) hi lo
def recKind (ws : RecordWords) : Nat := recBits ws 201 200
def recClass (ws : RecordWords) : Nat := recBits ws 199 198
def recTeamg (ws : RecordWords) : Nat := recBits ws 197 192
def recTq (ws : RecordWords) : Nat := recBits ws 191 186
def recKdesc (ws : RecordWords) : Nat := recBits ws 115 64
def recGx (ws : RecordWords) : Nat := recBits ws 31 0
def recGy (ws : RecordWords) : Nat := recBits ws 47 32
def recGz (ws : RecordWords) : Nat := recBits ws 63 48
def recTag (ws : RecordWords) : Nat := recBits ws 223 208
def recArgptr (ws : RecordWords) : Nat := recBits ws 383 320

/-- The counter that completion adds 1 to, where DONEEN is 1. -/
def recDone (ws : RecordWords) : Option Nat := if recBits ws 202 202 = 1 then some (recBits ws 239 232) else none

/-- s0 to s5 as the record sets them: ARG0 to ARG3 and ARGPTR. -/
def recArgs (ws : RecordWords) : List Word := (ws.drop 12).take 4 ++ (ws.drop 10).take 2

/-- A power of two from 16 to 2^20. -/
def taskCapOk (n : Nat) : Bool := (List.range 17).any (fun k => n = 2 ^ (k + 4))

/-- A record is well formed (R161, the checks that read no memory). -/
def recordOk (ws : RecordWords) : Bool :=
  let z (hi lo : Nat) : Bool := recBits ws hi lo = 0
  ws.length = 16 && z 231 224 && z 207 205 && z 185 116 && recKdesc ws % 64 = 0
    && (match recKind ws with
      | 0 => z 191 186 && recTeamg ws ≤ 32 && 1 ≤ recGx ws && 1 ≤ recGy ws && 1 ≤ recGz ws
          && recGx ws * recGy ws * recGz ws < 2 ^ 32
      | 1 => recTeamg ws = 0 && recGz ws = 0 && taskCapOk (recGx ws) && recArgptr ws % 128 = 0 && recArgptr ws < 2 ^ 52
      | 2 => recTeamg ws = 0 && recGx ws = 0 && recGy ws = 0 && recGz ws = 0 && recKdesc ws = 0 && recArgptr ws = 0
      | _ => false)

/-- A class is permitted to a context (R156). -/
def Ctx.permits (c : Ctx) (cls : Nat) : Bool := bit c.d.classes (3 - cls)

/-- Records of a class that a context holds in its launch queue (R165). -/
def State.queued (s : State) (c cls : Nat) : Nat := (s.records.filter (fun r => r.2.ctx = c && recClass r.2.words = cls)).length

/-- The launch queue of a class has room (R156). -/
def State.room (s : State) (c cls : Nat) : Bool := s.queued c cls < 256

/-- A record enters its launch queue, with its age, and its waits are tested (R165). -/
def State.enterRecord (s : State) (c : Nat) (ws : RecordWords) : State :=
  let (uid, s) := s.fresh
  let r : Record := { ctx := c, words := ws, age := uid }
  { s with records := Tab.ins s.records uid (r.test (s.counter c)) }

/-- The die whose caches serve a context's own queues: the first of its partition (log 10). -/
def State.homeDie (s : State) (c : Nat) : Nat := (s.ctx c).d.pbase

/-- The places of bytes of a context's memory; none where one is not Mapped, or not writable for a write, or compressed. D is
left to the write. -/
def State.virt (s : State) (c addr n : Nat) (write : Bool) : State × Option (List Loc) :=
  match s.engCheck (s.homeDie c) c false write false addr n with
  | (s, .ok ls) => (s, some ls)
  | (s, _) => (s, none)

/-- The places of bytes of a context's memory that are now written: D is set (06_page R131). -/
def State.virtD (s : State) (c addr n : Nat) (copy : Bool) : State × Option (List Loc) :=
  match s.engBytes (s.homeDie c) c false true copy addr n with
  | (s, .ok ls) => (s, some ls)
  | (s, _) => (s, none)

/-- Bytes at known places. -/
def State.readLocs (s : State) (ls : List Loc) : List Byte := ls.map (s.readLoc 0)

/-- A record discarded: ERRCNT counts, ERRTAG and ERRCODE are written (R164). Where the header's page is not Mapped, or may not be
written, none of them is: R164 names no outcome (DESIGN CHOICE, log 88). -/
def State.discard (s : State) (c code tag : Nat) : State :=
  match s.virtD c (s.ctx c).d.entryq 64 false with
  | (s, some ls) =>
    let n := (ofBytes (s.readLocs ((ls.drop 28).take 4)) + 1) % 2 ^ 32
    s.writeCells 0 (((ls.drop 25).take 7).zip (toBytes 1 code ++ toBytes 2 tag ++ toBytes 4 n))
  | (s, none) => s

/-- An append that is accepted: the state after it; none: refused (R163). -/
def State.appended (s : State) (c : Nat) (ws : RecordWords) : Option State :=
  let x := s.ctx c
  let live : Bool := x.st = .resident || x.st = .running || x.st = .draining || x.st = .saved
  if !live then none
  else
    match s.virt c x.d.entryq 64 true with
    | (_, none) => none
    | (s, some h) =>
      let hb := s.readLocs h
      let cap := ofBytes (hb.take 1) % 32
      let tail := ofBytes ((hb.drop 8).take 4)
      let head := ofBytes ((hb.drop 12).take 4)
      if cap < 4 ∨ 16 < cap ∨ 2 ^ cap ≤ (tail + 2 ^ 32 - head) % 2 ^ 32 then none
      else
        match s.virtD c (x.d.entryq + 64 * (1 + tail % 2 ^ cap)) 64 false with
        | (_, none) => none
        | (s, some sl) =>
          match s.virtD c x.d.entryq 64 false with
          | (_, none) => none
          | (s, some h) =>
            let s := s.writeCells 0 (sl.zip ((ws.map (fun w => toBytes 4 w.toNat)).flatten))
            some (s.writeCells 0 (((h.drop 8).take 4).zip (toBytes 4 (tail + 1))))

/-- An append to a context's entry queue: where it is refused nothing is written (R163). -/
def State.append (s : State) (c : Nat) (ws : RecordWords) : State × Bool :=
  match s.appended c ws with
  | some s => (s, true)
  | none => (s, false)

/-- ENTRYQ_MOVE (R164): the record at the head of a context's entry queue moves to its launch queue, or is discarded. -/
def execEvEntryqMove (ctx : Nat) (s : State) : Out :=
  event (
    let x := s.ctx ctx
    if !(x.st = .resident || x.st = .running) || x.moveStopped then none
    else
      let stopMove (s : State) : Option State := some (s.modCtx ctx (fun x => { x with moveStopped := true }))
      match s.virt ctx x.d.entryq 64 true with
      | (s, none) => stopMove s
      | (s, some h) =>
        let hb := s.readLocs h
        let cap := ofBytes (hb.take 1) % 32
        let tail := ofBytes ((hb.drop 8).take 4)
        let head := ofBytes ((hb.drop 12).take 4)
        if head = tail then none
        else
          match s.virt ctx (x.d.entryq + 64 * (1 + head % 2 ^ cap)) 64 false with
          | (s, none) => stopMove s
          | (s, some sl) =>
            let ws := wordsOf (s.readLocs sl)
            let next (f : State → State) : Option State :=
              match s.virtD ctx x.d.entryq 64 false with
              | (s, some h) => some (f (s.writeCells 0 (((h.drop 12).take 4).zip (toBytes 4 (head + 1)))))
              | (s, none) => stopMove s
            if !recordOk ws then next (fun s => s.discard ctx 2 (recTag ws))
            else if !(s.ctx ctx).permits (recClass ws) then next (fun s => s.discard ctx 1 (recTag ws))
            else if s.room ctx (recClass ws) then next (fun s => s.enterRecord ctx ws)
            else none)

/-- ENTRY_APPEND (R163): an append message for a context of this module arrives from a link or the host. -/
def execEvEntryAppend (ctx : Nat) (rec : AppendMsg) (s : State) : Out :=
  event (served s (
    if rec.words.length ≠ 16 ∨ ctx ≥ 64 ∨ rec.src > 4095 then none
    else
      let (s, ok) := s.wakeModule.append ctx rec.words
      some (s.send (.appendReply rec.src ok))))

/-- HOST_APPEND (18_link R368): the 64 bytes of APPEND `slot` are sent, and APPSTAT reports the result. -/
def State.hostAppend (s : State) (slot : Nat) : State :=
  let ws := wordsOf ((List.range 64).map (fun i => BitVec.ofNat 8 (Tab.get 0 s.appendBuf (64 * slot + i))))
  let (s, ok) := s.append slot ws
  let s := { s with appSeq := Tab.set 0 s.appSeq slot (Tab.get 0 s.appSeq slot + 1)
                    appRes := Tab.set 0 s.appRes slot (if ok then 1 else 2) }
  s.interrupt 4

/-- HOST_APPEND (18_link R368). -/
def execEvHostAppend (slot : Nat) (s : State) : Out := 
  if slot < 64 then hostWrite s (fun s => s.hostAppend slot) else .refused .notEnabled

/-- EVPOST (R159): ignored while the context is Retired, Built or Faulted. -/
def State.evpost (s : State) (c k : Nat) (amount : Word) : State :=
  let st := (s.ctx c).st
  if st = .retired ∨ st = .built ∨ st = .faulted then s else s.signal c (k % 256) amount

/-- EVPOST (R159). -/
def execEvEvpost (ctx ctr : Nat) (amount : Word) (s : State) : Out :=
  if ctx < 64 then hostWrite s (fun s => s.evpost ctx ctr amount) else .refused .notEnabled

/-- The descriptor that a record names, read and checked: its kernel, or the ERRCODE (R164, 09_kernel R182). A descriptor to which
the scheduler has no path discards the record with ERRCODE 4: no rule gives it a code (DESIGN CHOICE, log 90). -/
def State.readKernel (s : State) (c kdesc size : Nat) (task : Bool) : State × (Nat ⊕ Kernel) :=
  match s.virt c kdesc 64 false with
  | (s, none) => (s, .inl 4)
  | (s, some ls) =>
    let ws := wordsOf (s.readLocs ls)
    let k := Kernel.of ws
    let n := if task then 1 else if size = 0 then k.team else size
    if kernelReserved ws && k.ranges n task && k.fitsEmpty n then (s, .inr k) else (s, .inl 3)

/-- Every page of a backing range is Mapped with W = 1 and C = 0 (R161). -/
def State.backingOk (s : State) (c base n : Nat) : Bool :=
  (List.range (n / 65536 + 2)).all (fun i =>
    let va := min (base + 65536 * i) (base + n - 1)
    match s.walk (s.homeDie c) c va with
    | .leaf l => pteW l.pte && !pteC l.pte && !pteM l.pte
    | .fault _ _ _ _ | .link => false)

/-- A record leaves the launch queue. -/
def State.dropRecord (s : State) (r : Nat) : State := { s with records := Tab.del s.records r }

/-- A record is done: DONECTR is signalled where DONEEN is 1 (R165, R174). -/
def State.recordDone (s : State) (r : Nat) (x : Record) : State :=
  let s := s.dropRecord r
  match recDone x.words with
  | some k => s.signal x.ctx k 1
  | none => s

/-- RECORD_READY (R165, R169): a record whose waits are met becomes Ready; it reads its kernel and is checked. KIND 1 opens
its task queue, KIND 2 starts Closing. A KIND 2 record is Done and leaves its launch-queue slot when Closing begins, before
DONECTR is signalled at Closed (R165 gives Done for teams only: DESIGN CHOICE, log 73). While the context is neither Resident nor
Running the record stays Waiting, its waits met or not: R165 names no time (DESIGN CHOICE, log 89). -/
def execEvRecordReady (record : Nat) (s : State) : Out :=
  event (match Tab.find s.records record with
    | none => none
    | some r =>
      let st := (s.ctx r.ctx).st
      if r.st ≠ .waiting ∨ !(r.met0 && r.met1) ∨ !(st = .resident || st = .running) then none
      else
        let ws := r.words
        let bad (s : State) (code : Nat) : Option State := some ((s.dropRecord record).discard r.ctx code (recTag ws))
        let q := (s.ctx r.ctx).queue (recTq ws)
        match recKind ws with
        | 0 =>
          match s.readKernel r.ctx (recKdesc ws) (recTeamg ws) false with
          | (s, .inl code) => bad s code
          | (s, .inr k) => some { s with records := Tab.ins s.records record { r with st := .ready, kern := some k } }
        | 1 =>
          match s.readKernel r.ctx (recKdesc ws) 1 true with
          | (s, .inl code) => bad s code
          | (s, .inr k) =>
            if q.st ≠ .closed then bad s 5
            else if !s.backingOk r.ctx (recArgptr ws) (128 * recGx ws) then bad s 6
            else
              let q : TaskQ :=
                { st := .opened, cap := recGx ws, cls := recClass ws, gy := recGy ws, args := recArgs ws, kern := k }
              some ((s.modCtx r.ctx (fun x => x.setQueue (recTq ws) q)).recordDone record r)
        | _ =>
          if q.st ≠ .opened then bad s 5
          else
            let q := { q with st := .closing, done := recDone ws }
            some ((s.modCtx r.ctx (fun x => x.setQueue (recTq ws) q)).dropRecord record))

/-- TASKQ_CLOSED (R169): a Closing queue with no slot in use is Closed, and its closing record signals. -/
def execEvTaskqClosed (ctx q : Nat) (s : State) : Out :=
  event (
    let t := (s.ctx ctx).queue q
    if t.st = .closing ∧ t.slots = [] then
      let s := s.modCtx ctx (fun x => x.setQueue q {})
      some (match t.done with
        | some k => s.signal ctx k 1
        | none => s)
    else none)

/-- The Queued records of a task queue in queue order (R170). -/
def TaskQ.queuedRecs (t : TaskQ) : List (Nat × TaskRec) :=
  let recs := t.slots.filterMap (fun e => match e.2 with
    | some r => if r.st = .queued then some (e.1, r) else none
    | none => none)
  recs.foldl (fun (l : List (Nat × TaskRec)) e =>
    (l.takeWhile (fun o => o.2.seq < e.2.seq)) ++ [e] ++ (l.dropWhile (fun o => o.2.seq < e.2.seq))) []

/-- The records that a queue's next group takes: the oldest, and further ones with its entry, up to W (R172). -/
def TaskQ.nextTasks (t : TaskQ) : List (Nat × TaskRec) :=
  match t.queuedRecs with
  | [] => []
  | e :: rest => (e :: rest.filter (fun o => o.2.entry = e.2.entry)).take t.kern.w

/-- A group can form (R172). -/
def TaskQ.formable (t : TaskQ) : Bool :=
  (t.st = .opened || t.st = .closing) && t.nextTasks ≠ [] && (t.nextTasks.length = t.kern.w || t.expired)

/-- GATHER_WAIT_EXPIRY (R172): the oldest record of a queue has been Queued for GY ac. -/
def execEvGatherWaitExpiry (ctx q : Nat) (s : State) : Out :=
  event (
    let t := (s.ctx ctx).queue q
    match t.queuedRecs with
    | e :: _ =>
      if !t.expired ∧ e.2.since + t.gy ≤ s.sched.now then
        some (s.modCtx ctx (fun x => x.setQueue q { t with expired := true }))
      else none
    | [] => none)

/-- The record that an instruction names: sixteen s registers from B (R176). -/
def Env.record (v : Env) (b : BitVec 8) : RecordWords :=
  (List.range 16).map (fun j => v.x.regs.getS (b.toNat - 0x80 + j))

/-- launch (R176). -/
def execSyLaunch (w : TwoWord) (s : State) : Out :=
  runWord (.syLaunch w) noIll (fun v s =>
    let r := v.record w.b
    if !(s.ctx v.c).permits (recClass r) then .trap s (v.whole .priv)
    else if !recordOk r then .trap s (v.whole .prot)
    else if !v.x.drained then .park s .drain
    else if s.room v.c (recClass r) then .done ((s.enterRecord v.c r).setPred v true)
    else .done (s.setPred v false)) s

/-- qpost (R176): to the context's own entry queue, or a message to the module that the map entry names (18_link R368). -/
def execSyQpost (w : TwoWord) (s : State) : Out :=
  runWord (.syQpost w) noIll (fun v s =>
    let m := (v.uni w.a).toNat
    let r := v.record w.b
    if m > 0xFFF || (m ≠ 0 && !(s.ctx v.c).mapped m) then .trap s (v.whole .prot)
    else if !recordOk r then .trap s (v.whole .prot)
    else if !v.x.drained then .park s .drain
    else if m = 0 then
      let (s, ok) := s.append v.c r
      .done (s.setPred v ok)
    else
      let e := (Tab.get 0 (s.ctx v.c).map m).toNat
      let (id, s) := s.fresh
      let p : Pend := { id := id, regs := [.q v.qd], flag := v.flag, pc := v.cl.own, lanes := v.act, kind := .qpost v.qd v.act
                        homes := [9] }
      .done ((s.send (.append (bits e 11 0) (bits e 23 18) r s.modid.id)).modGroup v.g (fun x =>
        (x.modIo (fun io => { io with pend := io.pend ++ [p] })).count v.flag))) s

/-- QPOST_REPLY (R175, 18_link R368): the module that a qpost named answers, or cannot be reached: such an append is refused. -/
def execEvQpostReply (group op : Nat) (res : IoEnd) (accepted : Bool) (s : State) : Out :=
  event (match s.group group with
    | none => none
    | some x =>
      match x.io.pend.find? (fun p => p.id = op) with
      | none => none
      | some p =>
        if !s.mayEnd (dieOfCore x.core) p.homes res then none
        else match p.kind, res with
        | .qpost qd lanes, .ok | .qpost qd lanes, .link =>
          let ok : Bool := accepted && res = .ok
          some (s.setGroup group (((x.dropPend op).modRegs (fun r => r.setQ qd lanes (if ok then lanes else 0))).uncount p.flag))
        | _, _ => none)

/-- Free slots of a queue, lowest first. -/
def TaskQ.freeSlots (t : TaskQ) (n : Nat) : List Nat := ((List.range t.cap).filter (fun k => (t.slot k).isNone)).take n

/-- treserve (R176). -/
def execSyTreserve (w : TwoWord) (s : State) : Out :=
  runWord (.syTreserve w) noIll (fun v s =>
    let k := (v.uni w.a).toNat
    if k > 63 then .trap s (v.whole .prot)
    else
      let t := (s.ctx v.c).queue k
      let n (l : Nat) : Nat := (v.read w.b .b32 l).toNat
      let bad (l : Nat) : Bool :=
        let y := v.x.lane l
        n l > 64 || y.res + n l > 255 || (n l > 0 && y.res > 0 && y.resQ ≠ k)
      let need := (v.lanes.map n).sum
      if t.st = .opened && !v.lanes.any bad && need ≤ t.free then
        let t := (t.freeSlots need).foldl (fun t i => t.setSlot i (some {})) t
        let s := s.modCtx v.c (fun x => x.setQueue k t)
        let s := s.modGroup v.g (fun x => x.mapLanes v.act (fun l y =>
          if n l > 0 then { y with resQ := k, res := y.res + n l } else y))
        .done (s.setPred v true)
      else .done (s.setPred v false)) s

/-- One lane's spawn: a Reserved slot takes the record, published at once by a committed lane and held back by another
(R170, R176). -/
def State.spawn (s : State) (g c k l : Nat) (entry : Word) (args : List Word) : State :=
  match s.group g, ((s.ctx c).queue k).slots.find? (fun e => match e.2 with | some r => r.st = .reserved | none => false) with
  | some x, some e =>
    let put (st : SlotSt) : State := s.modCtx c (fun z =>
      z.setQueue k ((z.queue k).setSlot e.1 (some { st := st, entry := entry, args := args })))
    let spend (s : State) (p : List (Nat × Nat)) : State :=
      s.modGroup g (fun x => x.mapLanes (Mask.single l) (fun _ y => { y with res := y.res - 1, pending := y.pending ++ p }))
    if (x.lane l).committed then spend ((put .pending).publish c k e.1) []
    else spend (put .pending) [(k, e.1)]
  | _, _ => s

/-- tspawn (R176). -/
def execSyTspawn (w : TwoWord) (s : State) : Out :=
  runWord (.syTspawn w) noIll (fun v s =>
    let k := (v.uni w.x.c).toNat
    let len := w.x.mod2.toNat % 32
    let entry (l : Nat) : Word := v.read w.a .b32 l
    let bad := v.lanes.filter (fun l => (entry l).toNat % 4 ≠ 0)
    let may (l : Nat) : Bool := (v.x.lane l).resQ = k && (v.x.lane l).res > 0
    if k > 63 then .trap s (v.whole .prot)
    else if bad ≠ [] then .trap s { cause := .align, tmask := bad.foldl (fun m l => m ||| Mask.single l) 0 }
    else if v.lanes.any (fun l => may l && (v.x.lane l).committed) && !v.x.drained then .park s .drain
    else
      let args (l : Nat) : List Word := (List.range len).map (fun j => v.x.regs.getV (w.b.toNat + j) l)
      let ok := v.lanes.filter may
      let s := ok.foldl (fun s l => s.spawn v.g v.c k l (entry l) (args l)) s
      let m : Mask := ok.foldl (fun m l => m ||| Mask.single l) 0
      .done (s.modGroup v.g (fun x => x.modRegs (fun r => r.setQ v.qd v.act m)))) s

/-- The publications of some lanes must wait: a lane holds Pending records and an earlier access is not performed (R174). -/
def Env.publishWaits (v : Env) (m : Mask) : Bool :=
  (lanesOf m).any (fun l => (v.x.lane l).pending ≠ [] && !(v.x.lane l).committed) && !v.x.drained

/-- tcommit (R176). -/
def execSyTcommit (w : TwoWord) (s : State) : Out :=
  runWord (.syTcommit w) noIll (fun v s =>
    if v.publishWaits v.act then .park s .drain
    else .done (v.lanes.foldl (fun s l => s.commitLane v.g v.c l) s)) s

/-- evsig (R176). -/
def execSyEvsig (w : TwoWord) (s : State) : Out :=
  runWord (.syEvsig w) noIll (fun v s =>
    let c := (v.uni w.a).toNat
    if c > 255 then .trap s (v.whole .prot)
    else if !v.x.drained then .park s .drain
    else .done (s.signal v.c c (v.uni w.b))) s

/-- evwait (R176). -/
def execSyEvwait (w : TwoWord) (s : State) : Out :=
  runWord (.syEvwait w) noIll (fun v s =>
    let c := (v.uni w.a).toNat
    if c > 255 then .trap s (v.whole .prot)
    else if reached (s.counter v.c c).toNat (v.uni w.b).toNat then .done s
    else .park s (.event c (v.uni w.b))) s

/-- evread (R176). -/
def execSyEvread (w : TwoWord) (s : State) : Out :=
  runWord (.syEvread w) noIll (fun v s =>
    let c := (v.uni w.a).toNat
    if c > 255 then .trap s (v.whole .prot)
    else v.set s (v.x.modRegs (fun r => r.setS v.d (s.counter v.c c)))) s

end Sys2Proof.Machine
end

