-- ==== Sys2Proof/Machine/View.lean ====
section
/-!
DEFINITION. View sets, the warp, frames and the serialiser (16_view R305 to R322), and the issue of the view instructions
(R328 to R331).
-/
namespace Sys2Proof.Machine

/-- A view-set slot. -/
def State.vset (s : State) (k : Nat) : ViewSet := Tab.get {} s.vsets k

/-- A view-set slot replaced. -/
def State.setVset (s : State) (k : Nat) (x : ViewSet) : State := { s with vsets := Tab.set {} s.vsets k x }

/-- A gaze register. -/
def State.gazeReg (s : State) (k : Nat) : Gaze := Tab.get {} s.gazes k

/-- A pair committed to a gaze register (R309). -/
def State.commitGaze (s : State) (k : Nat) (x y : Word) : State :=
  let g := s.gazeReg k
  { s with gazes := Tab.set {} s.gazes k { g with x := x, y := y, seq := g.seq + 1 } }

/-- A warp block at word j of a view record (R307). -/
def Warp.of (ws : List Word) (j : Nat) : Warp :=
  ⟨bits (nth 0 ws j).toNat 2 0, (ws.drop (j + 1)).take 3, ((ws.drop (j + 4)).take 3).map (·.toNat)⟩

/-- The rules of R307 for a warp block at word j over an axis of `size`. -/
def warpOk (ws : List Word) (j size : Nat) : Bool :=
  let w := Warp.of ws j
  let bnd (i : Nat) : Nat := if i = 0 then 0 else if i = w.nseg then size else nth 0 w.bnds (i - 1)
  (nth 0 ws j).toNat < 8 && 1 ≤ w.nseg && w.nseg ≤ 4 && nth 0 ws (j + 7) = 0
    && (List.range w.nseg).all (fun i => bnd i < bnd (i + 1))
    && (List.range 3).all (fun i =>
      if i + 1 < w.nseg then finite32 (nth 0 w.offs i) else nth 0 w.offs i = 0 && nth 0 w.bnds i = 0)

/-- A view record's fields (R306). -/
def ViewRec.of (ws : List Word) : ViewRec :=
  let lo (j : Nat) : Nat := (nth 0 ws j).toNat % 65536
  let hi (j : Nat) : Nat := (nth 0 ws j).toNat / 65536
  let quad (j : Nat) : Nat := (nth 0 ws j).toNat + 2 ^ 32 * (nth 0 ws (j + 1)).toNat
  { m := ws.take 16, hw := Warp.of ws 16, vw := Warp.of ws 24, rw := lo 32, rh := hi 32, dw := lo 33, dh := hi 33
    gaze := bits (nth 0 ws 34).toNat 5 0, out := bits (nth 0 ws 34).toNat 10 8, bound := lo 35, ox := lo 36, oy := hi 36
    pitch := (nth 0 ws 37).toNat, lens := quad 38, prelens := quad 40, tstore := quad 42, rkdesc := quad 44 }

/-- A size of a raster or a display: a multiple of 32, 32 to 4,096. -/
def sizeOk (n : Nat) : Bool := n % 32 = 0 && 32 ≤ n && n ≤ 4096

/-- A view record keeps the rules of R306 and R307. -/
def viewRecOk (ws : List Word) : Bool :=
  let r := ViewRec.of ws
  let route := (nth 0 ws 34).toNat
  r.m.all finite32 && sizeOk r.rw && sizeOk r.rh && sizeOk r.dw && sizeOk r.dh && warpOk ws 16 r.rw && warpOk ws 24 r.rh
    && bits route 7 6 = 0 && bits route 31 11 = 0 && 1 ≤ r.bound && (nth 0 ws 35).toNat < 65536 && r.ox % 32 = 0 && r.oy % 32 = 0
    && r.pitch % 4 = 0 && 4 * r.dw ≤ r.pitch && r.lens % 8 = 0 && r.prelens % 4 = 0 && r.tstore % 4096 = 0 && r.rkdesc % 64 = 0
    && (List.range 18).all (fun i => nth 0 ws (46 + i) = 0)

/-- The active area that the fit check takes: that of the output, or 4,096 square for a stream (R321). -/
def State.area (s : State) (out : Nat) : Nat × Nat := if out < 4 then Tab.get (0, 0) s.dpout out else (4096, 4096)

/-- A view's rectangle fits its output, or the output is down (R308, R322). -/
def State.fitsOut (s : State) (r : ViewRec) : Bool :=
  let a := s.area r.out
  a = (0, 0) || (r.ox + r.dw ≤ a.1 && r.oy + r.dh ≤ a.2)

/-- The display rectangles of two views on one output overlap (R308). -/
def ViewRec.overlaps (a b : ViewRec) : Bool :=
  a.out = b.out && Machine.overlaps a.ox (a.ox + a.dw) b.ox (b.ox + b.dw)
    && Machine.overlaps a.oy (a.oy + a.dh) b.oy (b.oy + b.dh)

/-- The views that a slot counts as bound: its binding, and a binding that waits (R314). -/
def ViewSet.boundViews (x : ViewSet) : List ViewRec :=
  (if x.st = .unbound then [] else x.views) ++ (match x.waiting with
    | some w => w.2
    | none => [])

/-- The bound views of every slot but one, with their contexts. -/
def State.otherViews (s : State) (k : Nat) : List (Nat × ViewRec) :=
  ((s.vsets.filter (fun e => e.1 ≠ k)).map (fun e => e.2.boundViews.map (fun r => (e.2.ctx, r)))).flatten

/-- No two views of a list overlap. -/
def noOverlap : List ViewRec → Bool
  | [] => true
  | r :: rs => rs.all (fun q => !r.overlaps q) && noOverlap rs

/-- The checks of R308 on the views of a record for a slot of a context. -/
def State.viewsOk (s : State) (c k : Nat) (vs : List ViewRec) : Bool :=
  vs.all (fun r => s.fitsOut r && (s.otherViews k).all (fun o => (o.1 = c || o.2.gaze ≠ r.gaze) && !o.2.overlaps r))
    && noOverlap vs

/-- The breakpoints of an axis for a gaze component (R310). -/
def breakpoints (w : Warp) (g : Word) : List Word :=
  let g := if isNan32 g then 0 else g
  let one (ps : List Word) (i : Nat) : List Word :=
    let u := (fAdd .f32 {} .rne g.toNat (nth 0 w.offs (i - 1)).toNat).1
    let lo := (fAdd .f32 {} .rne (nth 0 ps (i - 1)).toNat 0x3C800000).1
    let hi := (Q.f32Of (Q.frac (64 - (w.nseg - i)) 64)).toNat
    ps ++ [BitVec.ofNat 32 (fMin .f32 {} (fMax .f32 {} u lo) hi)]
  ((List.range (w.nseg - 1)).foldl (fun ps i => one ps (i + 1)) [0xBF800000]) ++ [0x3F800000]

/-- The sign of a binary32 pattern turned. -/
def neg32 (x : Word) : Word := x ^^^ 0x80000000

/-- The horizontal breakpoints that a latch takes now (R310, R312). -/
def State.hBreaks (s : State) (r : ViewRec) : List Word := breakpoints r.hw (s.gazeReg r.gaze).x

/-- The vertical breakpoints that vopen takes now: the vertical warp works on -y (R310). -/
def State.vBreaks (s : State) (r : ViewRec) : List Word := breakpoints r.vw (neg32 (s.gazeReg r.gaze).y)

/-- bnd(i) of an axis (R307). -/
def Warp.bnd (w : Warp) (size i : Nat) : Nat := if i = 0 then 0 else if i ≥ w.nseg then size else nth 0 w.bnds (i - 1)

/-- Fwd of an axis (R311). -/
def Warp.fwd (w : Warp) (size : Nat) (ps : List Word) (u : Word) : Word :=
  let x := Q.f32 u
  let s := ((List.range w.nseg).filter (fun i => Q.le (Q.f32 (nth 0 ps i)) x)).foldl max 0
  let p := Q.f32 (nth 0 ps s)
  let b0 := w.bnd size s
  let db := Q.int ((w.bnd size (s + 1) : Int) - b0)
  Q.f32Of (Q.add (Q.int b0) (Q.div (Q.mul (Q.sub x p) db) (Q.sub (Q.f32 (nth 0 ps (s + 1))) p)))

/-- Smp of an axis (R311). -/
def Warp.smp (w : Warp) (size : Nat) (ps : List Word) (x : Nat) : Word :=
  let s := ((List.range w.nseg).filter (fun i => w.bnd size i ≤ x)).foldl max 0
  let p := Q.f32 (nth 0 ps s)
  let b0 := w.bnd size s
  let db := Q.int ((w.bnd size (s + 1) : Int) - b0)
  Q.f32Of (Q.add p (Q.div (Q.mul ⟨2 * (x : Int) + 1 - 2 * b0, 2⟩ (Q.sub (Q.f32 (nth 0 ps (s + 1))) p)) db))

/-- The frame of a number that a slot keeps (R318). -/
def ViewSet.frame (x : ViewSet) (num : Nat) : Option Frame :=
  match x.cur, x.prev with
  | some f, p => if f.num = num then some f else (match p with
    | some g => if g.num = num then some g else none
    | none => none)
  | none, _ => none

/-- A frame of a slot changed. -/
def ViewSet.modFrame (x : ViewSet) (num : Nat) (f : Frame → Frame) : ViewSet :=
  let g (o : Option Frame) : Option Frame := o.map (fun y => if y.num = num then f y else y)
  { x with cur := g x.cur, prev := g x.prev }

/-- A view of a frame. -/
def Frame.view (f : Frame) (v : Nat) : FView := nth { vbrk := [] } f.views v

/-- A view of a frame changed. -/
def Frame.modView (f : Frame) (v : Nat) (g : FView → FView) : Frame := { f with views := setAt f.views v (g (f.view v)) }

/-- A view of a slot's binding. -/
def ViewSet.view? (x : ViewSet) (v : Nat) : Option ViewRec := x.views[v]?

/-- A strip of a view is latched in a frame, at a moment at which the gaze stands as it stands now: the first latch stays
(R312). -/
def State.latchAt (s : State) (k v num time strip : Nat) : State :=
  let x := s.vset k
  match x.view? v, x.frame num with
  | some r, some f =>
    if (Tab.get none (f.view v).strips strip).isSome then s
    else
      let b := (s.hBreaks r, time)
      s.setVset k (x.modFrame num (fun f => f.modView v (fun y => { y with strips := Tab.set none y.strips strip (some b) })))
  | _, _ => s

/-- A strip of a view is latched now. -/
def State.latch (s : State) (k v num strip : Nat) : State := s.latchAt k v num s.sched.time strip

/-- Every unlatched strip of a view is latched (R312). -/
def State.latchAll (s : State) (k v num time : Nat) : State :=
  match (s.vset k).view? v with
  | some r => (List.range (r.rh / 16)).foldl (fun s i => s.latchAt k v num time i) s
  | none => s

/-- The horizontal breakpoints of a latched strip. -/
def FView.hbrk (y : FView) (strip : Nat) : List Word :=
  match Tab.get none y.strips strip with
  | some b => b.1
  | none => []

/-- Units of time in a microsecond (log 2). -/
def usec : Nat := 2772000

/-- t_j of a display row (R315). -/
def ViewRec.rowT (r : ViewRec) (j : Nat) : Word := Q.f32Of (Q.sub (Q.frac (64 * j + 32) r.dh) (Q.int 1))

/-- Min(Max(floor(Y / 16), 0), RH / 16 - 1) of a forward row (R315, R330). -/
def ViewRec.stripOf (r : ViewRec) (y : Word) : Nat :=
  min ((Q.floor (Q.div (Q.f32 y) (Q.int 16))).toNat) (r.rh / 16 - 1)

/-- The deadline D_j of a display row; none while its strip is not latched (R315). -/
def deadline (r : ViewRec) (y : FView) (j : Nat) : Option Nat :=
  (Tab.get none y.strips (r.stripOf (r.vw.fwd r.rh y.vbrk (r.rowT j)))).map (fun b => b.2 + r.bound * usec)

/-- The emission times of rows i to j of a frame, from the time of the row before (R315): that of row j. -/
def emitFrom (r : ViewRec) (y : FView) (t : Nat) (i : Nat) : Nat → Option Nat
  | 0 => some t
  | n + 1 =>
    match deadline r y i with
    | some d => emitFrom r y (max t d) (i + 1) n
    | none => none

/-- E_j of row j of a frame of a view, where it is not yet emitted; none while it is not determined (R315). -/
def ViewSet.emitTime (x : ViewSet) (v : Nat) (r : ViewRec) (num j : Nat) : Option Nat :=
  let nr := r.dh / 32
  let t0 := Tab.get 0 x.lastOut v
  let before : Option Nat := match x.cur, x.prev with
    | some f, some p =>
      if f.num = num then emitFrom r (p.view v) t0 (p.view v).emitted (nr - (p.view v).emitted) else some t0
    | _, _ => some t0
  match before, x.frame num with
  | some t, some f => emitFrom r (f.view v) t (f.view v).emitted (j + 1 - (f.view v).emitted)
  | _, _ => none

/-- Every row of every view of a frame is emitted. -/
def ViewSet.allOut (x : ViewSet) (f : Option Frame) : Bool :=
  match f with
  | none => true
  | some f => (List.range x.views.length).all (fun v => match x.view? v with
    | some r => (f.view v).emitted ≥ r.dh / 32
    | none => true)

/-- Bits kept for a view and a tile in the tag tables. -/
def tileKey (r : ViewRec) (v c j : Nat) : Nat := 2 ^ 15 * v + (j * (r.dw / 32) + c)

/-- The address of a tile's slot in the tile store (R316). -/
def ViewRec.slotAddr (r : ViewRec) (slot c j : Nat) : Nat :=
  addOff r.tstore (((slot % 2) * ((r.dw / 32) * (r.dh / 32)) + j * (r.dw / 32) + c) * 4096 : Nat)

/-- The bytes of a tile in the store, as the controller of the module reads them; a byte with no translation is a free
value (log 9). -/
def State.tileBytes (s : State) (c addr : Nat) : State × List Byte :=
  match s.engBytes (s.homeDie c) c false false true addr 4096 with
  | (s, .ok ls) => s.engRead false ls
  | (s, _) => (List.range 4096).foldl (fun (p : State × List Byte) _ =>
      let (n, s) := p.1.freeVal
      (s, BitVec.ofNat 8 n :: p.2)) (s, [])

/-- A port carries traffic (18_link R360). -/
def State.portLive (s : State) (p : Nat) : Bool :=
  let x := Tab.get {} s.ports p
  x.st = .up || x.st = .degraded

/-- One emitted tile leaves: to a DisplayPort output inside its active area, or on a link tile stream (R320, R322, 18_link
R370). -/
def State.emitTile (s : State) (k v : Nat) (r : ViewRec) (num c j : Nat) (bs : List Byte) : State :=
  if r.out < 4 then
    let a := Tab.get (0, 0) s.dpout r.out
    let px := (List.range 1024).filterMap (fun i =>
      let x := r.ox + 32 * c + i % 32
      let y := r.oy + 32 * j + i / 32
      if x < a.1 && y < a.2 then some (x, y, ofBytes ((bs.drop (4 * i)).take 3)) else none)
    if px = [] then s else s.send (.pixels r.out px)
  else
    let t := Tab.get {} s.streams (r.out - 4)
    if !t.en || !s.portLive t.port then s
    else if t.credit = 0 then { s with streams := Tab.set {} s.streams (r.out - 4) { t with drop := t.drop + 1 } }
    else
      let hdr := putBits k 6 0 + putBits v 4 8 + putBits num 16 16 + putBits c 7 32 + putBits j 7 40
      let s := { s with streams := Tab.set {} s.streams (r.out - 4) { t with credit := t.credit - 1 } }
      s.send (.tile (r.out - 4) t.dest hdr (bs.map (·.toNat)))

/-- One tile of an emitted row: the slot of the frame, else the slot presented last and a MISS, else zero pixels (R316). -/
def State.emitOne (s : State) (k v : Nat) (r : ViewRec) (num j c : Nat) : State :=
  let x := s.vset k
  let key := tileKey r v c j
  if Tab.get 0 x.tags (2 * key + num % 2) = num + 1 then
    let (s, bs) := s.tileBytes x.ctx (r.slotAddr num c j)
    s.emitTile k v r num c j bs
  else
    match Tab.get 0 x.last key with
    | 0 => s.emitTile k v r num c j (List.replicate 4096 0)
    | p + 1 =>
      let s := (s.setVset k { x with miss := Tab.set 0 x.miss v (Tab.get 0 x.miss v + 1) }).interrupt 8
      let (s, bs) := s.tileBytes x.ctx (r.slotAddr p c j)
      s.emitTile k v r num c j bs

/-- The row of a view that leaves next, where there is one and E_j is determined: its record, its frame, its number and E_j
(R315). -/
def ViewSet.nextRow (x : ViewSet) (view : Nat) : Option (ViewRec × Frame × Nat × Nat) :=
  match x.view? view with
  | none => none
  | some r =>
    let left (f : Option Frame) : Option Frame := match f with
      | some f => if (f.view view).emitted < r.dh / 32 then some f else none
      | none => none
    match (left x.prev).orElse (fun _ => left x.cur) with
    | none => none
    | some f =>
      let j := (f.view view).emitted
      (x.emitTime view r f.num j).map (fun t => (r, f, j, t))

/-- ROW_EMIT (R315, R316): at E_j the next row of a view leaves the tile store. The step takes it before anything else that
comes at E_j or later (State.timed), so that the store is read as it stands at E_j. -/
def execEvRowEmit (set view : Nat) (s : State) : Out :=
  event (match (s.vset set).nextRow view with
    | none => none
    | some (r, f, j, t) =>
      if s.sched.time < t then none
      else
        let s := (List.range (r.dw / 32)).foldl (fun s c => s.emitOne set view r f.num j c) s
        let x := s.vset set
        some (s.setVset set { x.modFrame f.num (fun f => f.modView view (fun y => { y with emitted := j + 1 })) with
          lastOut := Tab.set 0 x.lastOut view t }))

/-- The moment at which the controller latches the unlatched strips of a view, where one is unlatched, with the frame (R312). -/
def ViewSet.latchDue (x : ViewSet) (view : Nat) : Option (Frame × Nat) :=
  match x.view? view, x.cur with
  | some r, some f =>
    if (List.range (r.rh / 16)).any (fun i => (Tab.get none (f.view view).strips i).isNone) then
      some (f, f.openedAt + r.bound * usec)
    else none
  | _, _ => none

/-- BOUND_LATCH_EXPIRY (R312): at vopen + BOUND every unlatched strip of a view is latched, with that moment as its latch time.
The step takes it before anything else that comes at that moment or later (State.timed). -/
def execEvBoundLatchExpiry (set view : Nat) (s : State) : Out :=
  event (match (s.vset set).latchDue view with
    | some (f, t) => if t ≤ s.sched.time then some (s.latchAll set view f.num t) else none
    | none => none)

/-- The display rectangles of the bound views on an output. -/
def State.shown (s : State) (out : Nat) : List (Nat × Nat × Nat × Nat) :=
  (s.vsets.map (fun e => if e.2.st = .unbound then []
    else (e.2.views.filter (fun r => r.out = out)).map (fun r => (r.ox, r.oy, r.dw, r.dh)))).flatten

/-- An output whose active area or whose bound views have changed sends zero where no bound view covers it, from here on
(R314, R320). -/
def State.reshow (old new : State) : State :=
  (List.range 4).foldl (fun s o =>
    let a := Tab.get (0, 0) new.dpout o
    if a = (0, 0) || (decide (Tab.get (0, 0) old.dpout o = a) && decide (old.shown o = new.shown o)) then s
    else s.send (.zero o a.1 a.2 (new.shown o))) new

/-- A slot bound to a record (R314, R319). -/
def bindSet (c addr : Nat) (vs : List ViewRec) : ViewSet := { st := .bound, ctx := c, addr := addr, views := vs }

/-- A slot unbound; its counters keep their values until a vset binds it again (log 40). -/
def ViewSet.unbind (x : ViewSet) : ViewSet := { miss := x.miss, late := x.late }

/-- View operations of a slot are queued in some view unit. -/
def State.viewBusy (s : State) (k : Nat) : Bool := s.clusters.any (fun c => c.2.viewq.any (fun o => o.set = k))

/-- VSET_APPLY (R314): when every row of every opened frame is emitted, and no view operation of the slot is queued, a
waiting vset replaces or removes the binding. -/
def execEvVsetApply (set : Nat) (s : State) : Out :=
  event (
    let x := s.vset set
    match x.waiting with
    | none => none
    | some (addr, vs) =>
      if !x.allOut x.cur || !x.allOut x.prev || s.viewBusy set then none
      else some (s.reshow (s.setVset set (if addr = 0 then x.unbind else bindSet x.ctx addr vs))))

/-- A write to the 16 bytes of a gaze register (R309, 19_device R397): X is staged; a write that covers a byte of Y commits
the pair. -/
def State.writeGaze (s : State) (k off size data en : Nat) : State :=
  let g := s.gazeReg k
  let old := g.staged.toNat + 2 ^ 32 * g.y.toNat
  let new := (List.range size).foldl (fun x i =>
    if off + i < 8 && bit en i then x - bits x (8 * (off + i) + 7) (8 * (off + i)) * 2 ^ (8 * (off + i))
        + putBits (bits data (8 * i + 7) (8 * i)) 8 (8 * (off + i))
    else x) old
  let s := { s with gazes := Tab.set {} s.gazes k { g with staged := BitVec.ofNat 32 new } }
  if (List.range size).any (fun i => bit en i && 4 ≤ off + i && off + i < 8) then
    s.commitGaze k (BitVec.ofNat 32 new) (BitVec.ofNat 32 (new / 2 ^ 32))
  else s

/-- GAZE_HOST_WRITE (R309). -/
def execEvGazeHostWrite (reg off size data : Nat) (s : State) : Out :=
  if reg < 64 ∧ off + size ≤ 16 ∧ off % size = 0 ∧ (size = 1 ∨ size = 2 ∨ size = 4 ∨ size = 8) then
    hostWrite s (fun s => s.writeGaze reg off size data (2 ^ size - 1))
  else .refused .notEnabled

/-- DP_OUTPUT_CHANGE (R321, R322): an output comes up, changes its mode, or goes down. -/
def execEvDpOutputChange (out width height : Nat) (s : State) : Out :=
  event (outside s (if out < 4 ∧ width < 65536 ∧ height < 65536 ∧ (width = 0 ↔ height = 0) then
    some (s.reshow { s with dpout := Tab.set (0, 0) s.dpout out (width, height) }) else none))

/-- TILE_CREDIT_GRANT (18_link R370): the peer of a stream grants credit for whole tiles. -/
def execEvTileCreditGrant (stream tiles : Nat) (s : State) : Out :=
  event (served s (if stream < 4 then
    let t := Tab.get {} s.streams stream
    some { s with streams := Tab.set {} s.streams stream { t with credit := t.credit + tiles } } else none))

/-- The slot that a view instruction names, in MOD2. -/
def Env.setNo (v : Env) : Nat := v.e.t.x.mod2.toNat % 64

/-- Check 2 of R329: the slot is the context's and its state permits the instruction. -/
def withSet (v : Env) (s : State) (ok : VsSt → Bool) (f : ViewSet → Eff) : Eff :=
  let x := s.vset v.setNo
  if x.st = .unbound ∨ x.ctx ≠ v.c ∨ !ok x.st then .trap s (v.whole .prot) else f x

/-- The states in which a frame's views can be worked on. -/
def VsSt.live : VsSt → Bool
  | .opened | .closed => true
  | _ => false

/-- Check 3 of R329 for a view number. -/
def withView (v : Env) (s : State) (x : ViewSet) (n : Nat) (f : ViewRec → Eff) : Eff :=
  match x.view? n with
  | some r => f r
  | none => .trap s (v.whole .prot)

/-- Check 4 of R329: the handle's number is below HNDL and it is not Free. Its first byte and its bytes follow. -/
def withViewHandle (v : Env) (s : State) (f : Nat → Nat → Eff) : Eff :=
  match v.handleNo (v.e.t.x.c.toNat % 64) with
  | none => .trap s (v.whole .hstate)
  | some h =>
    let x := (s.core v.x.core).handle h
    if x.st = .free then .trap s (v.whole .hstate) else f (128 * x.base) (128 * x.size)

/-- The end of a view operation's issue (R329): a false predicate where the queue or the range-lock table is full, else the
wait for the group's earlier accesses, its ranges, its flag, and the queue. -/
def Env.queueView (v : Env) (s : State) (named : Bool) (ranges : List (LockSpace × Nat × Nat × Bool)) (work : ViewWork) : Eff :=
  let cl := clusterOfCore v.x.core
  let (uid, s') := s.fresh
  let locks := ranges.map (fun r => (⟨r.1, r.2.1, r.2.2.1, r.2.2.2, uid, []⟩ : Lock))
  match (s.core v.x.core).enterLocks locks with
  | none => .done (s.setPred v false)
  | some core =>
    if (s.cluster cl).viewq.length ≥ 16 then .done (s.setPred v false)
    else if !v.x.drained then .park s .drain
    else
      let op : ViewOp :=
        { uid := uid, ctx := v.c, team := v.x.team, group := v.g, core := v.x.core, pc := v.cl.own, cbase := v.cl.base
          lanes := v.act, set := v.setNo, hnum := if named then some (v.e.t.x.c.toNat % 64) else none, work := work }
      let s := (s'.setCore v.x.core core).modCluster cl (fun c => { c with viewq := c.viewq ++ [op] })
      .done ((s.launchOp v uid []).setPred v true)

/-- vset (R308, R314, R330). -/
def vsetIssue (w : TwoWord) (v : Env) (s : State) : Eff :=
  let k := v.setNo
  let x := s.vset k
  let a := v.pair w.a
  let take (s : State) (vs : List ViewRec) : Eff :=
    let x := s.vset k
    if x.waiting.isSome then .done (s.setPred v false)
    else
      let x := if x.st = .unbound then (if a = 0 then x else { bindSet v.c a vs with miss := [], late := [] })
        else { x with waiting := some (a, vs) }
      .done ((s.reshow (s.setVset k x)).setPred v true)
  if !(s.ctx v.c).permits 0 then .trap s (v.whole .priv)
  else if (x.st ≠ .unbound && x.ctx ≠ v.c) || x.st = .opened then .trap s (v.whole .prot)
  else if a = 0 then take s []
  else
    v.loadBlock s a 64 64 (fun s bs =>
      let nv := ofBytes (bs.take 1)
      if nv = 0 ∨ nv > 16 ∨ (bs.drop 1).any (fun b => b ≠ 0) then .trap s (v.whole .prot)
      else
        v.loadBlock s a (64 + 256 * nv) 64 (fun s bs =>
          let ws := wordsOf (bs.drop 64)
          let parts := (List.range nv).map (fun i => (ws.drop (64 * i)).take 64)
          let vs := parts.map ViewRec.of
          if !parts.all viewRecOk || !s.viewsOk v.c k vs then .trap s (v.whole .prot) else take s vs))

/-- vset (R330). -/
def execGxVset (w : TwoWord) (s : State) : Out := runWord (.gxVset w) noIll (vsetIssue w) s

/-- vopen may proceed (R314, R318): no vset of the slot waits, every view of F is closed, every row of F - 1 is emitted. -/
def ViewSet.mayOpen (x : ViewSet) : Bool :=
  x.waiting.isNone && x.st ≠ .opened && x.allOut x.prev

/-- vopen (R318, R330). -/
def execGxVopen (w : TwoWord) (s : State) : Out :=
  runWord (.gxVopen w) noIll (fun v s => withSet v s (fun _ => true) (fun x =>
    if !x.mayOpen then .park s (.vopen v.setNo)
    else
      let f := (x.f + 1) % 2 ^ 32
      let fr : Frame := ⟨f, s.sched.time, x.views.map (fun r => { vbrk := s.vBreaks r })⟩
      let s := s.setVset v.setNo { x with st := .opened, f := f, cur := some fr, prev := x.cur }
      .done (s.modGroup v.g (fun g => g.modRegs (fun r => r.setS v.d (BitVec.ofNat 32 f)))))) s

/-- gazeld (R309, R329). -/
def execGxGazeld (w : TwoWord) (s : State) : Out :=
  runWord (.gxGazeld w) noIll (fun v s =>
    let k := w.x.c.toNat % 64
    if !s.vsets.any (fun e => e.2.ctx = v.c && e.2.boundViews.any (fun r => r.gaze = k)) then .trap s (v.whole .prot)
    else .done (s.commitGaze k (v.uni w.a) (v.uni w.b))) s

/-- A meshlet record keeps R323. -/
def meshOk (bs : List Byte) : Bool :=
  let ws := wordsOf bs
  let h := (nth 0 ws 0).toNat
  let nv := bits h 6 0
  let nt := bits h 14 8
  let tri (t : Nat) : Bool :=
    let x := (nth 0 ws (0x104 + t)).toNat
    bits x 7 0 < nv && bits x 15 8 < nv && bits x 23 16 < nv && bits x 31 24 = 0
  nv ≤ 64 && !bit h 7 && nt ≤ 124 && bits h 31 15 = 0 && bits (nth 0 ws 1).toNat 31 23 = 0 && nth 0 ws 2 = 0 && nth 0 ws 3 = 0
    && (List.range nt).all tri

/-- A scratchpad record read at issue at a uniform offset, with the checks of R107 but for range locks (R329 step 5). -/
def Env.loadRecord (v : Env) (s : State) (off n : Nat) (f : State → List Byte → Eff) : Eff :=
  match v.busy false with
  | some p => .park s p
  | none =>
    checked (v.check s { space := 1, n := n, align := 16, write := false, locks := false } (v.lanes.map (fun l => ⟨l, off⟩)))
      (fun s bytes => match bytes with
        | [] => f s (List.replicate n 0)
        | b :: _ =>
          match b.2.mapM (s.readOwn v.g) with
          | some bs => f s bs
          | none => .park s .ownAtomic)

/-- vamp (R329 to R331). -/
def execGxVamp (w : TwoWord) (s : State) : Out :=
  runWord (.gxVamp w) noIll (fun v s => withSet v s (fun st => st = .opened) (fun x =>
    let t := (v.uni w.b).toNat
    let c := bits t 6 0
    let b := bits t 14 8
    let mesh := (v.uni w.a).toNat
    if bit t 7 || bits t 31 15 ≠ 0 || !x.views.any (fun r => 32 * c < r.rw && 32 * b < r.rh) then .trap s (v.whole .prot)
    else withViewHandle v s (fun base size =>
      v.loadRecord s mesh 1536 (fun s bs =>
        let need := 8192 * x.views.length
        if !meshOk bs || size < need then .trap s (v.whole .prot)
        else v.queueView s true [(.sp, mesh, mesh + 1536, false), (.sp, base, base + need, true)] (.vamp c b mesh base))))) s

/-- The grid record that vclose enters (R330). -/
def reconRecord (k v f addr : Nat) (r : ViewRec) : RecordWords :=
  [BitVec.ofNat 32 (r.dw / 32), BitVec.ofNat 32 (r.dh / 32 + 65536), BitVec.ofNat 32 r.rkdesc,
   BitVec.ofNat 32 (r.rkdesc % 2 ^ 52 / 2 ^ 32), 0, 0, 0, 0, 0, 0, BitVec.ofNat 32 addr, BitVec.ofNat 32 (addr / 2 ^ 32),
   BitVec.ofNat 32 (k + 256 * v), BitVec.ofNat 32 f, 0, 0]

/-- The group's own vamp operations of a set are still queued. -/
def State.vampsOf (s : State) (core g k : Nat) : Bool :=
  (s.cluster (clusterOfCore core)).viewq.any (fun o => o.group = g && o.set = k && (match o.work with
    | .vamp .. => true
    | _ => false))

/-- vclose (R330). -/
def execGxVclose (w : TwoWord) (s : State) : Out :=
  runWord (.gxVclose w) noIll (fun v s => withSet v s (fun st => st = .opened) (fun x =>
    let n := (v.uni w.a).toNat
    let k := v.setNo
    withView v s x n (fun r =>
      match x.cur with
      | none => .trap s (v.whole .prot)
      | some f =>
        if !(f.view n).isOpen then .trap s (v.whole .prot)
        else if s.vampsOf v.x.core v.g k then .park s (.vamps k)
        else if r.rkdesc ≠ 0 && !v.x.drained then .park s .drain
        else if r.rkdesc ≠ 0 && !s.room v.c 0 then .done (s.setPred v false)
        else
          let s := s.latchAll k n f.num s.sched.time
          let x := (s.vset k).modFrame f.num (fun f => f.modView n (fun y => { y with isOpen := false }))
          let done : Bool := match x.cur with
            | some f => f.views.all (fun y => !y.isOpen)
            | none => true
          let s := s.setVset k { x with st := if done then .closed else .opened }
          let s := if r.rkdesc = 0 then s else s.enterRecord v.c (reconRecord k n x.f x.addr r)
          .done (s.setPred v true)))) s

/-- vtile (R330): each lane reads one sample of a raster tile. -/
def execGxVtile (w : TwoWord) (s : State) : Out :=
  runWord (.gxVtile w) noIll (fun v s =>
    let t := (v.uni w.a).toNat
    let q0 := bits t 7 0
    let i := bits t 11 8
    let c := bits t 18 12
    let b := bits t 25 19
    let q (l : Nat) : Nat := q0 + l / 4
    let px (l : Nat) : Nat := 2 * (q l % 16) + l % 2
    let py (l : Nat) : Nat := 2 * (q l / 16) + l % 4 / 2
    if bits t 31 26 ≠ 0 then .trap s (v.whole .prot)
    else withViewHandle v s (fun base size =>
      let real := v.lanes.filter (fun l => q l ≤ 255)
      let at_ (l : Nat) : Nat := base + 8192 * i + 8 * (32 * py l + px l)
      match v.busy false with
      | some p => .park s p
      | none =>
        match real.filter (fun l => base + size < at_ l + 8) with
        | l :: ls => .trap s (laneTrap .prot ((l :: ls).map (fun l => ⟨l, at_ l⟩)))
        | [] =>
          checked (v.check s { space := 1, n := 8, align := 4, write := false } (real.map (fun l => ⟨l, at_ l⟩))) (fun s bytes =>
            let one (e : Nat × List Loc) : Option (List (Reg × Nat × Word)) :=
              (e.2.mapM (s.readOwn v.g)).map (fun bs =>
                [(.v v.d, e.1, BitVec.ofNat 32 (32 * c + px e.1 + 65536 * (32 * b + py e.1))),
                 (.v (v.d + 1), e.1, BitVec.ofNat 32 (ofBytes (bs.take 4))), (.v (v.d + 2), e.1, BitVec.ofNat 32 (ofBytes (bs.drop 4)))])
            match bytes.mapM one with
            | none => .park s .ownAtomic
            | some vals =>
              let empty := (v.lanes.filter (fun l => q l > 255)).map (fun l =>
                [(Reg.v v.d, l, (0xFFFFFFFF : Word)), (.v (v.d + 1), l, 0x7F800000), (.v (v.d + 2), l, 0)])
              let (id, s) := s.fresh
              let p : Pend := { id := id, regs := regRun .v v.d 3, vals := (vals ++ empty).flatten, flag := v.flag, pc := v.cl.own
                                lanes := v.act, addr := at_ (real.headD 0), kind := .load }
              .done (s.modGroup v.g (fun x =>
                let x := x.mapLanes v.act (fun l y => { y with vbind := if q l ≤ 255 then some (at_ l + 4) else none })
                (x.modIo (fun io => { io with pend := io.pend ++ [p] })).count v.flag))))) s

/-- vcov (R313, R330). -/
def execGxVcov (w : TwoWord) (s : State) : Out :=
  runWord (.gxVcov w) noIll (fun v s => withSet v s VsSt.live (fun x =>
    let n := (v.uni w.b).toNat
    let k := v.setNo
    withView v s x n (fun r =>
      let at_ (l : Nat) : Nat × Nat :=
        let a := (v.read w.a .b32 l).toNat
        (a % 65536, a / 65536)
      let inside := v.lanes.filter (fun l => (at_ l).1 < r.rw && (at_ l).2 < r.rh)
      let s := inside.foldl (fun s l => s.latch k n x.f ((at_ l).2 / 16)) s
      match (s.vset k).frame x.f with
      | none => .trap s (v.whole .prot)
      | some f =>
        let y := f.view n
        let val (l : Nat) : Word × Word :=
          let p := at_ l
          if p.1 < r.rw && p.2 < r.rh then (r.hw.smp r.rw (y.hbrk (p.2 / 16)) p.1, neg32 (r.vw.smp r.rh y.vbrk p.2))
          else (nan32, nan32)
        .done ((v.rewrote s).modGroup v.g (fun x => x.modRegs (fun r => v.lanes.foldl (fun r l =>
          (r.setV v.d l (val l).1).setV (v.d + 1) l (val l).2) r)))))) s

/-- A display word's column, row and frame field; none where it breaks R328 or lies outside the view (R329). -/
def displayWord (r : ViewRec) (t : Nat) : Option (Nat × Nat × Nat) :=
  let c := bits t 6 0
  let j := bits t 14 8
  if bit t 7 || bit t 15 || r.dw / 32 ≤ c || r.dh / 32 ≤ j then none else some (c, j, bits t 31 16)

/-- The frame that a 16-bit frame field names: F, or F - 1 where it was opened (R317, R318). -/
def ViewSet.named (x : ViewSet) (f : Nat) : Option Nat :=
  let has (o : Option Frame) : Option Nat := match o with
    | some y => if y.num % 65536 = f then some y.num else none
    | none => none
  (has x.cur).orElse (fun _ => has x.prev)

/-- The checks that vrec, lensmap and present share: set, view, display word, handle, and the handle's room. -/
def withDisplay (w : TwoWord) (v : Env) (s : State) (bytes : Nat)
    (f : ViewSet → ViewRec → Nat × Nat × Nat → Nat → Eff) : Eff :=
  withSet v s VsSt.live (fun x => withView v s x (v.uni w.a).toNat (fun r =>
    match displayWord r (v.uni w.b).toNat with
    | none => .trap s (v.whole .prot)
    | some p => f x r p bytes))

/-- vrec (R329 to R331). -/
def execGxVrec (w : TwoWord) (s : State) : Out :=
  runWord (.gxVrec w) noIll (fun v s => withDisplay w v s 8192 (fun x _ p n =>
    match x.named p.2.2 with
    | none => .trap s (v.whole .prot)
    | some f => withViewHandle v s (fun base size =>
      if size < n then .trap s (v.whole .prot)
      else v.queueView s true [(.sp, base, base + n, true)] (.vrec (v.uni w.a).toNat p.1 p.2.1 f base)))) s

/-- present (R329 to R331). -/
def execGxPresent (w : TwoWord) (s : State) : Out :=
  runWord (.gxPresent w) noIll (fun v s => withDisplay w v s 4096 (fun x _ p n =>
    match x.named p.2.2 with
    | none => .trap s (v.whole .prot)
    | some f => withViewHandle v s (fun base size =>
      if size < n then .trap s (v.whole .prot)
      else v.queueView s true [(.sp, base, base + n, false)] (.present (v.uni w.a).toNat p.1 p.2.1 f base [])))) s

/-- The weighted sum of four grid entries, rounded once (R332). -/
def lensSum (u w : Nat) (g : Nat → Nat → Word) : Word :=
  let a := 2 * (u % 8) + 1
  let b := 2 * (w % 8) + 1
  let part (i j : Nat) : Val :=
    (mulVal (.fin false ((if i = 0 then 16 - a else a) * (if j = 0 then 16 - b else b)) (-8)) (decodeRaw .f32 (g i j).toNat)).1
  let sum := [part 0 0, part 1 0, part 0 1, part 1 1].foldl (fun x y => (addVal .rne x y).1) (.zero false)
  BitVec.ofNat 32 (roundTo .f32 {} .rne sum).1

/-- The two pixels of an axis and the fraction between them, clamped to the image (R332). -/
def lensTaps (x : Word) (size : Nat) : Nat × Nat × Nat :=
  let clampI (i : Int) : Nat := if i < 0 then 0 else min i.toNat (size - 1)
  match decodeRaw .f32 x.toNat with
  | .fin .. =>
    let a := Q.sub (Q.f32 x) (Q.frac 1 2)
    let i := Q.floor a
    (clampI i, clampI (i + 1), (Q.floor (Q.mul (Q.sub a (Q.int i)) (Q.int 256))).toNat)
  | .inf true => (0, 0, 0)
  | _ => (size - 1, size - 1, 0)

/-- The source of a display pixel: its taps on both axes; none where a component is a NaN (R332). -/
def lensSource (r : ViewRec) (u w : Nat) (g : Nat → Nat → Word × Word) : Option ((Nat × Nat × Nat) × (Nat × Nat × Nat)) :=
  let sx := lensSum u w (fun i j => (g (u / 8 + i) (w / 8 + j)).1)
  let sy := lensSum u w (fun i j => (g (u / 8 + i) (w / 8 + j)).2)
  if isNan32 sx || isNan32 sy then none else some (lensTaps sx r.dw, lensTaps sy r.dh)

/-- The address of a grid entry of a view's lens (R332). -/
def ViewRec.gridAddr (r : ViewRec) (gx gy : Nat) : Nat := addOff r.lens (8 * (gy * (r.dw / 8 + 1) + gx) : Nat)

/-- The 25 grid entries that display tile (c, j) uses. -/
def gridOf (c j : Nat) : List (Nat × Nat) :=
  ((List.range 5).map (fun y => (List.range 5).map (fun x => (4 * c + x, 4 * j + y)))).flatten

/-- The pre-lens rows that a lensmap of tile (c, j) reads, first and last, as the grid stands; every row where the grid
cannot be read at issue (log 41). -/
def State.lensRows (s : State) (v : Env) (r : ViewRec) (c j : Nat) : Nat × Nat :=
  if r.lens = 0 then (32 * j, 32 * j + 31)
  else
    let peek (a : Nat) : Option Word :=
      if moduleOf a ≠ 0 then none
      else match s.cached v.site v.c a with
        | some l => some (BitVec.ofNat 32 (ofBytes (s.readPaN (l.pa a) (pteKey l.pte) 4)))
        | none => match s.walk v.die v.c a with
          | .leaf l => some (BitVec.ofNat 32 (ofBytes (s.readPaN (l.pa a) (pteKey l.pte) 4)))
          | .fault _ _ _ _ | .link => none
    let ents := (gridOf c j).map (fun g => (g, peek (r.gridAddr g.1 g.2), peek (r.gridAddr g.1 g.2 + 4)))
    if ents.any (fun e => e.2.1.isNone || e.2.2.isNone) then (0, r.dh - 1)
    else
      let g (gx gy : Nat) : Word × Word := match ents.find? (fun e => e.1 = (gx, gy)) with
        | some e => (e.2.1.getD 0, e.2.2.getD 0)
        | none => (0, 0)
      let rows := ((List.range 1024).map (fun i => match lensSource r (32 * c + i % 32) (32 * j + i / 32) g with
        | some p => [p.2.1, p.2.2.1]
        | none => [])).flatten
      match rows with
      | [] => (0, 0)
      | y :: ys => (ys.foldl min y, ys.foldl max y)

/-- lensmap (R329 to R332). -/
def execGxLensmap (w : TwoWord) (s : State) : Out :=
  runWord (.gxLensmap w) noIll (fun v s => withDisplay w v s 4096 (fun _ r p n =>
    if p.2.2 ≠ 0 then .trap s (v.whole .prot)
    else withViewHandle v s (fun base size =>
      if size < n then .trap s (v.whole .prot)
      else
        let (lo, hi) := s.lensRows v r p.1 p.2.1
        let first := addOff r.prelens (lo * r.pitch : Nat)
        v.queueView s true [(.glob, first, first + (hi - lo) * r.pitch + 4 * r.dw, false), (.sp, base, base + n, true)]
          (.lensmap (v.uni w.a).toNat p.1 p.2.1 base)))) s

end Sys2Proof.Machine
end

