-- ==== Sys2Proof/Machine/Register.lean ====
section
/-!
DEFINITION. The allocation of vector registers (11_register R221 to R224).
-/
namespace Sys2Proof.Machine

/-- The encoding at the word where a group's clause issue stands. -/
def Group.ownEnc (x : Group) : Option Enc :=
  match x.flow.clause with
  | none => none
  | some c => readEnc (c.words.drop (c.pos - 1))

/-- The register blocks of a core as its resident groups hold them (09_kernel R183). -/
def State.blocksOf (s : State) (core : Nat) : Tab (Nat × Nat) :=
  blockTable ((s.groups.filter (fun g => g.2.on && g.2.core = core)).map (fun g => g.2.cells)).flatten

/-- Free capacity of a core at a width (09_kernel R183). -/
def State.freeCap (s : State) (core w : Nat) : Nat := freeGranules (s.blocksOf core) w

/-- A group takes n granules; the new registers read 0 (R223). -/
def State.growBy (s : State) (g n : Nat) : State :=
  s.modGroup g (fun x =>
    { x with grans := x.grans ++ takeGranules (s.blocksOf x.core) x.w n, alloc := x.alloc + 8 * n })

/-- q[QD] of the lanes that issue, as the word at which the group stands names it. -/
def Group.answerOwn (x : Group) (ok : Bool) : Group :=
  match x.flow.clause, x.ownEnc with
  | some c, some e => x.modRegs (fun r => r.setQ (e.t.d.toNat % 8) c.lanes (if ok then c.lanes else 0))
  | _, _ => x

/-- A request of the core's waiting vgrows fits the free capacity (R224). -/
def State.growFits (s : State) (core : Nat) (r : Nat × Nat) : Bool :=
  match s.group r.1 with
  | some x => r.2 ≤ s.freeCap core x.w
  | none => false

/-- A group leaves the core's waiting vgrows. -/
def State.leaveGrow (s : State) (core g : Nat) : State :=
  s.modCore core (fun c => { c with vgrowq := c.vgrowq.filter (fun r => r.1 ≠ g) })

/-- vgrow (R223, R224). -/
def execSyVgrow (w : TwoWord) (s : State) : Out :=
  runWord (.syVgrow w) noIll (fun v s =>
    let n := (v.uni w.a).toNat
    let core := v.x.core
    if n = 0 then .done (s.setPred v true)
    else if v.x.alloc / 8 + n > 16 then .done (s.setPred v false)
    else if n ≤ s.freeCap core v.x.w && !((s.core core).vgrowq.any (s.growFits core)) then
      .done ((s.growBy v.g n).setPred v true)
    else .park (s.modCore core (fun c => { c with vgrowq := c.vgrowq ++ [(v.g, n)] })) (.vgrow n)) s

/-- VGROW_GRANT (R224): the oldest waiting request that fits is granted. -/
def execEvVgrowGrant (group : Nat) (s : State) : Out :=
  event (match s.group group with
    | none => none
    | some x =>
      match (s.core x.core).vgrowq.find? (s.growFits x.core) with
      | none => none
      | some r =>
        if r.1 ≠ group then none
        else
          let s := (s.leaveGrow x.core group).growBy group r.2
          some (s.modGroup group (fun x => (x.answerOwn true).advanceParked)))

/-- VGROW_DEADLOCK_FAIL (R224): every resident group of the core is parked in vgrow and no request fits: the youngest
fails. -/
def execEvVgrowDeadlockFail (group : Nat) (s : State) : Out :=
  event (match s.group group with
    | none => none
    | some x =>
      let q := (s.core x.core).vgrowq
      let all := (s.groups.filter (fun g => g.2.on && g.2.core = x.core)).all (fun g => q.any (fun r => r.1 = g.1))
      if !all || q.any (s.growFits x.core) || q.getLast?.map (·.1) ≠ some group then none
      else some ((s.leaveGrow x.core group).modGroup group (fun x => (x.answerOwn false).advanceParked)))

/-- vshrink (R223). -/
def execSyVshrink (w : TwoWord) (s : State) : Out :=
  runWord (.syVshrink w) noIll (fun v s =>
    let n := (v.uni w.a).toNat
    let g := v.x.alloc / 8
    if n ≥ g then .done (s.setPred v false)
    else
      let first := 8 * (g - n)
      let busy := v.x.pendingOf (regRun .v first (8 * n))
      if busy ≠ [] then .park s (.reg busy)
      else
        let s := s.modGroup v.g (fun x =>
          { x with alloc := first, grans := x.grans.take (g - n)
                   regs := { x.regs with v := x.regs.v.filter (fun e => e.1 < 64 * first) } })
        .done (s.setPred v true)) s

/-- vquery (R223). -/
def execSyVquery (w : TwoWord) (s : State) : Out :=
  runWord (.syVquery w) noIll (fun v s =>
    let k := s.core v.x.core
    let r := putBits k.vgrowq.length 8 24 + putBits (v.x.alloc / 8) 5 16 + putBits (s.freeCap v.x.core v.x.w) 11 0
    v.set s (v.x.modRegs (fun g => g.setS v.d (BitVec.ofNat 32 r)))) s

/-- vzero (R223). -/
def execSyVzero (w : TwoWord) (s : State) : Out :=
  runWord (.syVzero w) noIll (fun v s =>
    let n := w.x.mod2.toNat + 1
    v.set (v.rewrote s) (v.x.modRegs (fun r =>
      v.lanes.foldl (fun r l => (List.range n).foldl (fun r j => r.setV (v.d + j) l 0) r) r))) s

end Sys2Proof.Machine
end

