-- ==== Sys2Proof/Machine/Barrier.lean ====
section
/-!
DEFINITION. The barriers (12_barrier R226 to R234). A group that waits is parked at its word, and the word is tried again
when the target is reached; an arrival already made is marked with the word, so that it is not made twice (R229).
-/
namespace Sys2Proof.Machine

/-- What a phase count belongs to: a team barrier, or one side of a role barrier (R226). -/
inductive Side where
  | team | full | empty
  deriving DecidableEq, Repr

/-- The number under which a park names an arrival on a side, or a wait of a team barrier. -/
def Side.code : Side → Nat
  | .team => 0 | .full => 2 | .empty => 3

/-- P, F or E of a team's barrier (R226). -/
def TeamBar.count (b : TeamBar) (sd : Side) (k : Nat) : Nat :=
  match sd with
  | .team => Tab.get 0 b.p k
  | .full => Tab.get 0 b.f k
  | .empty => Tab.get 1 b.e k

/-- The phase count of a side advances by one, modulo 2^32. -/
def TeamBar.bump (b : TeamBar) (sd : Side) (k : Nat) : TeamBar :=
  let n := (b.count sd k + 1) % 2 ^ 32
  match sd with
  | .team => { b with p := Tab.set 0 b.p k n }
  | .full => { b with f := Tab.set 0 b.f k n }
  | .empty => { b with e := Tab.set 1 b.e k n }

/-- A, AF or AE of a group (R226). -/
def GroupBar.arrival (b : GroupBar) (sd : Side) (k : Nat) : Nat :=
  match sd with
  | .team => Tab.get 0 b.arr k
  | .full => Tab.get 0 b.af k
  | .empty => Tab.get 1 b.ae k

/-- A group's arrival number advances by one, modulo 2^32. -/
def GroupBar.arrive (b : GroupBar) (sd : Side) (k : Nat) : GroupBar :=
  let n := (b.arrival sd k + 1) % 2 ^ 32
  match sd with
  | .team => { b with arr := Tab.set 0 b.arr k n }
  | .full => { b with af := Tab.set 0 b.af k n }
  | .empty => { b with ae := Tab.set 1 b.ae k n }

/-- A group of a team is a producer (09_kernel R179). -/
def Team.producer (t : Team) (x : Group) : Bool := x.gid < t.kern.prod

/-- The live set of a side: the team's groups that have not ended, by role (R227). -/
def State.liveSet (s : State) (tid : Nat) (t : Team) (sd : Side) : List (Nat × Group) :=
  s.groups.filter (fun g => g.2.team = tid && (match sd with
    | .team => true
    | .full => t.producer g.2
    | .empty => !t.producer g.2))

/-- A side is open: its live set is empty (R228). -/
def State.sideOpen (s : State) (tid : Nat) (t : Team) (sd : Side) : Bool := sd ≠ .team && s.liveSet tid t sd = []

/-- A group has arrived in the open phase of a side (R227). -/
def arrived (t : Team) (x : Group) (sd : Side) (k : Nat) : Bool :=
  x.bar.arrival sd k = (t.bar.count sd k + 1) % 2 ^ 32

/-- The phase completes where every live group has arrived (R227, R228). -/
def State.tryComplete (s : State) (tid : Nat) (sd : Side) (k : Nat) : State :=
  match s.team tid with
  | none => s
  | some t =>
    let live := s.liveSet tid t sd
    if live ≠ [] && live.all (fun g => arrived t g.2 sd k) then s.setTeam tid { t with bar := t.bar.bump sd k } else s

/-- A group has left its team: every phase that only it held open completes (R228). -/
def State.exitArrives (s : State) (tid : Nat) : State :=
  let s := (List.range 16).foldl (fun s k => s.tryComplete tid .team k) s
  (List.range 8).foldl (fun s k => (s.tryComplete tid .full k).tryComplete tid .empty k) s

/-- A group's barrier state changed. -/
def Group.modBar (x : Group) (f : GroupBar → GroupBar) : Group := { x with bar := f x.bar }

/-- A cluster barrier. -/
def Cluster.bar (c : Cluster) (k : Nat) : ClusterBar := Tab.get {} c.cb k

/-- A cluster barrier of a cluster replaced. -/
def State.setBar (s : State) (cl k : Nat) (b : ClusterBar) : State :=
  s.modCluster cl (fun c => { c with cb := Tab.set {} c.cb k b })

/-- The mark of an arrival on a cluster barrier: its phase count then, and its index; a team or role arrival is marked 0. -/
def clusterMark (p k : Nat) : Nat := 1 + 8 * p + k

/-- The mark of an arrival made at a word. -/
def Group.mark? (x : Group) (pc : Word) : Option Nat := (x.bar.arrived.find? (fun m => m.1 = pc)).map (·.2)

/-- The mark of a word taken away. -/
def Group.unmark (x : Group) (pc : Word) : Group :=
  x.modBar (fun b => { b with arrived := b.arrived.filter (fun m => m.1 ≠ pc) })

/-- A wait by its park's number is over (R232): 0 a team barrier, 1 a cluster barrier, 2 and 3 a second arrival on FULL
and EMPTY, 4 and 5 a wait on FULL and EMPTY. -/
def State.barrierMet (s : State) (g kind k : Nat) : Bool :=
  match s.group g with
  | none => true
  | some x =>
    match s.team x.team with
    | none => true
    | some t =>
      let free (sd : Side) (target : Nat) : Bool := s.sideOpen x.team t sd || reached (t.bar.count sd k) target
      match kind with
      | 0 => reached (t.bar.count .team k) (x.bar.arrival .team k)
      | 1 =>
        match x.flow.clause with
        | some c => x.mark? c.own ≠ some (clusterMark ((s.cluster (clusterOfCore x.core)).bar k).p k)
        | none => true
      | 2 => s.sideOpen x.team t .full || t.bar.count .full k = x.bar.arrival .full k
      | 3 => s.sideOpen x.team t .empty || t.bar.count .empty k = x.bar.arrival .empty k
      | 4 => free .full (Tab.get 0 x.bar.wf k + 1)
      | _ => free .empty (Tab.get 0 x.bar.we k + 1)

/-- A barrier instruction of a task group raises PRIV, as a role barrier of a kernel without producers does (R232). -/
def Env.barrierPriv (v : Env) (role : Bool) : Bool := v.team.taskq.isSome || (role && v.team.kern.prod = 0)

/-- The index in C. -/
def Env.barNo (v : Env) : Nat := bits v.e.t.x.c.toNat 3 0

/-- An arrival of the group on a side, then what follows; the windows that hold its rows close (R230 to R232). -/
def Env.arriveAt (v : Env) (s : State) (sd : Side) (f : State → Eff) : Eff :=
  let k := v.barNo
  let s := s.closeFor v.g
  if s.sideOpen v.x.team v.team sd then f s
  else
    match s.group v.g, s.team v.x.team with
    | some x, some t =>
      if arrived t x sd k then .park s (.barrier sd.code k)
      else if !x.drained then .park s .drain
      else f ((s.modGroup v.g (fun x => x.modBar (fun b => b.arrive sd k))).tryComplete v.x.team sd k)
    | _, _ => .done s

/-- A wait on a team barrier (R232). -/
def Env.waitTeam (v : Env) (s : State) (f : State → Eff) : Eff :=
  if s.barrierMet v.g 0 v.barNo then f s else .park s (.barrier 0 v.barNo)

/-- A wait on the role side that the group consumes (R232). -/
def Env.waitRole (v : Env) (s : State) (f : State → Eff) : Eff :=
  let k := v.barNo
  let kind : Nat := if v.team.producer v.x then 5 else 4
  if s.barrierMet v.g kind k then
    f (s.modGroup v.g (fun x => x.modBar (fun b =>
      if kind = 5 then { b with we := Tab.set 0 b.we k ((Tab.get 0 b.we k + 1) % 2 ^ 32) }
      else { b with wf := Tab.set 0 b.wf k ((Tab.get 0 b.wf k + 1) % 2 ^ 32) })))
  else .park s (.barrier kind k)

/-- An arrival that is made once, then a wait at the same word (R229). -/
def Env.arriveWait (v : Env) (s : State) (sd : Side) (wait : State → (State → Eff) → Eff) : Eff :=
  let pc := v.cl.own
  let ends (s : State) : Eff := .done (s.modGroup v.g (fun x => x.unmark pc))
  if (v.x.mark? pc).isSome then wait s ends
  else
    v.arriveAt s sd (fun s =>
      wait (s.modGroup v.g (fun x => x.modBar (fun b => { b with arrived := (pc, 0) :: b.arrived }))) ends)

/-- The side on which a group arrives: FULL for a producer, EMPTY for a consumer (R232). -/
def Env.roleSide (v : Env) : Side := if v.team.producer v.x then .full else .empty

/-- bsync of a team barrier (R232). -/
def execSyBsync (w : TwoWord) (s : State) : Out :=
  runWord (.syBsync w) noIll (fun v s =>
    if v.barrierPriv false then .trap s (v.whole .priv) else v.arriveWait s .team v.waitTeam) s

/-- bsync of a cluster barrier (R232). -/
def execSyBsyncCluster (w : TwoWord) (s : State) : Out :=
  runWord (.syBsyncCluster w) noIll (fun v s =>
    let pc := v.cl.own
    let k := v.barNo
    let cl := clusterOfCore v.x.core
    let b := (s.cluster cl).bar k
    let n := (v.uni w.a).toNat
    if v.barrierPriv false then .trap s (v.whole .priv)
    else
      match v.x.mark? pc with
      | some m =>
        if m = clusterMark b.p k then .park s (.barrier 1 k) else .done (s.modGroup v.g (fun x => x.unmark pc))
      | none =>
        let s := s.closeFor v.g
        if n = 0 ∨ n > 256 ∨ (b.n ≠ 0 ∧ n ≠ b.n) then .trap s (v.whole .prot)
        else if !v.x.drained then .park s .drain
        else
          let set := if b.s.contains v.g then b.s else b.s ++ [v.g]
          if set.length = n then .done (s.setBar cl k { p := (b.p + 1) % 2 ^ 32 })
          else
            let s := s.setBar cl k { b with n := n, s := set }
            .park (s.modGroup v.g (fun x => x.modBar (fun y => { y with arrived := (pc, clusterMark b.p k) :: y.arrived }))) (.barrier 1 k)) s

/-- barrive (R232). -/
def execSyBarrive (w : TwoWord) (s : State) : Out :=
  runWord (.syBarrive w) noIll (fun v s =>
    if v.barrierPriv false then .trap s (v.whole .priv) else v.arriveAt s .team .done) s

/-- bwait (R232). -/
def execSyBwait (w : TwoWord) (s : State) : Out :=
  runWord (.syBwait w) noIll (fun v s =>
    if v.barrierPriv false then .trap s (v.whole .priv) else v.waitTeam s .done) s

/-- rsync (R232). -/
def execSyRsync (w : TwoWord) (s : State) : Out :=
  runWord (.syRsync w) noIll (fun v s =>
    if v.barrierPriv true then .trap s (v.whole .priv) else v.arriveWait s v.roleSide v.waitRole) s

/-- rarrive (R232). -/
def execSyRarrive (w : TwoWord) (s : State) : Out :=
  runWord (.syRarrive w) noIll (fun v s =>
    if v.barrierPriv true then .trap s (v.whole .priv) else v.arriveAt s v.roleSide .done) s

/-- rwait (R232). -/
def execSyRwait (w : TwoWord) (s : State) : Out :=
  runWord (.syRwait w) noIll (fun v s =>
    if v.barrierPriv true then .trap s (v.whole .priv) else v.waitRole s .done) s

/-- The arrivals of a group on the cluster barriers of its cluster withdrawn: their marks go, and a mark of a phase that
has completed stays complete on any cluster (R233). -/
def State.withdrawArrivals (s : State) (g : Nat) : State :=
  match s.group g with
  | none => s
  | some x =>
    let cl := clusterOfCore x.core
    let inSet (k : Nat) : Bool := ((s.cluster cl).bar k).s.contains g
    let keep (m : Word × Nat) : Option (Word × Nat) :=
      if m.2 = 0 then some m
      else if inSet ((m.2 - 1) % 8) then none
      else some (m.1, clusterMark (2 ^ 32) ((m.2 - 1) % 8))
    let marks := x.bar.arrived.filterMap keep
    let one (s : State) (k : Nat) : State :=
      let b := (s.cluster cl).bar k
      if b.s.contains g then
        let set := b.s.filter (fun h => h ≠ g)
        s.setBar cl k { b with s := set, n := if set = [] then 0 else b.n }
      else s
    let s := (List.range 8).foldl one s
    s.modGroup g (fun x => x.modBar (fun b => { b with arrived := marks }))

end Sys2Proof.Machine
end

