-- ==== Sys2Proof/Machine/Message.lean ====
section
/-!
DEFINITION. Cluster messages (18_link R371 to R374).
-/
namespace Sys2Proof.Machine

/-- Flits that a cluster's receive queue can still take from a context: none while the cluster holds no group of it
(R371). -/
def State.msgRoom (s : State) (c cl : Nat) : Nat :=
  if s.onCluster c cl then 64 - (s.cluster cl).flits.length else 0

/-- Every cluster of a list has room. -/
def State.roomAll (s : State) (c : Nat) (cls : List Nat) : Bool := cls.all (fun k => 1 ≤ s.msgRoom c k)

/-- A flit placed in a cluster's queue. -/
def State.placeFlit (s : State) (cl : Nat) (f : List Word) : State :=
  s.modCluster cl (fun k => { k with flits := k.flits ++ [f] })

/-- A cluster lies in a context's partition (R372). -/
def Ctx.hasCluster (c : Ctx) (cl : Nat) : Bool := c.hasDie (cl / 80)

/-- The places of a send, once its release is performed (R374): a false predicate for .try without room, else a wait. -/
def Env.sendTo (v : Env) (s : State) (cls : List Nat) (f : List Word) : Eff :=
  if !v.x.drained then .park s .drain
  else if s.roomAll v.c cls then .done ((cls.foldl (fun s k => s.placeFlit k f) s).setPred v true)
  else if bit v.e.t.x.mod2.toNat 0 then .done (s.setPred v false)
  else .park s (.message cls)

/-- msend (R373, R374). -/
def execSyMsend (w : TwoWord) (s : State) : Out :=
  runWord (.syMsend w) noIll (fun v s =>
    let c := (v.uni w.a).toNat
    if !v.team.kern.msg then .trap s (v.whole .priv)
    else if !(s.ctx v.c).hasCluster c then .trap s (v.whole .prot)
    else v.sendTo s [c] (v.record w.b)) s

/-- mcast (R373, R374). -/
def execSyMcast (w : TwoWord) (s : State) : Out :=
  runWord (.syMcast w) noIll (fun v s =>
    let b := (v.uni w.a).toNat
    let m := v.pair w.x.c
    let cls := ((List.range 64).filter (fun i => bit m i)).map (fun i => b + i)
    if !v.team.kern.msg then .trap s (v.whole .priv)
    else if !cls.all ((s.ctx v.c).hasCluster) then .trap s (v.whole .mcast)
    else if cls = [] then .done (s.setPred v true)
    else v.sendTo s cls (v.record w.b)) s

/-- The group is the oldest that waits in mrecv on its cluster, or none waits (R374). -/
def Cluster.firstReceiver (c : Cluster) (g : Nat) : Bool :=
  match c.mrecvq with
  | [] => true
  | h :: _ => h = g

/-- A group leaves the mrecv waits of a cluster. -/
def State.leaveReceive (s : State) (cl g : Nat) : State :=
  s.modCluster cl (fun c => { c with mrecvq := c.mrecvq.filter (fun h => h ≠ g) })

/-- mrecv (R373, R374). -/
def execSyMrecv (w : TwoWord) (s : State) : Out :=
  runWord (.syMrecv w) noIll (fun v s =>
    let cl := clusterOfCore v.x.core
    let k := s.cluster cl
    if !v.team.kern.msg then .trap s (v.whole .priv)
    else
      match k.firstReceiver v.g, k.flits with
      | true, f :: rest =>
        let s := (s.modCluster cl (fun k => { k with flits := rest })).leaveReceive cl v.g
        .done (s.modGroup v.g (fun x => x.modRegs (fun r =>
          (List.range 16).foldl (fun r j => r.setS (v.d + j) (nth 0 f j)) r)))
      | _, _ =>
        let s := if k.mrecvq.contains v.g then s else s.modCluster cl (fun k => { k with mrecvq := k.mrecvq ++ [v.g] })
        .park s .receive) s

/-- mprobe (R373, R374). -/
def execSyMprobe (w : TwoWord) (s : State) : Out :=
  runWord (.syMprobe w) noIll (fun v s =>
    if !v.team.kern.msg then .trap s (v.whole .priv)
    else v.set s (v.x.modRegs (fun r =>
      r.setS v.d (BitVec.ofNat 32 (s.cluster (clusterOfCore v.x.core)).flits.length)))) s

end Sys2Proof.Machine
end

