-- ==== Sys2Proof/Machine/ViewUnit.lean ====
section
/-!
DEFINITION. The view unit performs its queue (16_view R325 to R332, R335; 17_ray R350): rasterisation, forward rows, lens
correction, presents and launches of primary rays.
-/
namespace Sys2Proof.Machine

/-- A point of a raster: x and t = -y, exact (16_view R313). -/
structure Pt where
  x : Rat2
  t : Rat2
  deriving DecidableEq, Repr

/-- A triangle of a view in (x, t), wound so that its area is positive (16_view R325). -/
structure Tri where
  a : Pt
  b : Pt
  c : Pt
  za : Rat2
  zb : Rat2
  zc : Rat2
  area : Rat2
  deriving DecidableEq, Repr

/-- A component of M × (x, y, z, w), with its one rounding (16_view R325). -/
def rowDot (m : List Word) (r : Nat) (v : List Word) : Word :=
  dot32 ((List.range 4).map (fun c => (nth 0 m (4 * r + c), nth 0 v c)))

/-- NDC x, y, z of a vertex for a view; none where it culls its triangle (16_view R325 steps 1 to 3). -/
def ndc (m : List Word) (v : List Word) : Option (Word × Word × Word) :=
  let p := v.take 3 ++ [0x3F800000]
  let c (r : Nat) : Word := rowDot m r p
  if !(finite32 (c 0) && finite32 (c 1) && finite32 (c 2) && finite32 (c 3)) then none
  else if Q.le (Q.f32 (c 3)) (Q.frac 1 (2 ^ 20)) then none
  else
    let q (r : Nat) : Word := div32 (c r) (c 3)
    if finite32 (q 0) && finite32 (q 1) && finite32 (q 2) then some (q 0, q 1, q 2) else none

/-- The edge function of a to b at p (16_view R326). -/
def edge (a b p : Pt) : Rat2 :=
  Q.sub (Q.mul (Q.sub b.x a.x) (Q.sub p.t a.t)) (Q.mul (Q.sub b.t a.t) (Q.sub p.x a.x))

/-- A top or left edge (16_view R326). -/
def topLeft (a b : Pt) : Bool := Q.lt b.t a.t || (Q.le a.t b.t && Q.le b.t a.t && Q.lt a.x b.x)

/-- A triangle of a view from its vertices; none where it is culled (16_view R325 step 4). -/
def triOf (m : List Word) (v0 v1 v2 : List Word) : Option Tri :=
  match ndc m v0, ndc m v1, ndc m v2 with
  | some a, some b, some c =>
    let pt (v : Word × Word × Word) : Pt := ⟨Q.f32 v.1, Q.f32 (neg32 v.2.1)⟩
    let area := Q.sub (Q.mul (Q.sub (pt b).x (pt a).x) (Q.sub (pt c).t (pt a).t))
      (Q.mul (Q.sub (pt c).x (pt a).x) (Q.sub (pt b).t (pt a).t))
    let z (v : Word × Word × Word) : Rat2 := Q.f32 v.2.2
    if area.n = 0 then none
    else if area.n < 0 then some ⟨pt a, pt c, pt b, z a, z c, z b, Q.neg area⟩
    else some ⟨pt a, pt b, pt c, z a, z b, z c, area⟩
  | _, _, _ => none

/-- The depth at a sample that a triangle covers and that counts; none elsewhere (16_view R326). -/
def Tri.cover (t : Tri) (p : Pt) : Option Word :=
  let e01 := edge t.a t.b p
  let e12 := edge t.b t.c p
  let e20 := edge t.c t.a p
  let ok (e : Rat2) (a b : Pt) : Bool := 0 < e.n || (e.n = 0 && topLeft a b)
  if ok e01 t.a t.b && ok e12 t.b t.c && ok e20 t.c t.a then
    let d := Q.f32Of (Q.div (Q.sum [Q.mul e12 t.za, Q.mul e20 t.zb, Q.mul e01 t.zc]) t.area)
    let d := if d = 0x80000000 then 0 else d
    if d.toNat ≤ 0x3F800000 then some d else none
  else none

/-- A sample of a raster tile takes a key where it is the smaller (16_view R326). -/
def State.sampleMin (s : State) (core at_ : Nat) (depth id : Word) : State :=
  let old := s.readSpNat core at_ 4 * 2 ^ 32 + s.readSpNat core (at_ + 4) 4
  if depth.toNat * 2 ^ 32 + id.toNat < old then
    s.writeSpRawN core at_ (toBytes 4 depth.toNat ++ toBytes 4 id.toNat)
  else s

/-- The triangles of a meshlet record in the scratchpad, as vertex triples, and MESHID (16_view R323). -/
def State.meshlet (s : State) (core at_ : Nat) : Nat × List (List Word × List Word × List Word) :=
  let ws := wordsOf (s.readSpN core at_ 1536)
  let vert (i : Nat) : List Word := (ws.drop (4 + 4 * i)).take 3
  let tri (t : Nat) : List Word × List Word × List Word :=
    let x := (nth 0 ws (0x104 + t)).toNat
    (vert (bits x 7 0), vert (bits x 15 8), vert (bits x 23 16))
  ((nth 0 ws 1).toNat % 2 ^ 23, (List.range (bits (nth 0 ws 0).toNat 14 8)).map tri)

/-- One view of a vamp: its strips are latched, then every triangle meets every sample of the tile (16_view R330). -/
def State.vampView (s : State) (o : ViewOp) (k v num c b mesh base : Nat) : State :=
  match (s.vset k).view? v, (s.vset k).frame num with
  | some r, some f =>
    if !(f.view v).isOpen || r.rw ≤ 32 * c || r.rh ≤ 32 * b then s
    else
      let s := (s.latch k v num (2 * b)).latch k v num (2 * b + 1)
      match (s.vset k).frame num with
      | none => s
      | some f =>
        let y := f.view v
        let (id, tris) := s.meshlet o.core mesh
        let at_ (x w : Nat) : Pt :=
          ⟨Q.f32 (r.hw.smp r.rw (y.hbrk ((32 * b + w) / 16)) (32 * c + x)), Q.f32 (r.vw.smp r.rh y.vbrk (32 * b + w))⟩
        let pts := ((List.range 32).map (fun w => (List.range 32).map (fun x => (x, w, at_ x w)))).flatten
        let one (s : State) (t : Nat) (tr : Tri) : State :=
          pts.foldl (fun s p => match tr.cover p.2.2 with
            | some d =>
              s.sampleMin o.core (base + 8192 * v + 8 * (32 * p.2.1 + p.1)) d
                (BitVec.ofNat 32 (0x80000000 + id * 128 + t))
            | none => s) s
        (tris.foldl (fun (q : State × Nat) t =>
          (match triOf r.m t.1 t.2.1 t.2.2 with
            | some tr => one q.1 q.2 tr
            | none => q.1, q.2 + 1)) (s, 0)).1
  | _, _ => s

/-- `n` bytes of free values (log 9). -/
def State.freeBytes (s : State) : Nat → State × List Byte
  | 0 => (s, [])
  | n + 1 =>
    let (x, s) := s.freeVal
    let (s, bs) := s.freeBytes n
    (s, BitVec.ofNat 8 x :: bs)

/-- The lines of scratchpad bytes that an engine wrote leave the stitch table (11_register R217). -/
def State.unstitchSp (s : State) (core off n : Nat) : State :=
  (List.range ((off + n - 1) / 128 + 1 - off / 128)).foldl (fun s i => s.unstitch core (off / 128 + i)) s

/-- vrec: X and Y of every pixel of a display tile (16_view R330). -/
def State.vrecTile (s : State) (o : ViewOp) (k v num c j base : Nat) : State :=
  match (s.vset k).view? v, (s.vset k).frame num with
  | some r, some f =>
    let y0 := f.view v
    let xn (u : Nat) : Word := Q.f32Of (Q.sub (Q.frac (2 * u + 1) r.dw) (Q.int 1))
    let tn (w : Nat) : Word := Q.f32Of (Q.sub (Q.frac (2 * w + 1) r.dh) (Q.int 1))
    (List.range 1024).foldl (fun s i =>
      let u := 32 * c + i % 32
      let w := 32 * j + i / 32
      let y := r.vw.fwd r.rh y0.vbrk (tn w)
      let strip := r.stripOf y
      let s := s.latch k v num strip
      let hb := match (s.vset k).frame num with
        | some f => (f.view v).hbrk strip
        | none => []
      s.writeSpRawN o.core (base + 8 * i) (toBytes 4 (r.hw.fwd r.rw hb (xn u)).toNat ++ toBytes 4 y.toNat)) s
  | _, _ =>
    -- the frame's state has been dropped since issue: no value is stated (log 9)
    let (s, bs) := s.freeBytes 8192
    s.writeSpRawN o.core base bs

/-- How a view operation's run ends. -/
inductive ViewEnd where
  | ok (s : State)
  | fault (s : State) (write : Bool) (va reason level entry entryAddr : Nat)
  | stop (s : State) (c : Cause) (va : Nat)
  deriving DecidableEq, Repr

/-- The state of an ended run changed. -/
def ViewEnd.mapSt (f : State → State) : ViewEnd → ViewEnd
  | .ok s => .ok (f s)
  | .fault s w va r lv e pa => .fault (f s) w va r lv e pa
  | .stop s c va => .stop (f s) c va

/-- Bytes that a view unit reads in memory, then what follows. -/
def State.viewRead (s : State) (die c addr n : Nat) (f : State → List Byte → ViewEnd) : ViewEnd :=
  match s.engBytes die c false false false addr n with
  | (s, .ok ls) =>
    let (s, bs) := s.engRead false ls
    f s bs
  | (s, .fault va r lv e pa) => .fault s false va r lv e pa
  | (s, .stop cs va) => .stop s cs va

/-- The 8-byte words at a list of addresses, by address, read in turn. -/
def State.viewReads (die c n : Nat) : List Nat → State → Tab (List Byte) → (State → Tab (List Byte) → ViewEnd) → ViewEnd
  | [], s, t, f => f s t
  | a :: as, s, t, f =>
    match Tab.find t a with
    | some _ => State.viewReads die c n as s t f
    | none => s.viewRead die c a n (fun s bs => State.viewReads die c n as s (Tab.ins t a bs) f)

/-- The filtered pixel of four taps (16_view R332). -/
def lensPixel (ex ey : Nat) (p00 p10 p01 p11 : List Byte) : List Byte :=
  (List.range 4).map (fun ch =>
    let g (p : List Byte) : Nat := (nth 0 p ch).toNat
    BitVec.ofNat 8 (((256 - ex) * (256 - ey) * g p00 + ex * (256 - ey) * g p10 + (256 - ex) * ey * g p01 + ex * ey * g p11
      + 32768) >>> 16))

/-- The address of a pre-lens pixel (16_view R330). -/
def ViewRec.pixAddr (r : ViewRec) (u w : Nat) : Nat := addOff r.prelens (w * r.pitch + 4 * u : Nat)

/-- One pixel of a lensmap, then what follows (16_view R330, R332). -/
def State.lensOne (s : State) (die : Nat) (o : ViewOp) (r : ViewRec) (u w : Nat) (f : State → List Byte → ViewEnd) : ViewEnd :=
  if r.lens = 0 then s.viewRead die o.ctx (r.pixAddr u w) 4 f
  else
    let corner (gx gy : Nat) : Nat := r.gridAddr gx gy
    let gx := u / 8
    let gy := w / 8
    State.viewReads die o.ctx 8 [corner gx gy, corner (gx + 1) gy, corner gx (gy + 1), corner (gx + 1) (gy + 1)] s [] (fun s grid =>
      let g (gx gy : Nat) : Word × Word :=
        let bs := Tab.get [] grid (corner gx gy)
        (BitVec.ofNat 32 (ofBytes (bs.take 4)), BitVec.ofNat 32 (ofBytes ((bs.drop 4).take 4)))
      match lensSource r u w g with
      | none => f s [0, 0, 0, 0]
      | some q =>
        let taps := [r.pixAddr q.1.1 q.2.1, r.pixAddr q.1.2.1 q.2.1, r.pixAddr q.1.1 q.2.2.1, r.pixAddr q.1.2.1 q.2.2.1]
        State.viewReads die o.ctx 4 taps s [] (fun s t =>
          let b (i : Nat) : List Byte := Tab.get [] t (nth 0 taps i)
          f s (lensPixel q.1.2.2 q.2.2.2 (b 0) (b 1) (b 2) (b 3))))

/-- Where an error of memory or a link stops a run: the element at which it does, and the cause (16_view R335). -/
abbrev Cut := Option (Nat × Cause)

/-- The cause that stops a run at an element. -/
def Cut.at (k : Cut) (i : Nat) : Option Cause :=
  match k with
  | some (n, c) => if n = i then some c else none
  | none => none

/-- lensmap: the pixels of a display tile in turn, each written before the next is read; a stop leaves those written
(16_view R330, R335). -/
def State.lensPixels (die : Nat) (o : ViewOp) (r : ViewRec) (c j base : Nat) (cut : Cut) : List Nat → State → ViewEnd
  | [], s => .ok s
  | i :: is, s =>
    let u := 32 * c + i % 32
    let w := 32 * j + i / 32
    match cut.at i with
    | some k => .stop s k (if r.lens = 0 then r.pixAddr u w else r.gridAddr (u / 8) (w / 8))
    | none => s.lensOne die o r u w (fun s bs =>
        State.lensPixels die o r c j base cut is (s.writeSpRawN o.core (base + 4 * i) bs))

/-- The record of a primary ray (17_ray R350). -/
def primaryRay (im : List Word) (root : Word) (mask : Nat) (x y : Word) (col row : Nat) : List Word :=
  let one : Word := 0x3F800000
  let n (r : Nat) : Word := rowDot im r [x, y, 0, one]
  let g (r : Nat) : Word := rowDot im r [x, y, one, one]
  let org (r : Nat) : Word := div32 (n r) (n 3)
  let far (r : Nat) : Word := div32 (g r) (g 3)
  let dir (r : Nat) : Word := sub32 (far r) (org r)
  let ok := (List.range 4).all (fun r => finite32 (n r) && finite32 (g r))
    && (List.range 3).all (fun r => finite32 (org r) && finite32 (far r) && finite32 (dir r))
  let od := if ok then [org 0, org 1, org 2, dir 0, dir 1, dir 2] else List.replicate 6 nan32
  od ++ [0, one, BitVec.ofNat 32 mask, 0, root, 0xFFFFFFFF, 0x7F800000, 0, BitVec.ofNat 32 (col + row * 65536), 0]

/-- The rays of a launch written from a list of raster columns and rows (17_ray R350). -/
def State.launchRays (die : Nat) (o : ViewOp) (r : ViewRec) (y : FView) (im : List Word) (root : Word)
    (strip mask pool first : Nat) (cut : Cut) : List (Nat × Nat) → State → ViewEnd
  | [], s => .ok s
  | (col, row) :: rest, s =>
    let k := (row - 16 * strip) * r.rw + col
    let i := first + k
    match cut.at k, s.engBytes die o.ctx false true false (addOff pool (64 * i : Nat)) 64 with
    | some c, _ => .stop s c (addOff pool (64 * i : Nat))
    | none, (s, .fault va rs lv e pa) => .fault s true va rs lv e pa
    | none, (s, .stop c va) => .stop s c va
    | none, (s, .ok ls) =>
      let ws := primaryRay im root mask (r.hw.smp r.rw (y.hbrk strip) col) (neg32 (r.vw.smp r.rh y.vbrk row)) col row
      let s := s.engWrite false ls ((ws.map (fun w => toBytes 4 w.toNat)).flatten)
      State.launchRays die o r y im root strip mask pool first cut rest s

/-- rlaunch: the strip is latched and its rays are written (17_ray R350). -/
def State.launchStrip (s : State) (die : Nat) (o : ViewOp) (v strip mask num camera pool first : Nat) (cut : Cut) : ViewEnd :=
  let s := s.latch o.set v num strip
  match (s.vset o.set).view? v with
  | none => .ok s
  | some r =>
    -- where the frame's state has been dropped since issue, no breakpoints are stated (log 9)
    let (s, y) : State × FView := match (s.vset o.set).frame num with
      | some f => (s, f.view v)
      | none =>
        let (s, bs) := s.freeBytes 40
        (s, { vbrk := (wordsOf bs).take 5, strips := [(strip, some ((wordsOf bs).drop 5, 0))] })
    let im := wordsOf (s.readSpN o.core camera 64)
    let root := s.readSpWord o.core (camera + 64)
    let cells := ((List.range 16).map (fun i => (List.range r.rw).map (fun c => (c, 16 * strip + i)))).flatten
    State.launchRays die o r y im root strip mask pool first cut cells s

/-- How many elements a view operation has at which an error can stop it: views of a vamp, pixels of a lensmap, rays of a launch
(16_view R335; log 75). -/
def State.viewElems (s : State) (o : ViewOp) : Nat :=
  match o.work with
  | .vamp .. => (s.vset o.set).views.length
  | .lensmap .. => 1024
  | .rlaunch v .. => match (s.vset o.set).view? v with
    | some r => 16 * r.rw
    | none => 1
  | .vrec .. | .present .. => 1

/-- The operation at the head of a view unit performed, up to the element at which an error stops it. -/
def State.runView (s : State) (cl : Nat) (o : ViewOp) (cut : Cut) : ViewEnd :=
  let die := cl / 80
  match o.work with
  | .vamp c b mesh base =>
    let x := s.vset o.set
    let num := x.f
    let n := match cut with
      | some (n, _) => min n x.views.length
      | none => x.views.length
    let s := ((List.range n).foldl (fun s v => s.vampView o o.set v num c b mesh base) s).unstitchSp o.core base (8192 * n)
    match cut with
    | some (_, k) => .stop s k 0
    | none => .ok s
  | .vrec v c j num base =>
    match cut with
    | some (_, k) => .stop s k 0
    | none => .ok ((s.vrecTile o o.set v num c j base).unstitchSp o.core base 8192)
  | .lensmap v c j base =>
    match (s.vset o.set).view? v with
    | none => .ok s
    | some r =>
      (State.lensPixels die o r c j base cut (List.range 1024) s).mapSt (fun s => s.unstitchSp o.core base 4096)
  | .present v c j num base _ =>
    match (s.vset o.set).view? v with
    | none => .ok s
    | some r =>
      match cut, s.engBytes die o.ctx false true false (r.slotAddr num c j) 4096 with
      | some (_, k), _ => .stop s k (r.slotAddr num c j)
      | none, (s, .ok ls) =>
        let cells := ls.zip (s.readSpN o.core base 4096)
        let o' := { o with work := .present v c j num base cells, via := s.engVia die o.ctx (r.slotAddr num c j) 4096 }
        .ok (s.modCluster cl (fun k => { k with viewq := k.viewq.map (fun q => if q.uid = o.uid then o' else q) }))
      | none, (s, .fault va rs lv e pa) => .fault s true va rs lv e pa
      | none, (s, .stop cs va) => .stop s cs va
  | .rlaunch v strip mask num camera pool first => s.launchStrip die o v strip mask num camera pool first cut

/-- A view operation changed in its queue. -/
def State.modViewOp (s : State) (cl uid : Nat) (f : ViewOp → ViewOp) : State :=
  s.modCluster cl (fun k => { k with viewq := k.viewq.map (fun q => if q.uid = uid then f q else q) })

/-- A view operation leaves its queue: its ranges and its flag are released (16_view R329, R335). -/
def State.endView (s : State) (cl : Nat) (o : ViewOp) : State :=
  let s := s.modCluster cl (fun k => { k with viewq := k.viewq.filter (fun q => q.uid ≠ o.uid) })
  ((s.unlock o.core o.uid).leaveSlots (fun p => p = .view o.uid)).endOp o.group o.uid []

/-- A view operation stops with a cause: it completes, and the cause is pending in the issuing group (16_view R335). -/
def State.stopView (s : State) (cl : Nat) (o : ViewOp) (c : Cause) (va info : Nat) : State :=
  (s.addLate o.group { trap := { cause := c, tmask := o.lanes, addr := va, info := info }, regs := [], handle := o.hnum }).endView
    cl o

/-- Where a run is cut: an error stops it at an element that nothing names, a free one (16_view R335; log 75). -/
def State.cutOf (s : State) (o : ViewOp) (res : IoEnd) : State × Cut :=
  let (n, s') := s.freeVal
  let k := n % max 1 (s.viewElems o)
  match res with
  | .ok | .fixed _ => (s, none)
  | .memerr => (s', some (k, .memerr))
  | .link => (s', some (k, .link))

/-- A view operation reaches memory outside the scratchpads. -/
def ViewOp.global (o : ViewOp) : Bool :=
  match o.work with
  | .vamp .. | .vrec .. => false
  | .lensmap .. | .present .. | .rlaunch .. => true

/-- A present is placed: written and tagged before E_j of its row, else LATE counts (16_view R317). -/
def State.placePresent (s : State) (o : ViewOp) (v c j num : Nat) (cells : List (Loc × Byte)) : State :=
  let x := s.vset o.set
  match x.view? v with
  | none => s
  | some r =>
    let onTime : Bool := match x.frame num with
      | none => false
      | some f => if j < (f.view v).emitted then false else match x.emitTime v r num j with
        | none => true
        | some t => s.sched.time < t
    if onTime then
      let s := s.engWrite false (cells.map (·.1)) (cells.map (·.2))
      let key := tileKey r v c j
      s.setVset o.set { x with tags := Tab.set 0 x.tags (2 * key + num % 2) (num + 1), last := Tab.set 0 x.last key (num % 2 + 1) }
    else (s.setVset o.set { x with late := Tab.set 0 x.late v (Tab.get 0 x.late v + 1) }).interrupt 8

/-- VIEW_OP_COMPLETE (16_view R317, R329): a performed operation completes; a present is placed. -/
def execEvViewOpComplete (cluster : Nat) (s : State) : Out :=
  event (match (s.cluster cluster).viewq with
    | [] => none
    | o :: _ =>
      if !o.ran then none
      else
        let s := match o.work with
          | .present v c j num _ cells => s.placePresent o v c j num cells
          | _ => s
        some (s.endView cluster o))

end Sys2Proof.Machine
end

