-- ==== Sys2Proof/Machine/Ray.lean ====
section
/-!
DEFINITION. The ray instructions (17_ray R339 to R353), and LOAD_RETURN (05_memory R106), which ends their reads as it
ends every load.
-/
namespace Sys2Proof.Machine

/-- An exact quantity that may be infinite, or that no rule gives (log 42). -/
inductive Ext where
  | q (r : Rat2)
  | inf (neg : Bool)
  | undef
  deriving DecidableEq, Repr

namespace Ext

/-- The quantity of a binary32 pattern. -/
def f32 (x : Word) : Ext :=
  match decodeRaw .f32 x.toNat with
  | .fin n m e => .q (Q.ofVal (.fin n m e))
  | .inf n => .inf n
  | _ => .undef

def sub : Ext → Ext → Ext
  | .q a, .q b => .q (Q.sub a b)
  | .inf n, .q _ => .inf n
  | .q _, .inf n => .inf (!n)
  | .inf n, .inf m => if n = m then .undef else .inf n
  | _, _ => .undef

/-- A quotient by a quantity other than 0. -/
def div : Ext → Ext → Ext
  | .q a, .q b => .q (Q.div a b)
  | .q _, .inf _ => .q (Q.int 0)
  | .inf n, .q b => .inf (n != (b.n < 0))
  | _, _ => .undef

/-- a ≤ b, where both are known. -/
def le : Ext → Ext → Option Bool
  | .q a, .q b => some (Q.le a b)
  | .undef, _ | _, .undef => none
  | .inf n, .inf m => some (n || !m)
  | .inf n, .q _ => some n
  | .q _, .inf m => some (!m)

def max (a b : Ext) : Ext :=
  match le a b with
  | some true => b
  | some false => a
  | none => .undef

def min (a b : Ext) : Ext :=
  match le a b with
  | some true => a
  | some false => b
  | none => .undef

/-- RoundTo(x, .f32, RD) under flush modes; none where no rule gives x. -/
def roundDown (fm : FMode) : Ext → Option Word
  | .q a => some (BitVec.ofNat 32 (Q.roundIn .f32 fm .rd a).1)
  | .inf n => some (if n then 0xFF800000 else 0x7F800000)
  | .undef => none

end Ext

/-- PoolAddr(i) (R339). -/
def Group.poolAddr (x : Group) (i : Nat) : Nat := addOff x.ctl.rpbase (64 * i : Nat)

/-- The address of a reference (R339). -/
def Group.nodeAddr (x : Group) (r : Word) : Nat := addOff x.ctl.bvhbase (16 * (r.toNat % 2 ^ 30) : Nat)

/-- The registers of the group's ray reads in flight: a ray instruction waits for them, since they write its lanes' slots
(R345). -/
def Group.rayPending (x : Group) : List Reg :=
  (x.io.pend.map (fun p => match p.kind with
    | .ray .. => p.regs
    | _ => [])).flatten

/-- A lane's ray slot changed. -/
def Group.modRay (x : Group) (l : Nat) (f : RaySlot → RaySlot) : Group :=
  x.mapLanes (Mask.single l) (fun _ y => { y with ray := f y.ray })

/-- A ray instruction's turn: it waits while a ray read of the group is in flight. -/
def withRay (v : Env) (s : State) (f : Eff) : Eff :=
  match v.x.rayPending with
  | [] => f
  | r :: rs => .park s (.reg (r :: rs))

/-- PROT of the lanes of Active that meet a condition of the ray, else what follows. -/
def rayProt (v : Env) (s : State) (bad : Nat → Bool) (addr : Nat → Nat) (f : Eff) : Eff :=
  match v.lanes.filter bad with
  | [] => f
  | l :: ls => .trap s (laneTrap .prot ((l :: ls).map (fun l => ⟨l, addr l⟩)))

/-- A ray instruction's read of n bytes a lane: the checks of R107, then the words, or the wait for another module's
(R346 to R348, R353). -/
def Env.rayRead (v : Env) (s : State) (n align : Nat) (regs : List Reg) (addr : Nat → Nat) (work : RayWork) : Eff :=
  let as := v.lanes.map (fun l => (⟨l, addr l⟩ : LaneAcc))
  if as = [] then .done s
  else
    match v.busy false with
    | some p => .park s p
    | none =>
      checked (v.check s { space := 0, n := n, align := align, write := false } as) (fun s bytes =>
        let far := bytes.any (fun b => b.2.any Loc.isFar)
        let one (b : Nat × List Loc) : Option (Option (List Word)) :=
          if b.2.any Loc.isFar then some none else (b.2.mapM (s.readOwn v.g)).map (fun bs => some (wordsOf bs))
        if far && v.x.io.sq.any (fun e => e.far) then .park s .ownAtomic
        else if bytes.any (fun b => !b.2.any Loc.isFar) && v.x.io.pend.any Pend.isFar then .park s .earlierLoad
        else
          match bytes.mapM one with
          | none => .park s .ownAtomic
          | some words =>
            let (id, s) := s.fresh
            let ls := (bytes.map (·.2)).flatten
            let p : Pend :=
              { id := id, regs := regs, flag := v.flag, pc := v.cl.own, lanes := v.act, addr := addr (v.lanes.headD 0)
                kind := .ray work words, homes := homesOf ls }
            .done ((s.sendLoads false ls).modGroup v.g (fun x =>
              (x.modIo (fun io => { io with pend := io.pend ++ [p] })).count v.flag)))

/-- rload (R346). -/
def execGxRload (w : TwoWord) (s : State) : Out :=
  runWord (.gxRload w) noIll (fun v s => withRay v s (
    let i (l : Nat) : Nat := (v.read w.a .b32 l).toNat
    rayProt v s (fun l => v.x.ctl.rpcap ≤ i l) (fun l => v.x.poolAddr (i l))
      (v.rayRead s 64 64 (regRun .v v.d 3) (fun l => v.x.poolAddr (i l)) (.load v.d (v.lanes.map (fun l => (l, i l))))))) s

/-- The record that a slot holds: SP 0, the entries of its stack folded into LOST (R340, R346). -/
def RaySlot.record (r : RaySlot) (ref : Word) : List Word :=
  let lost := min 255 (r.lost + r.stack.length)
  let stk := BitVec.ofNat 32 ((nth 0 r.words 9).toNat / 65536 * 65536 + 256 * lost)
  (List.range 16).map (fun k => if k = 9 then stk else if k = 10 then ref else nth 0 r.words k)

/-- rstore (R339, R346): a lane without a binding, or bound at or above %rpcap, raises PROT. -/
def execGxRstore (w : TwoWord) (s : State) : Out :=
  runWord (.gxRstore w) noIll (fun v s => withRay v s (
    let slot (l : Nat) : RaySlot := (v.x.lane l).ray
    let unbind := bit w.x.mod2.toNat 0
    let ref (l : Nat) : Word := if bit w.x.mod2.toNat 1 then v.read w.a .b32 l else (slot l).ref
    let addr (l : Nat) : Nat := v.x.poolAddr ((slot l).index.getD 0)
    let outside (l : Nat) : Bool := match (slot l).index with
      | some i => v.x.ctl.rpcap ≤ i
      | none => true
    rayProt v s outside (fun l => match (slot l).index with
        | some i => v.x.poolAddr i
        | none => 0)
      (match v.storeOp s { space := 0, n := 64, align := 64, write := true } (v.lanes.map (fun l => ⟨l, addr l⟩)) false false
          (fun l => (((slot l).record (ref l)).map (fun x => toBytes 4 x.toNat)).flatten) with
        | .done s =>
          .done (s.modGroup v.g (fun x => v.lanes.foldl (fun x l => x.modRay l (fun r =>
            { r with ref := ref l, lost := min 255 (r.lost + r.stack.length), stack := []
                     index := if unbind then none else r.index })) x))
        | e => e))) s

/-- The kind of a reference (R342). -/
def refKind (r : Word) : Nat := bits r.toNat 31 30

/-- rbox (R347). -/
def execGxRbox (w : TwoWord) (s : State) : Out :=
  runWord (.gxRbox w) noIll (fun v s => withRay v s (
    let ref (l : Nat) : Word := v.read w.a .b32 l
    rayProt v s (fun l => (v.x.lane l).ray.index.isNone || refKind (ref l) ≠ 0) (fun l => v.x.nodeAddr (ref l))
      (v.rayRead s 128 128 (regRun .v v.d 9) (fun l => v.x.nodeAddr (ref l)) (.box v.d (v.lanes.map (fun l => (l, ref l))) v.fm)))) s

/-- rtri (R348). -/
def execGxRtri (w : TwoWord) (s : State) : Out :=
  runWord (.gxRtri w) noIll (fun v s => withRay v s (
    let ref (l : Nat) : Word := v.read w.a .b32 l
    rayProt v s (fun l => (v.x.lane l).ray.index.isNone || refKind (ref l) ≠ 1) (fun l => v.x.nodeAddr (ref l))
      (v.rayRead s 48 16 [.q v.qd] (fun l => v.x.nodeAddr (ref l)) (.tri v.qd (v.lanes.map (fun l => (l, ref l))) v.fm)))) s

/-- Byte k of a node's words. -/
def byteOf (ws : List Word) (k : Nat) : Nat := bits (nth 0 ws (k / 4)).toNat (8 * (k % 4) + 7) (8 * (k % 4))

/-- One bound of a child on an axis: the sum is exact before its one rounding, which flushes as FTZ32 of the group says (R342,
03_numbers R54, R56). -/
def nodeBound (fm : FMode) (ws : List Word) (a q : Nat) (r : Rnd) : Ext :=
  match Ext.f32 (nth 0 ws a) with
  | .q o =>
    let e := byteOf ws (12 + a)
    let s : Rat2 := if e ≥ 127 then Q.int ((2 ^ (e - 127) : Nat) : Int) else Q.frac 1 (2 ^ (127 - e))
    Ext.f32 (BitVec.ofNat 32 (Q.roundIn .f32 fm r (Q.add o (Q.mul (Q.int q) s))).1)
  | x => x

/-- How the slab test of a child ends. -/
inductive Slab where
  | miss
  | hit (te : Ext)
  /-- a quantity that no rule gives: the hit bit and the distance are free values (log 42) -/
  | free
  deriving DecidableEq, Repr

/-- The slab test of child c (R347). -/
def slabTest (fm : FMode) (ray node : List Word) (c : Nat) : Slab :=
  let nan := ((List.range 8).any (fun k => isNan32 (nth 0 ray k)))
  if nan || !bit (byteOf node 15) c || (List.range 3).any (fun a => byteOf node (12 + a) = 255) then .miss
  else
    let axis (a : Nat) : Option (Ext × Ext) ⊕ Unit :=
      let lo := nodeBound fm node a (byteOf node (16 + 6 * c + a)) .rd
      let hi := nodeBound fm node a (byteOf node (19 + 6 * c + a) + 1) .ru
      let o := Ext.f32 (nth 0 ray a)
      let d := Ext.f32 (nth 0 ray (3 + a))
      let neg : Bool := match d with
        | .q x => x.n < 0
        | .inf n => n
        | .undef => false
      if d = .q (Q.int 0) || (match d with | .q x => x.n = 0 | _ => false) then
        match Ext.le lo o, Ext.le o hi with
        | some true, some true => .inl (some (.inf true, .inf false))
        | _, _ => .inl none   -- a bound of no order with o does not hold it
      else
        let tn := Ext.div (Ext.sub lo o) d
        let tf := Ext.div (Ext.sub hi o) d
        if tn = .undef || tf = .undef then .inr () else .inl (some (if neg then (tf, tn) else (tn, tf)))
    let all := (List.range 3).map axis
    if all.any (fun r => r = .inl none) then .miss
    else
      let ps := all.map (fun r => match r with
        | .inl (some p) => p
        | _ => (.undef, .undef))
      let te := ps.foldl (fun t p => Ext.max t p.1) (Ext.f32 (nth 0 ray 6))
      let tx := ps.foldl (fun t p => Ext.min t p.2) (Ext.f32 (nth 0 ray 7))
      match Ext.le te tx with
      | some true => .hit te
      | some false => .miss
      | none => .free

/-- The nine words that rbox writes for one lane (R347). -/
def State.boxWords (s : State) (fm : FMode) (ray node : List Word) : State × List Word :=
  let one (p : State × Nat × List Word) (c : Nat) : State × Nat × List Word :=
    let far := (p.1, p.2.1, p.2.2 ++ [(0x7F800000 : Word)])
    match slabTest fm ray node c with
    | .miss => far
    | .hit te =>
      match te.roundDown fm with
      | some t => (p.1, p.2.1 + 2 ^ c, p.2.2 ++ [t])
      | none => far
    | .free =>
      let (b, s) := p.1.freeVal
      let (t, s) := s.freeVal
      (s, p.2.1 + (if b % 2 = 1 then 2 ^ c else 0), p.2.2 ++ [BitVec.ofNat 32 t])
  let (s, m, ts) := (List.range 8).foldl one (s, 0, [])
  (s, BitVec.ofNat 32 m :: ts)

/-- Exact vectors of three components. -/
abbrev Vec3 := Rat2 × Rat2 × Rat2

def Vec3.sub (a b : Vec3) : Vec3 := (Q.sub a.1 b.1, Q.sub a.2.1 b.2.1, Q.sub a.2.2 b.2.2)
def Vec3.cross (a b : Vec3) : Vec3 :=
  (Q.sub (Q.mul a.2.1 b.2.2) (Q.mul a.2.2 b.2.1), Q.sub (Q.mul a.2.2 b.1) (Q.mul a.1 b.2.2),
   Q.sub (Q.mul a.1 b.2.1) (Q.mul a.2.1 b.1))
def Vec3.dot (a b : Vec3) : Rat2 := Q.sum [Q.mul a.1 b.1, Q.mul a.2.1 b.2.1, Q.mul a.2.2 b.2.2]

/-- The triangle test: t, the primitive and the barycentrics where the lane hits; every value read is finite, TMIN and TMAX too
(R348). -/
def triTest (fm : FMode) (ray leaf : List Word) : Option (Word × Word × Word) :=
  let fin := (List.range 8).all (fun k => finite32 (nth 0 ray k)) && (List.range 9).all (fun k => finite32 (nth 0 leaf k))
  let vec (ws : List Word) (k : Nat) : Vec3 := (Q.f32 (nth 0 ws k), Q.f32 (nth 0 ws (k + 1)), Q.f32 (nth 0 ws (k + 2)))
  let o := vec ray 0
  let d := vec ray 3
  let e1 := (vec leaf 3).sub (vec leaf 0)
  let e2 := (vec leaf 6).sub (vec leaf 0)
  let s := o.sub (vec leaf 0)
  let p := d.cross e2
  let q := s.cross e1
  let det := p.dot e1
  if !fin || det.n = 0 then none
  else
    let u := Q.div (p.dot s) det
    let v := Q.div (q.dot d) det
    let t := Q.div (q.dot e2) det
    let t32 : Word := BitVec.ofNat 32 (Q.roundIn .f32 fm .rne t).1
    let half (x : Rat2) : Nat := (Q.roundIn .f16 fm .rne x).1
    if 0 ≤ u.n && 0 ≤ v.n && Q.le (Q.add u v) (Q.int 1) && Ext.le (Ext.f32 (nth 0 ray 6)) (.q t) = some true
        && (decodeRaw .f32 t32.toNat).lt (decodeRaw .f32 (nth 0 ray 7).toNat)
        && (nth 0 leaf 10 &&& nth 0 ray 8 &&& 0xFF) ≠ 0 then
      some (t32, nth 0 leaf 9, BitVec.ofNat 32 (half u + 65536 * half v))
    else none

/-- One lane's read ends: its slot and the values of its registers (R346 to R348). -/
def State.rayLane (s : State) (g : Nat) (w : RayWork) (k : Nat) (ws : List Word) : State × List (Reg × Nat × Word) :=
  let slot (l : Nat) : RaySlot := match s.group g with
    | some x => (x.lane l).ray
    | none => {}
  match w with
  | .load d lanes =>
    let p := nth (0, 0) lanes k
    let r : RaySlot := { index := some p.2, words := ws, ref := nth 0 ws 10, lost := bits (nth 0 ws 9).toNat 15 8 }
    (s.modGroup g (fun x => x.modRay p.1 (fun _ => r)),
      [(.v d, p.1, nth 0 ws 10), (.v (d + 1), p.1, nth 0 ws 8), (.v (d + 2), p.1, nth 0 ws 14)])
  | .box d lanes fm =>
    let p := nth (0, 0) lanes k
    let (s, out) := s.boxWords fm (slot p.1).words ws
    (s.modGroup g (fun x => x.modRay p.1 (fun r => { r with ref := p.2 })), out.mapIdx (fun i x => (.v (d + i), p.1, x)))
  | .tri qd lanes fm =>
    let p := nth (0, 0) lanes k
    let hit := triTest fm (slot p.1).words ws
    let upd (r : RaySlot) : RaySlot := match hit with
      | none => { r with ref := p.2 }
      | some (t, id, bary) =>
        { r with ref := p.2, words := setAt (setAt (setAt (setAt r.words 7 t) 12 t) 11 id) 13 bary }
    (s.modGroup g (fun x => x.modRay p.1 upd), [(.q qd, p.1, if hit.isSome then 1 else 0)])

/-- `n` free words (log 9). -/
def State.freeWords (s : State) : Nat → State × List Word
  | 0 => (s, [])
  | n + 1 =>
    let (x, s) := s.freeVal
    let (s, ws) := s.freeWords n
    (s, BitVec.ofNat 32 x :: ws)

/-- Lanes and words that a ray instruction reads. -/
def RayWork.size : RayWork → Nat × Nat
  | .load _ ls => (ls.length, 16)
  | .box _ ls _ => (ls.length, 32)
  | .tri _ ls _ => (ls.length, 12)

/-- A ray read returns: every lane's slot and registers. After an error the words read are free values (05_memory R106;
log 9). -/
def State.rayReturn (s : State) (g : Nat) (w : RayWork) (words : List (List Word)) :
    State × List (Reg × Nat × Word) :=
  (List.range w.size.1).foldl (fun (p : State × List (Reg × Nat × Word)) k =>
    let (s, ws) := match words[k]? with
      | some ws => (p.1, ws)
      | none => p.1.freeWords w.size.2
    let (s, vals) := s.rayLane g w k ws
    (s, p.2 ++ vals)) (s, [])

/-- The stack load of a ret returns: every issued lane pops its word (10_group R203, R204). A word that is no multiple of 4,
or an error of the load, traps at the ret. -/
def State.returnRet (s : State) (g op : Nat) (p : Pend) (words : List (Nat × Word)) (res : IoEnd) : State :=
  match s.group g with
  | none => s
  | some x =>
    match x.flow.park, x.flow.clause with
    | some (.ret k), some c =>
      if k ≠ op then s
      else
        let trap (t : Trap) : State := (s.setGroup g (x.stand c .ready)).takeTrap g t c.own (c.npc true) c.base c.lanes
        let bad := maskOf (fun l => words.any (fun w => w.1 = l && w.2.toNat % 4 ≠ 0))
        if res ≠ .ok then trap (lateOf res p.pc p.addr p.lanes []).trap
        else if bad ≠ 0 then trap { cause := .align, tmask := bad }
        else
          let pc (l : Nat) : Word := match words.find? (fun w => w.1 = l) with
            | some w => w.2
            | none => c.next
          s.setGroup g ((x.mapLanes p.lanes (fun _ y => { y with depth := y.depth - 1 })).leave pc)
    | _, _ => s

/-- The words of a ray read, those of other modules taken from the answer in lane order; free values where it ended in an
error. -/
def fillWords (size : Nat) : List (Option (List Word)) → List Nat → List (List Word)
  | [], _ => []
  | some ws :: rest, data => ws :: fillWords size rest data
  | none :: rest, data =>
    (List.range size).map (fun i => BitVec.ofNat 32 (nth 0 data i)) :: fillWords size rest (data.drop size)

/-- A record of another module returns to the instruction that waits for it; an error of the read traps there (log 69). -/
def State.returnBlock (s : State) (g op : Nat) (p : Pend) (n : Nat) (res : IoEnd) (data : List Nat) : State :=
  match s.group g with
  | none => s
  | some x =>
    match x.flow.park, x.flow.clause with
    | some (.block k), some c =>
      if k ≠ op then s
      else if res ≠ .ok then
        let terminal := match x.ownEnc with
          | some e => e.terminal
          | none => false
        (s.setGroup g (x.stand c .ready)).takeTrap g (lateOf res p.pc p.addr p.lanes []).trap c.own (c.npc terminal) c.base
          c.lanes
      else
        let q := { p with kind := .block n (some ((List.range n).map (fun i => BitVec.ofNat 8 (nth 0 data i)))) }
        s.setGroup g ((x.modIo (fun io => { io with pend := io.pend ++ [q] })).modFlow (fun f => { f with park := some .ready }))
    | _, _ => s

/-- A load in flight writes its registers and its flag decrements (05_memory R106). `data` are the words, or for a
record the bytes, that other modules answer, in lane order. -/
def State.returnLoad (s : State) (group op : Nat) (res : IoEnd) (data : List Nat) : Option State :=
  match s.group group with
    | none => none
    | some x =>
      match x.io.pend.find? (fun p => p.id = op) with
      | none => none
      | some p =>
        let late := lateOf res p.pc p.addr p.lanes p.regs
        let s' := s.setGroup group (x.dropPend op)
        if !s.mayEnd (dieOfCore x.core) p.homes res then none
        else match p.kind with
        | .load =>
          let s' := s'.finish group p.flag res p.vals late
          some (if res = .ok then s'.loadArrives group op p.regs else s'.unstitchLoad x.core op)
        | .pref => some (s'.finish group p.flag .ok [] late)
        | .ret words => some (s'.returnRet group op p words res)
        | .block n none => some (s'.returnBlock group op p n res data)
        | .far words =>
          let vals := words.mapIdx (fun i w =>
            (w.reg, w.lane, pieceValue w.ty w.byte (x.regs.read w.reg w.lane) (nth 0 data i % 2 ^ w.ty.width)))
          let s' := s'.finish group p.flag res (p.vals ++ vals) late
          some (if res = .ok then s'.loadArrives group op p.regs else s'.unstitchLoad x.core op)
        | .ray w words =>
          let (s', vals) := s'.rayReturn group w (if res = .ok then fillWords w.size.2 words data else [])
          some (s'.finish group p.flag res vals late)
        | _ => none

/-- LOAD_RETURN (05_memory R106). -/
def execEvLoadReturn (group op : Nat) (res : IoEnd) (data : List Nat) (s : State) : Out :=
  event ((s.corrected res).1.returnLoad group op (s.corrected res).2 data)

/-- rspush (R349). -/
def execGxRspush (w : TwoWord) (s : State) : Out :=
  runWord (.gxRspush w) noIll (fun v s => withRay v s (
    .done (s.modGroup v.g (fun x => v.lanes.foldl (fun x l => x.modRay l (fun r =>
      { r with stack := (v.read w.a .b32 l :: r.stack).take 8
               lost := if r.stack.length ≥ 8 then min 255 (r.lost + 1) else r.lost })) x)))) s

/-- rspop (R349). -/
def execGxRspop (w : TwoWord) (s : State) : Out :=
  runWord (.gxRspop w) noIll (fun v s => withRay v s (
    let one (x : Group) (l : Nat) : Group :=
      match (x.lane l).ray.stack with
      | t :: rest => (x.modRay l (fun r => { r with stack := rest })).modRegs (fun g => g.setV v.d l t)
      | [] =>
        if (x.lane l).ray.lost > 0 then
          (x.modRay l (fun r => { r with lost := 0 })).modRegs (fun g => g.setV v.d l 0xFFFFFFFE)
        else x.modRegs (fun g => g.setV v.d l 0xFFFFFFFF)
    .done ((v.rewrote s).modGroup v.g (fun x => v.lanes.foldl one x)))) s

/-- The box in six registers of a lane (R351). -/
def Env.box (v : Env) (reg l : Nat) : List Word := (List.range 6).map (fun i => v.x.regs.getV (reg + i) l)

/-- The union of two boxes: min of lo, max of hi (R351, 04_lane R75). -/
def boxUnion (a b : List Word) : List Word :=
  (List.range 6).map (fun i =>
    let f := if i < 3 then fMin else fMax
    BitVec.ofNat 32 (f .f32 {} (nth 0 a i).toNat (nth 0 b i).toNat))

/-- The union of a list of boxes. -/
def boxUnions : List (List Word) → List Word
  | [] => []
  | b :: bs => bs.foldl boxUnion b

/-- bunion (R351). -/
def execGxBunion (w : TwoWord) (s : State) : Out :=
  runWord (.gxBunion w) noIll (fun v s =>
    let box (l : Nat) : List Word := v.box w.a.toNat l
    let all := boxUnions (v.lanes.map box)
    let out (l : Nat) : List Word := if bit w.x.mod2.toNat 0 then all else boxUnion (box l) (v.box w.b.toNat l)
    v.set (v.rewrote s) (v.x.modRegs (fun r => v.lanes.foldl (fun r l =>
      (List.range 6).foldl (fun r i => r.setV (v.d + i) l (nth 0 (out l) i)) r) r))) s

/-- The area of a box (R351): +∞ where an extent is infinite; else undef where one is the difference of equal infinities
(log 42). -/
def boxArea (b : List Word) : Ext :=
  let e (i : Nat) : Ext := Ext.sub (Ext.f32 (nth 0 b (i + 3))) (Ext.f32 (nth 0 b i))
  let empty := b.any isNan32 || (List.range 3).any (fun i => Ext.le (Ext.f32 (nth 0 b i)) (Ext.f32 (nth 0 b (i + 3))) = some false)
  if empty then .q (Q.int 0)
  else
    match e 0, e 1, e 2 with
    | .q x, .q y, .q z => .q (Q.mul (Q.int 2) (Q.sum [Q.mul x y, Q.mul y z, Q.mul z x]))
    | .inf _, _, _ | _, .inf _, _ | _, _, .inf _ => .inf false
    | _, _, _ => .undef

/-- Area times count: a side with no count contributes 0 (R351). -/
def sideCost (bs : List (List Word)) (n : Nat) : Ext :=
  if n = 0 then .q (Q.int 0)
  else match boxArea (boxUnions bs) with
    | .q a => .q (Q.mul a (Q.int n))
    | x => x

/-- The sum of two costs. -/
def costSum : Ext → Ext → Ext
  | .q a, .q b => .q (Q.add a b)
  | .undef, _ | _, .undef => .undef
  | _, _ => .inf false

/-- bsah (R351): the sum is rounded under FTZ32 and raises its %fstat bits (03_numbers R53, R54, R56). -/
def execGxBsah (w : TwoWord) (s : State) : Out :=
  runWord (.gxBsah w) noIll (fun v s =>
    let box (l : Nat) : List Word := v.box w.a.toNat l
    let cnt (ls : List Nat) : Nat := (ls.map (fun l => (v.read w.b .n32 l).toNat)).sum
    let cost (l : Nat) : Ext :=
      let left := v.lanes.filter (fun k => k ≤ l)
      let right := v.lanes.filter (fun k => l < k)
      costSum (sideCost (left.map box) (cnt left)) (sideCost (right.map box) (cnt right))
    let one (p : State × List (Nat × Word) × Flags) (l : Nat) : State × List (Nat × Word) × Flags :=
      match cost l with
      | .q a =>
        let (x, f) := Q.roundIn .f32 v.fm .rne a
        (p.1, p.2.1 ++ [(l, BitVec.ofNat 32 x)], p.2.2 ||| f)
      | .inf _ => (p.1, p.2.1 ++ [(l, 0x7F800000)], p.2.2)
      | .undef =>
        let (n, s) := p.1.freeVal
        (s, p.2.1 ++ [(l, BitVec.ofNat 32 n)], p.2.2)
    let (s, rs, f) := v.lanes.foldl one (s, [], Flags.none)
    .done ((v.rewrote s).modGroup v.g (fun x => (x.modRegs (fun r => rs.foldl (fun r e => r.setV v.d e.1 e.2) r)).raise f))) s

/-- The bytes of the node that bpack writes, from the valid children: number, box and reference (R352). -/
def packNode (kids : List (Nat × List Word × Word)) : List Byte :=
  if kids = [] then List.replicate 128 0
  else
    let all := boxUnions (kids.map (fun k => k.2.1))
    let o (a : Nat) : Word := nth 0 all a
    let fits (a e : Nat) : Bool :=
      let s : Rat2 := if e ≥ 127 then Q.int ((2 ^ (e - 127) : Nat) : Int) else Q.frac 1 (2 ^ (127 - e))
      Q.le (Q.sub (Q.f32 (nth 0 all (a + 3))) (Q.f32 (o a))) (Q.mul (Q.int 256) s)
    let ex (a : Nat) : Nat := ((List.range 255).find? (fits a)).getD 254
    let scale (a : Nat) : Rat2 := if ex a ≥ 127 then Q.int ((2 ^ (ex a - 127) : Nat) : Int) else Q.frac 1 (2 ^ (127 - ex a))
    let clamp8 (i : Int) : Nat := if i < 0 then 0 else min i.toNat 255
    let rel (a : Nat) (x : Word) : Rat2 := Q.div (Q.sub (Q.f32 x) (Q.f32 (o a))) (scale a)
    let child (c : Nat) : List Byte :=
      match kids.find? (fun k => k.1 = c) with
      | none => List.replicate 6 0
      | some k =>
        let lo (a : Nat) : Int := Q.floor (rel a (nth 0 k.2.1 a))
        let hi (a : Nat) : Int := max (lo a) (Q.ceil (rel a (nth 0 k.2.1 (a + 3))) - 1)
        ((List.range 3).map (fun a => BitVec.ofNat 8 (clamp8 (lo a)))) ++ ((List.range 3).map (fun a => BitVec.ofNat 8 (clamp8 (hi a))))
    let ref (c : Nat) : List Byte := match kids.find? (fun k => k.1 = c) with
      | none => toBytes 4 0
      | some k => toBytes 4 k.2.2.toNat
    ((List.range 3).map (fun a => toBytes 4 (o a).toNat)).flatten ++ (List.range 3).map (fun a => BitVec.ofNat 8 (ex a))
      ++ toBytes 1 ((kids.map (fun k => 2 ^ k.1)).sum) ++ ((List.range 8).map child).flatten ++ ((List.range 8).map ref).flatten
      ++ List.replicate 32 0

/-- bpack (R352). -/
def execGxBpack (w : TwoWord) (s : State) : Out :=
  runWord (.gxBpack w) noIll (fun v s =>
    let kids := (v.lanes.filter (fun l => l < 8)).filterMap (fun l =>
      let b := v.box w.b.toNat l
      if b.all finite32 then some (l, b, v.read w.x.c .b32 l) else none)
    v.storeOp s { space := 1, n := 128, align := 128, write := true } (v.lanes.map (fun l => ⟨l, (v.uni w.a).toNat⟩)) true false
      (fun _ => packNode kids)) s

/-- rlaunch (R350, 16_view R329). -/
def execGxRlaunch (w : TwoWord) (s : State) : Out :=
  runWord (.gxRlaunch w) noIll (fun v s => withSet v s VsSt.live (fun x =>
    let t := (v.uni w.b).toNat
    let k := bits t 7 0
    let vn := bits t 11 8
    let cam := (v.uni w.x.c).toNat
    let first := (v.uni w.a).toNat
    withView v s x vn (fun r =>
      if r.rh / 16 ≤ k then .trap s (v.whole .prot)
      else
        v.loadRecord s cam 80 (fun s bs =>
          if bits t 31 20 ≠ 0 || (bs.drop 68).any (fun b => b ≠ 0) || v.x.ctl.rpcap < first + 16 * r.rw then
            .trap s (v.whole .prot)
          else
            let lo := v.x.poolAddr first
            v.queueView s false [(.sp, cam, cam + 80, false), (.glob, lo, lo + 1024 * r.rw, true)]
              (.rlaunch vn k (bits t 19 12) x.f cam v.x.ctl.rpbase first))))) s

end Sys2Proof.Machine
end

