-- ==== Sys2Proof/Machine/Context.lean ====
section
/-!
DEFINITION. Control registers (07_context R149, 11_register R219, 15_net R300, 17_ray R339) and the trap and
control-register instructions (07_context R150, R151). Taking a trap and returning from one are in Ops.
-/
namespace Sys2Proof.Machine

/-- A 64-bit control value's half. -/
def half64 (x : Nat) (hi : Bool) : Word := BitVec.ofNat 32 (if hi then x / 2 ^ 32 else x)

/-- The value that a control register reads in lane l (R149). -/
def Env.csr (v : Env) (s : State) (n l : Nat) : Word :=
  let x := v.x
  let k := s.core x.core
  let w (i : Nat) : Word := BitVec.ofNat 32 i
  if 0x18 ≤ n ∧ n ≤ 0x1F then Tab.get 0 k.am (n - 0x18)
  else
    match n with
    | 0x00 => w l
    | 0x01 => w x.gid
    | 0x02 => w v.team.teamid
    | 0x03 => w (coreid x.core)
    | 0x04 => w x.w
    | 0x05 => w x.slot
    | 0x06 => w v.c
    | 0x07 => w x.ctl.tdepth
    | 0x08 => w s.sched.now
    | 0x09 => w x.ctl.clockh
    | 0x0A => w (x.wdog s.sched.now)
    | 0x10 => w x.ctl.fmode
    | 0x11 => w x.ctl.fstat.toNat
    | 0x12 => k.srseed
    | 0x28 => w x.ctl.sppriv
    | 0x29 => w x.ctl.spteam
    | 0x2A => w x.ctl.stklim
    | 0x2B => half64 x.ctl.stkbase false
    | 0x2C => half64 x.ctl.stkbase true
    | 0x2D => half64 x.ctl.tfbase false
    | 0x2E => half64 x.ctl.tfbase true
    | 0x40 => (s.pool x.core).reuse
    | 0x41 => (s.pool x.core).collide
    | 0x42 => w (s.pool x.core).stitch.length
    | 0x43 => w x.alloc
    | 0x44 => w k.window
    | 0x45 => k.nrows
    | 0x46 => half64 x.ctl.rpbase false
    | 0x47 => half64 x.ctl.rpbase true
    | 0x48 => w x.ctl.rpcap
    | 0x49 => half64 x.ctl.bvhbase false
    | _ => half64 x.ctl.bvhbase true

/-- A control register is read-only for programs (R149). -/
def csrRo (n : Nat) : Bool := n ≤ 0x09 || (0x28 ≤ n && n ≤ 0x2E) || n = 0x43

/-- A half of a 64-bit control value replaced. -/
def putHalf (x : Nat) (hi : Bool) (a : Word) : Nat :=
  if hi then x % 2 ^ 32 + 2 ^ 32 * a.toNat else x / 2 ^ 32 * 2 ^ 32 + a.toNat

/-- A read-write control register takes a value: reserved bits stay zero, and each register's own rule holds (03_numbers
R53, R57, R60; 07_context R148; 11_register R219; 15_net R300; 17_ray R339). -/
def Env.putCsr (v : Env) (s : State) (n : Nat) (a : Word) : State :=
  let ctl (f : Ctl → Ctl) : State := s.modGroup v.g (fun x => x.modCtl f)
  let core (f : Core → Core) : State := s.modCore v.x.core f
  if 0x18 ≤ n ∧ n ≤ 0x1F then core (fun k => { k with am := Tab.set 0 k.am (n - 0x18) a })
  else
    match n with
    | 0x0A => ctl (fun c => { c with wdog0 := (s.sched.now : Int) - a.toNat })
    | 0x10 => ctl (fun c => { c with fmode := bits a.toNat 1 0 })
    | 0x12 => core (fun k => { k with srseed := seedOf a })
    | 0x40 => s.modPool v.x.core (fun p => { p with reuse := a })
    | 0x41 => s.modPool v.x.core (fun p => { p with collide := a })
    | 0x42 => if bit a.toNat 31 then s.flushStitch v.x.core else s
    | 0x44 => core (fun k => { k with window := max 1 (bits a.toNat 15 0) })
    | 0x45 => core (fun k => { k with nrows := a })
    | 0x46 => ctl (fun c => { c with rpbase := putHalf c.rpbase false (a &&& 0xFFFFFFC0) })
    | 0x47 => ctl (fun c => { c with rpbase := putHalf c.rpbase true a })
    | 0x48 => ctl (fun c => { c with rpcap := a.toNat })
    | 0x49 => ctl (fun c => { c with bvhbase := putHalf c.bvhbase false (a &&& 0xFFFFFF80) })
    | 0x4A => ctl (fun c => { c with bvhbase := putHalf c.bvhbase true a })
    | _ => s

/-- Sticky flags cleared (00_scope R7). -/
def Env.clearStat (v : Env) (s : State) (a : Word) : State :=
  s.modGroup v.g (fun x => x.modCtl (fun c => { c with fstat := c.fstat &&& ~~~(BitVec.ofNat 6 a.toNat) }))

/-- The control-register number, in C. -/
def Env.csrNo (v : Env) : Nat := v.e.t.x.c.toNat

/-- What a read of %clock leaves: the high half latched (R149). -/
def Env.latchClock (v : Env) (s : State) : State :=
  if v.csrNo = 0x08 then
    s.modGroup v.g (fun x => x.modCtl (fun c => { c with clockh := s.sched.now / 2 ^ 32 % 2 ^ 32 }))
  else s

/-- The group has tile operations in flight (14_tile R280). -/
def State.tileBusy (s : State) (core g : Nat) : Bool := (s.core core).tileq.any (fun o => o.group = g)

/-- csrr (R150, R151). -/
def execSyCsrr (w : TwoWord) (s : State) : Out :=
  runWord (.syCsrr w) noIll (fun v s =>
    if v.csrNo = 0x11 && s.tileBusy v.x.core v.g then .park s .fstat
    else
      let put (x : Group) : Group :=
        if bit w.x.mod2.toNat 0 then x.modRegs (fun r => r.setS v.d (v.csr s v.csrNo 0))
        else x.modRegs (fun r => v.lanes.foldl (fun r l => r.setV v.d l (v.csr s v.csrNo l)) r)
      .done (v.rewrote ((v.latchClock s).modGroup v.g put))) s

/-- A write to a control register: PRIV for a read-only one, else what it becomes (R151). -/
def csrWrite (v : Env) (s : State) (f : State) : Eff := if csrRo v.csrNo then .trap s (v.whole .priv) else .done f

/-- csrw (R151). -/
def execSyCsrw (w : TwoWord) (s : State) : Out :=
  runWord (.syCsrw w) noIll (fun v s =>
    let a := v.uni w.a
    csrWrite v s (if v.csrNo = 0x11 then v.clearStat s a else v.putCsr s v.csrNo a)) s

/-- csrs (R151). %stctl reads its FLUSH bit as 0. -/
def execSyCsrs (w : TwoWord) (s : State) : Out :=
  runWord (.syCsrs w) noIll (fun v s =>
    csrWrite v s (if v.csrNo = 0x11 then s else v.putCsr s v.csrNo (v.csr s v.csrNo 0 ||| v.uni w.a))) s

/-- csrc (R151). -/
def execSyCsrc (w : TwoWord) (s : State) : Out :=
  runWord (.syCsrc w) noIll (fun v s =>
    let a := v.uni w.a
    csrWrite v s (if v.csrNo = 0x11 then v.clearStat s a else v.putCsr s v.csrNo (v.csr s v.csrNo 0 &&& ~~~a))) s

/-- trap and brk (R151). -/
def trapWith (c : Cause) (v : Env) (s : State) : Eff :=
  if v.act = 0 then .done s else .trap s { cause := c, tmask := v.act, info := v.csrNo }

/-- trap (R151). -/
def execSyTrap (w : TwoWord) (s : State) : Out := runWord (.syTrap w) noIll (trapWith .trap) s

/-- brk (R151). -/
def execSyBrk (w : TwoWord) (s : State) : Out := runWord (.syBrk w) noIll (trapWith .brk) s

/-- The lanes that a frame says have exited. -/
def Group.goneBy (x : Group) (fr : List Byte) : Mask :=
  maskOf (fun l => decide (l < x.w) && x.live.has l && ofBytes ((fr.drop (0x240 + l)).take 1) = 3)

/-- tret (R151): the frame is loaded, then the lanes return. Lanes that exit publish their records as tcommit does, and the
return waits for that (08_queue R174). -/
def execSyTret (w : TwoWord) (s : State) : Out :=
  runWord (.syTret w) noIll (fun v s =>
    if v.x.ctl.tdepth = 0 then .trap s (v.whole .priv)
    else
      v.loadBlock s (v.x.ctl.tfbase % 2 ^ 52) 1024 1024 (fun s fr =>
        if v.publishWaits (v.x.goneBy fr) then .park s .drain
        else .ended ((s.returnTrap v.g fr (bit w.x.mod2.toNat 0)).dropNeval v.g)) ) s

/-- ctxsave (R151): Draining of the context is asked for, and the group goes no further than the next word before it is
saved. -/
def execSyCtxsave (w : TwoWord) (s : State) : Out :=
  runWord (.syCtxsave w) noIll (fun v s =>
    if (s.ctx v.c).st ≠ .running then .done s
    else
      let s := (s.drain v.c).advance v.g
      .ended (s.modGroup v.g (fun x =>
        if x.flow.clause.isSome then x.modFlow (fun f => { f with park := some .saved }) else x))) s

end Sys2Proof.Machine
end

