-- ==== Sys2Proof/Machine/Control.lean ====
section
/-!
DEFINITION. Control flow (10_group R202 to R204, R333 of 16_view for kill).
-/
namespace Sys2Proof.Machine

/-- The payload of a CF word. -/
def Env.pay (v : Env) : Nat := (cfPay v.e.t).toNat

/-- The target own address + 4 × simm19. -/
def Env.near (v : Env) : Word := v.cl.own + wrapWord (4 * signed 19 v.pay)

/-- The operand of brx and callx in lane l. -/
def Env.far (v : Env) (l : Nat) : Word := v.read (cfTarget v.e.t) .b32 l

/-- The clause issue ends with every issued lane at an address. -/
def Env.go (v : Env) (s : State) (pc : Nat → Word) : Eff := .ended (s.modGroup v.g (fun x => x.leave pc))

/-- The lanes of Active at one address, the others at the next header. -/
def Env.split (v : Env) (t : Nat → Word) (l : Nat) : Word := if v.act.has l then t l else v.cl.next

/-- A branch target of Active that is no multiple of 4 raises ALIGN (R203). -/
def Env.targetsOk (v : Env) (s : State) (f : Eff) : Eff :=
  match v.lanes.filter (fun l => (v.far l).toNat % 4 ≠ 0) with
  | [] => f
  | l :: ls => .trap s { cause := .align, tmask := (l :: ls).foldl (fun m l => m ||| Mask.single l) 0 }

/-- bra (R203). -/
def execCfBra (w : CfWord) (s : State) : Out :=
  runWord (.cfBra w) noIll (fun v s => v.go s (v.split (fun _ => v.near))) s

/-- jmp (R203). -/
def execCfJmp (w : CfWord) (s : State) : Out := runWord (.cfJmp w) noIll (fun v s => v.go s (fun _ => v.near)) s

/-- brx (R203). -/
def execCfBrx (w : CfWord) (s : State) : Out :=
  runWord (.cfBrx w) noIll (fun v s => v.targetsOk s (v.go s (v.split v.far))) s

/-- The target of jz and jnz (R203). -/
def jumpIf (take : Word → Bool) (v : Env) (s : State) : Eff :=
  let x := v.x.regs.getS (bits v.pay 18 13)
  let t := v.cl.own + wrapWord (4 * signed 13 (bits v.pay 12 0))
  v.go s (fun _ => if take x then t else v.cl.next)

/-- jz (R203). -/
def execCfJz (w : CfWord) (s : State) : Out := runWord (.cfJz w) noIll (jumpIf (fun x => x = 0)) s

/-- jnz (R203). -/
def execCfJnz (w : CfWord) (s : State) : Out := runWord (.cfJnz w) noIll (jumpIf (fun x => x ≠ 0)) s

/-- CheckDepth and Push of every lane of Active, then the branch (R203, R204). The pushed words are one store. -/
def callTo (t : Env → Nat → Word) (v : Env) (s : State) : Eff :=
  let d (l : Nat) : Nat := (v.x.lane l).depth
  let lim := v.x.ctl.stklim
  match v.lanes.filter (fun l => d l ≥ 255 || lim < 4 * (d l + 1)) with
  | l :: ls => .trap s { cause := .stack, tmask := (l :: ls).foldl (fun m l => m ||| Mask.single l) 0 }
  | [] =>
    match v.storeOp s { space := 4, n := 4, align := 4, write := true } (v.lanes.map (fun l => ⟨l, lim - 4 * (d l + 1)⟩)) false
        false (fun _ => toBytes 4 v.cl.next.toNat) with
    | .done s =>
      v.go (s.modGroup v.g (fun x => x.mapLanes v.act (fun _ y => { y with depth := y.depth + 1 }))) (v.split (t v))
    | e => e

/-- call (R203, R204). -/
def execCfCall (w : CfWord) (s : State) : Out := runWord (.cfCall w) noIll (callTo (fun v _ => v.near)) s

/-- callx (R203, R204). -/
def execCfCallx (w : CfWord) (s : State) : Out :=
  runWord (.cfCallx w) noIll (fun v s => v.targetsOk s (callTo Env.far v s)) s

/-- ret: CheckPop of every issued lane, then the group parks until its stack load returns and the lanes pop (R202 to R204). -/
def execCfRet (w : CfWord) (s : State) : Out :=
  runWord (.cfRet w) noIll (fun v s =>
    let d (l : Nat) : Nat := (v.x.lane l).depth
    match v.lanes.filter (fun l => d l = 0) with
    | l :: ls => .trap s { cause := .stack, tmask := (l :: ls).foldl (fun m l => m ||| Mask.single l) 0 }
    | [] =>
      match v.busy false with
      | some p => .park s p
      | none =>
        checked (v.check s { space := 4, n := 4, align := 4, write := false }
            (v.lanes.map (fun l => ⟨l, v.x.ctl.stklim - 4 * d l⟩))) (fun s bytes =>
          match bytes.mapM (fun b => (b.2.mapM (s.readOwn v.g)).map (fun bs => (b.1, BitVec.ofNat 32 (ofBytes bs)))) with
          | none => .park s .ownAtomic
          | some (ps : List (Nat × Word)) =>
            if v.x.io.pend.any Pend.isFar then .park s .earlierLoad
            else
              let (id, s) := s.fresh
              .park (s.modGroup v.g (fun x => x.modIo (fun io => { io with pend := io.pend ++
                [{ id := id, regs := [], flag := none, pc := v.cl.own, lanes := v.act, kind := .ret ps
                   addr := match v.lanes with
                     | l :: _ => v.x.ctl.stklim - 4 * d l
                     | [] => 0
                   homes := homesOf (bytes.map (·.2)).flatten }] }))) (.ret id))) s

/-- meet (R193, R203). -/
def execCfMeet (w : CfWord) (s : State) : Out :=
  runWord (.cfMeet w) noIll (fun v s =>
    .done (s.modGroup v.g (fun x => (x.mapLanes v.act (fun _ y => { y with mr := v.near })).meet))) s

/-- The lanes of a mask exit; rows of a waiting neval at which no lane stands or will resume are abandoned (R203, 15_net
R289). -/
def State.exitNow (s : State) (g : Nat) (m : Mask) : State :=
  let s := s.exitLanes g m
  match s.group g with
  | some x => if x.ctl.tdepth = 0 ∨ x.live = 0 then s.dropNeval g else s
  | none => s

/-- Every lane that has not exited exits by the instruction, and an access of the group is not yet complete: the group's
outstanding loads and stores come first, and an error of theirs is taken at this exit (R201, 05_memory R106). -/
def Env.lastWaits (v : Env) : Bool := v.x.live &&& ~~~v.act = 0 && !v.x.drained

/-- exit (R203): it publishes as tcommit does, and waits for that (08_queue R174). -/
def execCfExit (w : CfWord) (s : State) : Out :=
  runWord (.cfExit w) noIll (fun v s =>
    if v.publishWaits v.act || v.lastWaits then .park s .drain
    else .ended ((s.exitNow v.g v.act).modGroup v.g Group.endIssue)) s

/-- The samples of bound lanes marked as discarded: one atomic, in ascending lane order (16_view R333). -/
def Env.markKilled (v : Env) (s : State) (f : State → Eff) : Eff :=
  let bound := v.lanes.filterMap (fun l => (v.x.lane l).vbind.map (fun a => (⟨l, a⟩ : LaneAcc)))
  if bound = [] then f s
  else
    match v.busy true with
    | some p => .park s p
    | none =>
      checked (v.check s { space := 1, n := 4, align := 4, write := true, atomic := true } bound) (fun s bytes =>
        let lanes := bytes.filterMap (fun b => b.2.head?.map (fun l => (⟨b.1, l, 0x40000000, 0⟩ : AtomLane)))
        let s := v.enqueue s
          { work := .atomic .or .b32 lanes none, flag := none, pc := v.cl.own
            lanes := bound.foldl (fun m a => m ||| Mask.single a.lane) 0, addr := (bound.map (·.addr)).headD 0, far := false }
          (linesOf bytes)
        f (s.unstitchRo v.x.core))

/-- kill (R203, 16_view R333). -/
def execCfKill (w : CfWord) (s : State) : Out :=
  runWord (.cfKill w) noIll (fun v s =>
    if v.publishWaits v.act || v.lastWaits then .park s .drain
    else v.markKilled s (fun s => .done (s.exitNow v.g v.act))) s

/-- yield (R197, R203): the issued lanes are marked for StepAside, and the windows that hold rows of the group close. -/
def execCfYield (w : CfWord) (s : State) : Out :=
  runWord (.cfYield w) noIll (fun v s =>
    .done ((s.closeFor v.g).modGroup v.g (fun x =>
      x.modFlow (fun f => { f with clause := f.clause.map (fun c => { c with aside := true }) })))) s

/-- nop (R203). -/
def execCfNop (w : CfWord) (s : State) : Out := runWord (.cfNop w) noIll (fun _ s => .done s) s

end Sys2Proof.Machine
end

