-- ==== Sys2Proof/Machine/Preempt.lean ====
section
/-!
DEFINITION. Pre-emption (07_context R152 to R154, 08_queue R173, 15_net R297, 16_view R336, 17_ray R354): when a team can
be saved, what the save area takes, what goes back, and what is discarded.
-/
namespace Sys2Proof.Machine

/-- A group has nothing in flight at the memory side (07_context R153 step 1). -/
def Group.quiet (x : Group) : Bool :=
  x.io.sq.isEmpty && x.io.pend.all (fun p => match p.kind with
    | .engine _ | .qpost .. | .block _ (some _) => true
    | _ => false)

/-- A tile operation that waits for an absent B line (14_tile R273, R281). -/
def State.withdrawable (s : State) (core : Nat) (o : TileOp) : Bool :=
  match o.work with
  | .mma _ _ _ _ _ m base k0 => !((m.offsets base k0).map (· / 128)).all (fun n => s.present core n)
  | _ => false

/-- The tile operations of a group, oldest first. -/
def State.tileOps (s : State) (core g : Nat) : List TileOp := (s.core core).tileq.filter (fun o => o.group = g)

/-- The tile operations of a group are complete, or the oldest waits for an absent line and all are withdrawn. -/
def State.tilesStop (s : State) (core g : Nat) : Bool :=
  match s.tileOps core g with
  | [] => true
  | o :: _ => s.withdrawable core o

/-- One group has stopped (07_context R153 step 1): it stands at a clause boundary or a park, its accesses and tile operations
are complete or to be withdrawn. A cluster barrier that has completed is left first (12_barrier R233). A group at a tile
instruction is saved at its word (14_tile R281). -/
def State.groupStands (s : State) (g : Nat) (x : Group) : Bool :=
  let stands : Bool := match x.flow.clause, x.flow.park with
    | none, _ => true
    | some _, none => false
    | some _, some (.walk _ _ false) => false
    | some _, some (.barrier 1 k) => !s.barrierMet g 1 k
    | some _, some _ => true
  stands && x.quiet && !x.flow.ended && s.tilesStop x.core g

/-- One group can be saved: it has stopped, and its view operations are complete or withdrawn (07_context R153 step 3). -/
def State.groupStops (s : State) (g : Nat) (x : Group) : Bool :=
  s.groupStands g x && (s.cluster (clusterOfCore x.core)).viewq.all (fun o => o.group ≠ g)

/-- A tile or view operation of the team whose group has ended; one parked on a fault slot does not count where the team is
to be thrown away. -/
def State.orphans (s : State) (tid : Nat) (drop : Bool) : Bool :=
  s.cores.any (fun c => c.2.tileq.any (fun o => o.team = tid && (s.group o.group).isNone))
    || s.clusters.any (fun c => c.2.viewq.any (fun o => o.team = tid && (s.group o.group).isNone && !(drop && o.parked)))

/-- No window but a Faulted one holds a row of the team (07_context R153 step 2). -/
def State.noRows (s : State) (tid : Nat) : Bool :=
  s.cores.all (fun c => c.2.windows.all (fun w => w.2.st = .faulted || w.2.rows.all (fun r => r.team ≠ tid)))

/-- Every group of a placed team can be saved, and engine work that cannot be withdrawn is done. -/
def State.canSave (s : State) (tid : Nat) (drop : Bool := false) : Bool :=
  s.groups.all (fun g => g.2.team ≠ tid || !g.2.on || s.groupStops g.1 g.2) && !s.orphans tid drop && s.noRows tid

/-- A window holds a row of a team that is at step 2 of R153: its groups have stopped (15_net R290, R297). -/
def State.winLeaving (s : State) (x : Window) : Bool :=
  x.rows.any (fun q => match s.team q.team with
    | some t => t.preempt && s.groups.all (fun g => g.2.team ≠ q.team || !g.2.on || s.groupStands g.1 g.2)
    | none => false)

/-- WINDOW_TIMER_EXPIRY (15_net R290): %window ac have passed since an Open window opened, or step 2 of a pre-emption has begun
for a team with a row in it. -/
def execEvWindowTimerExpiry (core window : Nat) (s : State) : Out :=
  event (
    let x := (s.core core).win window
    if x.st = .opened ∧ (x.openedAt + x.timer ≤ s.sched.now ∨ s.winLeaving x) then some (s.closeWindow core window)
    else none)

/-- WINDOW_ENTER_LOCKS (15_net R291): a Closed window enters one source range a layer where the table has room; during step 2 of
a pre-emption of a team of its rows it enters none. -/
def execEvWindowEnterLocks (core window : Nat) (s : State) : Out :=
  event (
    let x := (s.core core).win window
    match x.snap with
    | some sn =>
      if x.st ≠ .closed ∨ x.locked then none
      else
        let r := sn.net
        let ls : List Lock := if s.winLeaving x then [] else (List.range r.nl).map (fun l =>
          ⟨if r.wcsp then .csp else .glob, r.wbase l, r.wbase l + r.boff l + 4 * r.wid l, false, x.uid, []⟩)
        match (s.core core).enterLocks ls with
        | some c => some ((s.setCore core c).setWin core window { x with locked := true })
        | none => none
    | none => none)

/-- The lanes of an operation that is withdrawn go back to its word, in its own clause, but for those that have gone back to an
older one (14_tile R281, 16_view R336). -/
def Group.backTo (x : Group) (uid : Nat) (lanes : Mask) (pc cbase : Word) : Group :=
  let older := x.flow.redo.foldl (fun m e => if e.1 < uid then m ||| e.2 else m) 0
  let lanes := lanes &&& ~~~older
  let y := x.mapLanes lanes (fun _ (l : Lane) => if l.st = .exited then l else { l with pc := pc, cb := cbase, st := .ready })
  y.modFlow (fun f => { f with clause := none, park := none, redo := (uid, lanes) :: f.redo })

/-- The tile operations of a group withdrawn: flags are uncounted, results no longer pending, and the group goes back to
their words, each lane to its oldest. -/
def State.withdrawTiles (s : State) (core g : Nat) : State :=
  let ops := s.tileOps core g
  let s := s.modCore core (fun c => { c with tileq := c.tileq.filter (fun q => q.group ≠ g) })
  ops.foldl (fun s q => ((s.endOp g q.uid []).unlock core q.uid).modGroup g (fun x => x.backTo q.uid q.lanes q.pc q.cbase)) s

/-- A team has reached step 3 of R153: it is asked to leave, its groups have stopped, and its rows are out of the windows. -/
def State.atStep3 (s : State) (tid : Nat) : Bool :=
  (match s.team tid with
    | some t => t.preempt
    | none => false) && s.groups.all (fun g => g.2.team ≠ tid || !g.2.on || s.groupStands g.1 g.2) && s.noRows tid

/-- A view operation parked on a fault slot withdrawn: its group goes back to its word. Those queued behind it complete
(16_view R336). -/
def State.withdrawView (s : State) (cl : Nat) (o : ViewOp) : State :=
  (s.endView cl o).modGroup o.group (fun x => x.backTo o.uid o.lanes o.pc o.cbase)

/-- The oldest operation of a view unit is performed, parks on a fault slot, or stops.
`res` is the memory error or lost link at which it stops. One that is parked is withdrawn where its team is at step 3 of a
pre-emption (16_view R329, R335, R336). -/
def State.runViewHead (s : State) (cluster : Nat) (res : IoEnd) : Option State :=
  match (s.cluster cluster).viewq with
    | [] => none
    | o :: _ =>
      if o.parked then (if s.atStep3 o.team && (s.group o.group).isSome then some (s.withdrawView cluster o) else none)
      else if o.ran || (res = .link && !o.global) then none
      else
        let (s, cut) := s.cutOf o res
        match (s.walked (fun p => p = .view o.uid)).runView cluster o cut with
        | .ok s => some (s.modViewOp cluster o.uid (fun q => { q with ran := true }))
        | .stop s c va => some (s.stopView cluster o c va (c.info o.pc))
        | .fault s w va r lv e pa =>
          let s := s.postEngine (cluster / 80) 4 (o.core % 320) o.ctx w (.view o.uid) va r lv e pa
          some (s.modViewOp cluster o.uid (fun q => { q with parked := true, faultVa := va }))

/-- VIEW_OP_RUN (16_view R329, R335, R336). -/
def execEvViewOpRun (cluster : Nat) (res : IoEnd) (s : State) : Out :=
  event ((s.corrected res).1.runViewHead cluster (s.corrected res).2)

/-- The park of a group as it is saved: a wait is tried again at its word after restore, a pending frame or a fatal trap
stays. -/
def Flow.saved (f : Flow) : Flow :=
  let park : Option Park := match f.park with
    | some (.frame t i n c m) => some (.frame t i n c m)
    | some .fatal => some .fatal
    | some _ => if f.clause.isSome then some .ready else none
    | none => none
  { f with park := park, stop := false, passed := [], ahead := [], redo := [] }

/-- The bytes of a ray's record in the pool of a context, as a die reaches them; none where they cannot be reached. -/
def State.rayLocs (s : State) (die c : Nat) (x : Group) (i : Nat) (write : Bool) : State × Option (List Loc) :=
  match s.engBytes die c false write false (x.poolAddr i) 64 with
  | (s, .ok ls) => (s, some ls)
  | (s, _) => (s, none)

/-- Step 4 of R153: every bound lane's slot is written to the pool as rstore writes it, without unbinding (17_ray R354;
log 43). -/
def State.saveRays (s : State) (c g : Nat) : State :=
  match s.group g with
  | none => s
  | some x =>
    (List.range x.w).foldl (fun s l =>
      let r := (x.lane l).ray
      match r.index with
      | none => s
      | some i =>
        let s := match s.rayLocs (dieOfCore x.core) c x i true with
          | (s, some ls) => s.engWrite false ls (((r.record r.ref).map (fun (w : Word) => toBytes 4 w.toNat)).flatten)
          | (s, none) => s
        s.modGroup g (fun x => x.modRay l (fun r => { r with lost := min 255 (r.lost + r.stack.length), stack := [] }))) s

/-- A bound lane reloads its slot from the pool as rload does; a record in another module is a free value (17_ray R354; logs 8
and 43). -/
def State.loadRays (s : State) (c g : Nat) : State :=
  match s.group g with
  | none => s
  | some x =>
    (List.range x.w).foldl (fun s l =>
      match (x.lane l).ray.index with
      | none => s
      | some i =>
        match s.rayLocs (dieOfCore x.core) c x i false with
        | (s, some ls) =>
          let (s, bs) := s.engRead false ls
          let ws := wordsOf bs
          s.modGroup g (fun x => x.modRay l (fun r =>
            { r with words := ws, ref := nth 0 ws 10, lost := bits (nth 0 ws 9).toNat 15 8, stack := [] }))
        | (s, none) => s) s

/-- The range-lock entries of a group's maps freed, with the group's last mma where one is in flight (14_tile R268). -/
def State.dropMapLocks (s : State) (core g : Nat) : State :=
  match s.group g with
  | none => s
  | some x =>
    let ls := x.io.maps.filterMap (fun m => m.2.map (·.lock))
    match ((s.tileOps core g).filter (·.isMma)).getLast? with
    | none => s.freeEntries core ls
    | some o => s.modCore core (fun c =>
        { c with tileq := c.tileq.map (fun q => if q.uid = o.uid then { q with frees := ls } else q) })

/-- What a group leaves of its core: waits, locks of maps, the engine. Its arrival at a cluster barrier stays counted
(12_barrier R228). -/
def State.release (s : State) (g : Nat) : State :=
  match s.group g with
  | none => s
  | some x =>
    let s := s.leaveSlots (Party.isGroup g)
    let s := (s.leaveGrow x.core g).leaveReceive (clusterOfCore x.core) g
    let s := s.dropMapLocks x.core g
    s.modCore x.core (fun k => if k.holder = some (.group g) then { k with holder := none } else k)

/-- What a group leaves that is saved or thrown away: its arrivals at cluster barriers too (12_barrier R233). -/
def State.detach (s : State) (g : Nat) : State := (s.withdrawArrivals g).release g

/-- One group saved (07_context R153 step 6). -/
def State.saveGroup (s : State) (c g : Nat) : State :=
  match s.group g with
  | none => s
  | some x =>
    let s := s.withdrawTiles x.core g
    let s := ((s.saveRays c g).flushStack g).detach g
    let w := x.wdog s.sched.now
    let s := s.modGroup g (fun y =>
      ({ y with on := false, grans := [] }.modCtl (fun k => { k with wdogSaved := w })).modFlow Flow.saved)
    let s := if s.sched.turn = some g then s.setTurn none else s
    s.leaveCore c x.core

/-- A region as it is saved. -/
def State.regionImg (s : State) (core line n : Nat) : RegionImg :=
  ⟨core % 4, line, n, s.spLines core line n, (List.range n).filter (fun i => s.present core (line + i))⟩

/-- What the save area holds of a team beside its groups. -/
def State.teamImg (s : State) (tid : Nat) (t : Team) : Save :=
  let gs := s.groups.filter (fun g => g.2.team = tid && g.2.on)
  let tile (g : Nat × Group) : Nat × Tab Word × Tab Int :=
    let k := s.core g.2.core
    let cut {α : Type} (w : Nat) (m : Tab α) : Tab α :=
      (m.filter (fun e => w * g.2.tile0 ≤ e.1 && e.1 < w * (g.2.tile0 + g.2.tiles))).map (fun e => (e.1 - w * g.2.tile0, e.2))
    (g.1, cut 1024 k.acc, cut 1 k.sx)
  { regions := t.cores.map (fun c => s.regionImg c.core c.region t.kern.spTeam)
      ++ t.privs.map (fun p => s.regionImg p.2.1 p.2.2.1 t.kern.spPriv)
    handles := t.cores.map (fun c => (c.core % 4, (List.range t.kern.hndl).map (fun h => (s.core c.core).handle (c.handle0 + h))))
    tiles := gs.map tile }

/-- The transfers of a team stop at an element boundary: counters, ranges and generator state are kept, and the ranges are
released (13_transfer R254). -/
def State.holdTransfers (s : State) (tid : Nat) : State :=
  let all := (s.engines.map (fun e => e.2.queue.filter (fun t => t.team = tid && t.held.isNone))).flatten
  let locks (t : Transfer) : List Lock :=
    (s.core t.core).locks.filterMap (fun l => match l.2 with
      | some k => if k.owner = t.uid then some k else none
      | none => none)
  let hold (seed : Word) (t : Transfer) : Transfer :=
    if t.team = tid && t.held.isNone then
      { t with
        held := some (locks t, t.resume.getD seed), resume := if t.started || t.resume.isSome then some (t.resume.getD seed) else none
        started := false, parked := false }
    else t
  let one (e : Nat × Engine) : Nat × Engine := (e.1, { e.2 with queue := e.2.queue.map (hold e.2.seed) })
  let s := { s with engines := s.engines.map one }
  all.foldl (fun s t => (s.unlock t.core t.uid).leaveSlots (fun p => p = .copy t.uid)) s

/-- A record whose teams are not all placed (08_queue R165). -/
def State.recordPlacing (s : State) (r : Option Nat) : State :=
  match r with
  | none => s
  | some k => match Tab.find s.records k with
    | some x => { s with records := Tab.ins s.records k { x with st := .placing } }
    | none => s

/-- The cores that a team stands on. -/
def State.coresOf (s : State) (tid : Nat) : List Nat :=
  ((s.groups.filter (fun g => g.2.team = tid && g.2.on)).map (fun g => g.2.core)).eraseDups

/-- The rows of a team leave the windows of a core; a window left without a row is Free. -/
def State.dropRows (s : State) (core tid : Nat) : State :=
  (List.range 4).foldl (fun s w =>
    let x := (s.core core).win w
    let rest := x.rows.filter (fun r => r.team ≠ tid)
    if rest = x.rows then s
    else if rest = [] then s.clearWindow core w
    else s.setWin core w { x with rows := rest }) s

/-- A team saved (07_context R153): what the save area holds of it is State.saves and the group records themselves. Which bytes
of memory the save area's pages then hold is left open, and the model leaves memory as it is (DESIGN CHOICE, log 72). The arrivals
that go back are those of the groups that still live: R233 says the team's groups, R228 that the arrival of one that has ended
stays counted (DESIGN CHOICE, log 93). -/
def State.saveTeam (s : State) (tid : Nat) : State :=
  match s.team tid with
  | none => s
  | some t =>
    let gs := (s.groups.filter (fun g => g.2.team = tid && g.2.on)).map (·.1)
    let s := (s.coresOf tid).foldl (fun s k => s.takeRows k tid) s
    -- rows of groups that have ended
    let s := t.cores.foldl (fun s c => s.dropRows c.core tid) s
    let s := s.holdTransfers tid
    let img := s.teamImg tid t
    let s := gs.foldl (fun s g => s.saveGroup t.ctx g) s
    let s := t.cores.foldl (fun s c => (List.range t.kern.hndl).foldl (fun s h => s.putHandle c.core (c.handle0 + h) {}) s) s
    let s := { s with saves := Tab.ins s.saves tid img }
    (s.modTeam tid (fun t => { t with st := .saved, preempt := false })).recordPlacing t.record

/-- The engine work of a team abandoned: transfers, view operations and tile operations leave their queues (08_queue R173,
13_transfer R254). -/
def State.abandon (s : State) (tid : Nat) : State :=
  let gone := (s.engines.map (fun e => (e.2.queue.filter (fun t => t.team = tid)).map (fun t => (e.1, t)))).flatten
  let keep (e : Nat × Engine) : Nat × Engine := (e.1, { e.2 with queue := e.2.queue.filter (fun t => t.team ≠ tid) })
  let s := { s with engines := s.engines.map keep }
  let s := gone.foldl (fun s t =>
    let s := (s.unlock t.2.core t.2.uid).leaveSlots (fun p => p = .copy t.2.uid)
    match t.2.pin with
    | some (k, _) => s.switchBook (t.1 / 8) k
    | none => s) s
  let s := s.clusters.foldl (fun s c =>
    (c.2.viewq.filter (fun o => o.team = tid)).foldl (fun s o =>
      ((s.modCluster c.1 (fun k => { k with viewq := k.viewq.filter (fun q => q.uid ≠ o.uid) })).unlock o.core o.uid).leaveSlots
        (fun p => p = .view o.uid)) s) s
  s.cores.foldl (fun s k =>
    (k.2.tileq.filter (fun o => o.team = tid)).foldl (fun s o =>
      ((s.modCore k.1 (fun c => { c with tileq := c.tileq.filter (fun q => q.uid ≠ o.uid) })).freeEntries k.1 o.frees).unlock
        k.1 o.uid) s) s

/-- The team's handles return to Free, its stack areas are free, and it is gone with its groups. -/
def State.removeTeam (s : State) (tid : Nat) : State :=
  match s.team tid with
  | none => s
  | some t =>
    let s := if t.st = .saved then s
      else t.cores.foldl (fun s c => (List.range t.kern.hndl).foldl (fun s h => s.putHandle c.core (c.handle0 + h) {}) s) s
    let s := s.modCtx t.ctx (fun x => { x with areas := x.areas.filter (fun a => !(a.1 = t.kern.stkArena && t.areas.contains a.2)) })
    { s with groups := s.groups.filter (fun g => g.2.team ≠ tid), teams := Tab.del s.teams tid, saves := Tab.del s.saves tid }

/-- A team thrown away with everything it holds (08_queue R173; RETIRE, 07_context R142), its bound ray slots written to the pool
first: step 4 of R153 precedes step 5 (17_ray R354). -/
def State.dropTeam (s : State) (tid : Nat) : State :=
  match s.team tid with
  | none => s
  | some t =>
    let gs := s.groups.filter (fun g => g.2.team = tid && g.2.on)
    let cores := s.coresOf tid
    let s := (t.cores.foldl (fun s c => s.dropRows c.core tid) s).abandon tid
    let s := gs.foldl (fun s g => ((s.saveRays t.ctx g.1).flushStack g.1).detach g.1) s
    let s := if gs.any (fun g => s.sched.turn = some g.1) then s.setTurn none else s
    let off (g : Nat × Group) : Nat × Group := if g.2.team = tid then (g.1, { g.2 with on := false }) else g
    let s := { s with groups := s.groups.map off }
    let s := cores.foldl (fun s k => s.leaveCore t.ctx k) s
    s.removeTeam tid

/-- A task group none of whose lanes has committed: a team whose group has ended committed every lane at its exit
(08_queue R171, R173). -/
def State.uncommitted (s : State) (tid : Nat) (t : Team) : Bool :=
  t.taskq.isSome && s.groups.any (fun g => g.2.team = tid)
    && (s.groups.filter (fun g => g.2.team = tid)).all (fun g => g.2.lanes.all (fun l => !l.committed))

/-- The task records of a discarded group: Running ones are Queued again under their sequence numbers, Pending slots and
reservations are Free (08_queue R173). The gather wait of such a record counts from when it was first published: R173 keeps its
sequence number and names no time (DESIGN CHOICE, log 87). -/
def State.returnTasks (s : State) (tid : Nat) (t : Team) : State :=
  match t.taskq with
  | none => s
  | some q =>
    (s.groups.filter (fun g => g.2.team = tid)).foldl (fun s g =>
      g.2.lanes.foldl (fun s l =>
        s.modCtx t.ctx (fun x =>
          let x := match l.taskSlot with
            | some k =>
              let tq := x.queue q
              match tq.slot k with
              | some r => x.setQueue q (tq.setSlot k (some { r with st := .queued }))
              | none => x
            | none => x
          let x := l.pending.foldl (fun x p => x.setQueue p.1 ((x.queue p.1).setSlot p.2 none)) x
          if l.res = 0 then x else x.setQueue l.resQ ((x.queue l.resQ).unreserve l.res))) s) s

/-- A team that has stopped leaves its cluster: saved, or discarded where it is an uncommitted task group (07_context R153
steps 5 and 6). -/
def State.withdrawTeam (s : State) (tid : Nat) : State :=
  match s.team tid with
  | none => s
  | some t => if s.uncommitted tid t then (s.returnTasks tid t).dropTeam tid else s.saveTeam tid

/-- A saved transfer goes on: it re-enters its ranges on the team's core (07_context R154). -/
def State.resumeTransfers (s : State) (tid cluster : Nat) : State :=
  let all := (s.engines.map (fun e => e.2.queue.filter (fun t => t.team = tid))).flatten
  let put (t : Transfer) : Transfer :=
    if t.team = tid then { t with core := 4 * cluster + t.core % 4, held := none } else t
  let one (e : Nat × Engine) : Nat × Engine := (e.1, { e.2 with queue := e.2.queue.map put })
  let s := { s with engines := s.engines.map one }
  all.foldl (fun s t =>
    let core := 4 * cluster + t.core % 4
    match t.held with
    | some (ls, _) =>
      match (s.core core).enterLocks ls with
      | some c => s.setCore core c
      | none => s
    | none => s) s

/-- A saved team placed again on a cluster: `plan` gives each group its slot and register blocks (07_context R153 step 6,
R154). A team that was Ending when it was pre-empted is Ending again: R152 and R153 take every team, R188's row for Ending names
no pre-emption (DESIGN CHOICE, log 91). -/
def State.restoreTeam (s : State) (tid cluster : Nat) (plan : List (Nat × Nat × List Nat)) : State :=
  match s.team tid with
  | none => s
  | some t =>
    let img := Tab.get {} s.saves tid
    let core (k : Nat) : Nat := 4 * cluster + k % 4
    let moveCore (c : TeamCore) : TeamCore := { c with core := core c.core }
    let movePriv (p : Nat × Nat × Nat × Bool) : Nat × Nat × Nat × Bool := (p.1, core p.2.1, p.2.2.1, p.2.2.2)
    let t : Team := { t with
      cluster := cluster, st := if s.groups.any (fun g => g.2.team = tid) then .placed else .ending, preempt := false,
      cores := t.cores.map moveCore, privs := t.privs.map movePriv }
    let back (s : State) (p : Nat × Nat × List Nat) : State :=
      match s.group p.1 with
      | none => s
      | some x =>
        let k := core x.core
        let s := (s.enterCore t.ctx k).enterCluster t.ctx cluster
        s.setGroup p.1 ({ x with core := k, slot := p.2.1, grans := p.2.2, on := true }.modCtl (fun c =>
          { c with wdog0 := (s.sched.now : Int) - c.wdogSaved }))
    let s := plan.foldl back s
    let s := img.regions.foldl (fun s r =>
      let s := s.setSpLines (core r.core) r.line r.count r.bytes
      (List.range r.count).foldl (fun s i => s.mark (core r.core) (r.line + i) (r.present.contains i)) s) s
    let s := t.cores.foldl (fun s c =>
      match img.handles.find? (fun h => h.1 = c.core % 4) with
      | some h => (h.2.foldl (fun (q : State × Nat) x => (q.1.putHandle c.core q.2 x, q.2 + 1)) (s, c.handle0)).1
      | none => s) s
    let s := img.tiles.foldl (fun s e => match s.group e.1 with
      | some x => s.setTiles x.core x.tile0 x.tiles e.2.1 e.2.2
      | none => s) s
    let s := ({ s with saves := Tab.del s.saves tid }).setTeam tid t
    let s := plan.foldl (fun s p => match s.group p.1 with
      | some x => x.io.maps.foldl (fun s m => match m.2 with
        | some o => s.refreshMapLock x.core o.lock
        | none => s) s
      | none => s) s
    let s := s.resumeTransfers tid cluster
    (plan.foldl (fun s p => s.loadRays t.ctx p.1) s).nowRunning t.ctx

end Sys2Proof.Machine
end

