-- ==== Sys2Proof/Machine/Tenant.lean ====
section
/-!
DEFINITION. Context slots and their commands (07_context R139 to R143): the descriptor and its checks, INSTALL, SUSPEND,
RESUME, RETIRE, and the end of Draining.
-/
namespace Sys2Proof.Machine

/-- The fields of a context descriptor (R139). -/
def Desc.of (x : Nat) : Desc :=
  { cspg := (List.range 8).map (fun d => bits x (343 + 24 * d) (320 + 24 * d)), map := bits x 319 268
    entryq := bits x 267 216, codebase := bits x 215 196, trappc := BitVec.ofNat 32 (bits x 195 164)
    save := bits x 163 132, root := bits x 131 100, watch := bits x 99 76, key := bits x 59 52, pbase := bits x 51 49
    psize := bits x 48 47, classes := bits x 46 43 }

/-- The reserved fields of a descriptor are 0 (R139). -/
def descReserved (x : Nat) : Bool := bits x 75 60 = 0 && bits x 42 0 = 0

/-- Bytes of region 0 on one die, within installed capacity (06_page R127). -/
def State.inRegion0 (s : State) (pa n : Nat) : Bool := pa < 2 ^ 39 && pa % 2 ^ 36 + n ≤ s.capacity

/-- The dies of a partition. -/
def Desc.dies (d : Desc) : List Nat := (List.range (2 ^ d.psize)).map (fun i => d.pbase + i)

/-- The descriptor's grant on a die: first unit and number of units of 64 KiB. -/
def Desc.grantOn (d : Desc) (die : Nat) : Nat × Nat := (bits (nth 0 d.cspg die) 11 0, bits (nth 0 d.cspg die) 23 12)

/-- A context takes part in the checks of others (R141): its descriptor has been read. -/
def CtxSt.installed (st : CtxSt) : Bool :=
  st = .resident || st = .running || st = .draining || st = .saved || st = .faulted

/-- The partition and grants of a descriptor agree with those of another context: a grant of no units overlaps nothing
(R141). -/
def Desc.agrees (d o : Desc) : Bool :=
  (decide (d.dies = o.dies) || d.dies.all (fun k => !o.dies.contains k))
    && (List.range 8).all (fun k =>
      let a := d.grantOn k
      let b := o.grantOn k
      a.2 = 0 || b.2 = 0 || !overlaps a.1 (a.1 + a.2) b.1 (b.1 + b.2))

/-- The checks of R141 on a descriptor for slot k, but for the module map. -/
def State.descOk (s : State) (k x : Nat) : Bool :=
  let d := Desc.of x
  descReserved x && s.inRegion0 (4096 * d.root) 4096 && s.inRegion0 (4096 * d.save) (384 * 2 ^ 20 * 2 ^ d.psize)
    && d.pbase % 2 ^ d.psize = 0 && d.classes ≠ 0 && Tab.get false s.keyFull d.key
    && (d.trappc = clearWord || d.trappc.toNat % 4 = 0)
    && (List.range 8).all (fun i =>
      let g := d.grantOn i
      (d.dies.contains i || nth 0 d.cspg i = 0) && g.1 + g.2 ≤ 3072)
    && (List.range 64).all (fun j => j = k || !(s.ctx j).st.installed || d.agrees (s.ctx j).d)

/-- A module map as read: entry 0 is ignored, and an entry with a reserved bit set refuses the command (18_link R363). -/
def readMap (bs : List Byte) : Option (Tab Word) :=
  let ws := wordsOf bs
  if (ws.drop 1).any (fun (w : Word) => bits w.toNat 30 24 ≠ 0) then none
  else some ((((ws.drop 1).mapIdx (fun i w => (i + 1, w))).foldl (fun (t : Tab Word) (e : Nat × Word) => Tab.set 0 t e.1 e.2) []))

/-- INSTALL and RESUME read the descriptor and the module map (R141, 18_link R363): the context as it then stands, or none
where a check fails (ECODE 2). -/
def State.readDesc (s : State) (k : Nat) : Option State :=
  let a := (s.ctx k).descAddr
  if !s.inRegion0 a 64 then none
  else
    let x := ofBytes (s.readPaN a noKey 64)
    if !s.descOk k x then none
    else
      let s := s.modCtx k (fun c => { c with d := Desc.of x })
      match s.virt k (Desc.of x).map 16384 false with
      | (s, some ls) => (readMap (s.readLocs ls)).map (fun m => s.modCtx k (fun c => { c with map := m }))
      | (_, none) => none

/-- A command refused: ERR is set and ECODE written (R140). -/
def State.refuseCmd (s : State) (k code : Nat) : State := s.modCtx k (fun c => { c with err := true, ecode := code })

/-- BUSY of a CTXCMD went to 0 (R140, 18_link R369). -/
def State.cmdDone (s : State) (k : Nat) : State := (s.modCtx k (fun c => { c with busy := false })).interrupt 2

/-- The context is installed or resumed: Resident, with the next generation (R142, R143). -/
def State.nowResident (s : State) (k : Nat) : State :=
  let mine := (s.cores.filter (fun c => c.2.owner = some k)).map (·.1)
  (mine.foldl (fun s i => s.flushStitch i) s).modCtx k (fun c =>
    { c with st := .resident, gen := c.gen + 1, moveStopped := false, fatal := false, quantumOut := false })

/-- INSTALL (R141, R142). -/
def State.install' (s : State) (k : Nat) : State :=
  match s.readDesc k with
  | none => s.refuseCmd k 2
  | some s => (s.nowResident k).cmdDone k

/-- RESUME (R142): `restored`: the restore from the save area succeeds. -/
def State.resume (s : State) (k : Nat) (restored : Bool) : State :=
  match s.readDesc k with
  | none => s.refuseCmd k 2
  | some s =>
    let s := s.nowResident k
    if restored then s.cmdDone k
    else ((s.modCtx k (fun c => { c with st := .faulted, how := 3 })).interrupt 1).cmdDone k

/-- Parties of posted faults that waited for a slot and now hold one. -/
def State.tookSlot (s : State) (die k : Nat) (ps : List Party) : State :=
  let on (g : Nat) (s : State) : State := s.modGroup g (fun x => x.modFlow (fun f =>
    { f with park := if f.park = some .slotless then some (.fault die k) else f.park }))
  ps.foldl (fun s p => match p with
    | .group g => on g s
    | .fetch g => on g s
    | _ => s) s

/-- The faults without a slot post where slots are free, in arrival order (06_page R134). -/
def State.repost (s : State) : State :=
  let waiting := s.slotless
  waiting.foldl (fun s q => match s.post q.die q.slot with
    | (s, some k) => s.tookSlot q.die k q.slot.parties
    | (s, none) => s) { s with slotless := [] }

/-- A byte of cluster scratchpads that a descriptor grants, under its key of State.csp. -/
def Desc.grants (d : Desc) (key : Nat) : Bool :=
  let g := d.grantOn (key / 2 ^ 28)
  g.1 * 2 ^ 16 ≤ key % 2 ^ 28 && key % 2 ^ 28 < (g.1 + g.2) * 2 ^ 16

/-- The contents of a context's grants are discarded: they read as zeros again (R142). -/
def State.emptyGrants (s : State) (k : Nat) : State :=
  { s with csp := s.csp.filter (fun b => !(s.ctx k).d.grants b.1) }

/-- RETIRE takes effect (R142): the context's work, queues, grants, counters and faults are discarded, its translations
leave every cache, and the slot is free. -/
def State.retireNow (s : State) (k : Nat) : State :=
  let s := (s.teams.filter (fun t => t.2.ctx = k)).foldl (fun s t => s.dropTeam t.1) s
  let s := { s with records := s.records.filter (fun r => r.2.ctx ≠ k) }
  let free (e : Nat × FaultSlot) : Bool := e.2.ctx = k && e.2.st = .posted
  let cut (e : Nat × List Leaf) : Nat × List Leaf := (e.1, e.2.filter (fun l => l.ctx ≠ some k))
  let s := { s with
    faults := s.faults.filter (fun e => !free e), slotless := s.slotless.filter (fun q => q.slot.ctx ≠ k)
    tlb := s.tlb.map cut, uppers := s.uppers.map (fun (e : Nat × List Upper) => (e.1, e.2.filter (fun u => u.ctx ≠ k))) }
  let s := s.repost
  let unbind (e : Nat × ViewSet) : Nat × ViewSet := if e.2.st ≠ VsSt.unbound ∧ e.2.ctx = k then (e.1, e.2.unbind) else e
  let book (e : Nat × Codebook) : Nat × Codebook := if e.2.owner = some k then (e.1, { gen := e.2.gen }) else e
  let s := s.reshow { s with vsets := s.vsets.map unbind, books := s.books.map book }
  let c := s.ctx k
  (s.emptyGrants k).setCtx k { err := c.err, ecode := c.ecode, gen := c.gen, descAddr := c.descAddr }

/-- RETIRE accepted (R140, R142). -/
def State.retire (s : State) (k : Nat) : State :=
  match (s.ctx k).st with
  | .running => (s.drain k).modCtx k (fun c => { c with retire := true, busy := true })
  | .draining => s.modCtx k (fun c => { c with retire := true, busy := true })
  | _ => (s.retireNow k).cmdDone k

/-- A command of CTXCMD decided (R140, R142): 1 INSTALL, 2 SUSPEND, 3 RESUME, 4 RETIRE; others are ignored. -/
def State.ctxCmd (s : State) (k cmd : Nat) (restored : Bool) : State :=
  let c := s.ctx k
  if cmd = 0 ∨ cmd > 4 then s
  else if c.busy && !(cmd = 4 && c.st = .draining) then s.refuseCmd k 3
  else
    match cmd, c.st with
    | 1, .built => s.install' k
    | 2, .resident => (s.modCtx k (fun c => { c with st := .saved })).cmdDone k
    | 2, .running => (s.drain k).modCtx k (fun c => { c with busy := true })
    | 3, .saved => s.resume k restored
    | 4, .retired => s.refuseCmd k 1
    | 4, _ => s.retire k
    | _, _ => s.refuseCmd k 1

/-- A write to CTXDESC (R140): bits [5:0] are reserved. -/
def State.writeDesc (s : State) (k addr : Nat) : State :=
  let a := bits addr 63 6 * 64
  match (s.ctx k).st with
  | .retired => s.modCtx k (fun c => { c with descAddr := a, st := .built })
  | .built => s.modCtx k (fun c => { c with descAddr := a })
  | .saved => s.modCtx k (fun c => { c with descAddr := a })
  | _ => s.refuseCmd k 1

/-- A host write that concerns a context slot. -/
def slotWrite (k : Nat) (s : State) (f : State → State) : Out := if k < 64 then hostWrite s f else .refused .notEnabled

/-- CTXDESC_WRITE (R140). -/
def execEvCtxdescWrite (ctx : Nat) (addr : Nat) (s : State) : Out := slotWrite ctx s (fun s => s.writeDesc ctx addr)

/-- INSTALL (R141, R142). -/
def execEvInstall (ctx : Nat) (s : State) : Out := slotWrite ctx s (fun s => s.ctxCmd ctx 1 true)

/-- SUSPEND (R142). -/
def execEvSuspend (ctx : Nat) (s : State) : Out := slotWrite ctx s (fun s => s.ctxCmd ctx 2 true)

/-- RESUME (R142). -/
def execEvResume (ctx : Nat) (restored : Bool) (s : State) : Out := slotWrite ctx s (fun s => s.ctxCmd ctx 3 restored)

/-- RETIRE (R142). -/
def execEvRetire (ctx : Nat) (s : State) : Out := slotWrite ctx s (fun s => s.ctxCmd ctx 4 true)

/-- The teams of a context that hold a cluster. -/
def State.placedTeams (s : State) (c : Nat) : List Nat :=
  (s.teams.filter (fun t => t.2.ctx = c && t.2.st ≠ .saved)).map (·.1)

/-- DRAINING_END (R142, R153): every team of a Draining context has stopped; they are saved, or discarded for a RETIRE. -/
def execEvDrainingEnd (ctx : Nat) (s : State) : Out :=
  event (
    let c := s.ctx ctx
    let ts := s.placedTeams ctx
    if c.st ≠ .draining ∨ !ts.all (fun t => s.canSave t c.retire) then none
    else
      let busy := c.busy
      let done (s : State) : State := if busy then s.cmdDone ctx else s
      if c.retire then some (done (s.retireNow ctx))
      else
        let s := ts.foldl (fun s t => s.withdrawTeam t) s
        if c.fatal then some (done ((s.modCtx ctx (fun c => { c with st := .faulted })).interrupt 1))
        else some (done (s.modCtx ctx (fun c => { c with st := .saved }))))

end Sys2Proof.Machine
end

