-- ==== Sys2Proof/Machine/Sched.lean ====
section
/-!
DEFINITION. The module scheduler (08_queue R164 to R168, R172; 09_kernel R184 to R188): the candidates of a placement
decision, placement, room made for display work and for an expired quantum, and the end of a team.
-/
namespace Sys2Proof.Machine

/-- What a candidate of a placement decision is (08_queue R166, R172; 07_context R154). -/
inductive CandKind where
  /-- a record in its launch queue -/
  | grid (record : Nat)
  /-- a task queue with a formable group -/
  | tasks (q : Nat)
  /-- a saved task group -/
  | back (team : Nat)
  deriving DecidableEq, Repr

/-- A candidate, with what ranks it (08_queue R166). -/
structure Cand where
  kind : CandKind
  ctx : Nat
  cls : Nat
  age : Nat
  blocks : Bool
  deriving DecidableEq, Repr

/-- The order of R166. -/
def Cand.key (c : Cand) : List Nat := [c.cls, c.age, c.ctx]

/-- Inserted in the order of R166. -/
def insertCand (c : Cand) : List Cand → List Cand
  | [] => [c]
  | d :: ds => if keyLt c.key d.key then c :: d :: ds else d :: insertCand c ds

/-- The teams of a grid (08_queue R160). -/
def Record.total (r : Record) : Nat := recGx r.words * recGy r.words * recGz r.words

/-- The groups in a team of a record (09_kernel R178, 08_queue R160). -/
def Record.size (r : Record) (k : Kernel) : Nat := if recTeamg r.words = 0 then k.team else recTeamg r.words

/-- A context whose records may be placed (08_queue R166). -/
def State.mayPlace (s : State) (c : Nat) : Bool := (s.ctx c).st = .resident || (s.ctx c).st = .running

/-- The candidates of a placement decision, in order (08_queue R166). -/
def State.candidates (s : State) : List Cand :=
  let grids := s.records.filterMap (fun e =>
    if (e.2.st = .ready || e.2.st = .placing) && recKind e.2.words = 0 then
      some (⟨.grid e.1, e.2.ctx, recClass e.2.words, e.2.age, e.2.blocks || 1024 ≤ e.2.passed⟩ : Cand)
    else none)
  let queue (c : Nat) (e : Nat × TaskQ) : Option Cand :=
    if e.2.formable then
      match e.2.nextTasks with
      | t :: _ => some ⟨.tasks e.1, c, e.2.cls, t.2.age, e.2.blocks || 1024 ≤ e.2.passed⟩
      | [] => none
    else none
  let queues := (s.ctxs.map (fun c => c.2.tq.filterMap (queue c.1))).flatten
  let saved := s.teams.filterMap (fun e =>
    if e.2.st = .saved && e.2.record.isNone then
      some (⟨.back e.1, e.2.ctx, e.2.cls, e.2.age, e.2.blocks || 1024 ≤ e.2.passed⟩ : Cand)
    else none)
  ((grids ++ queues ++ saved).filter (fun c => s.mayPlace c.ctx)).foldl (fun l c => insertCand c l) []

/-- The saved team of a record with the lowest %teamid (08_queue R165). -/
def State.firstSaved (s : State) (r : Nat) : Option (Nat × Team) :=
  (s.teams.filter (fun t => t.2.st = .saved && t.2.record = some r)).foldl (fun b t => match b with
    | none => some t
    | some u => if t.2.teamid < u.2.teamid then some t else some u) none

/-- The team that a candidate would place next: a saved one, or a new one of a kernel and size. -/
inductive NextTeam where
  | saved (tid : Nat) (t : Team)
  | new (k : Kernel) (size : Nat)
  | none
  deriving DecidableEq, Repr

/-- The next team of a candidate (08_queue R165, R172). -/
def State.nextTeam (s : State) (c : Cand) : NextTeam :=
  match c.kind with
  | .grid r =>
    match s.firstSaved r, Tab.find s.records r with
    | some t, _ => .saved t.1 t.2
    | none, some x => match x.kern with
      | some k => if x.next < x.total then .new k (x.size k) else .none
      | none => .none
    | none, none => .none
  | .tasks q => .new ((s.ctx c.ctx).queue q).kern 1
  | .back t => match s.team t with
    | some x => .saved t x
    | none => .none

/-- The candidate fits on a cluster, the teams `gone` removed (09_kernel R184, 07_context R154). -/
def State.fitsOn (s : State) (gone : List Nat) (c : Cand) (cl : Nat) : Bool :=
  match s.nextTeam c with
  | .saved tid t => (s.replanOn gone tid t cl).isSome
  | .new k n => (s.planOn gone c.ctx k n cl).isSome
  | .none => false

/-- The candidate fits on some cluster of its partition. -/
def State.fits (s : State) (gone : List Nat) (c : Cand) : Bool := (s.ctx c.ctx).clusters.any (s.fitsOn gone c)

/-- A unit that an access or a placement reaches wakes (19_device R379); the arithmetic clock runs again (R378). -/
def State.wakeCluster (s : State) (cl : Nat) : State :=
  (s.modCluster cl (fun k => { k with gated := false })).wakeModule

/-- The record of a candidate after one of its teams has been placed (08_queue R165, R166). -/
def State.recordPlaced (s : State) (r : Nat) (step : Nat) : State :=
  match Tab.find s.records r with
  | none => s
  | some x =>
    let x := { x with next := x.next + step, passed := 0, blocks := false }
    let all : Bool := x.total ≤ x.next && (s.firstSaved r).isNone
    { s with records := Tab.ins s.records r { x with st := if all then .placed else .placing } }

/-- A saved team placed again, where it fits first. -/
def State.placeSaved (s : State) (tid : Nat) (t : Team) : Option State :=
  (s.fitSaved [] tid t).map (fun p =>
    let s := ((s.wakeCluster p.1).restoreTeam tid p.1 p.2).modTeam tid (fun t => { t with passed := 0, blocks := false })
    match t.record with
    | some r => s.recordPlaced r 0
    | none => s)

/-- The lanes of a task group: lane i runs record i, and the lanes beyond start exited (08_queue R172). -/
def taskLanes (ts : List (Nat × TaskRec)) (x : Group) : Group :=
  let lane (i : Nat) (_ : Lane) : Lane := match ts[i]? with
    | some t => { pc := t.2.entry, committed := false, taskSlot := some t.1 }
    | none => { pc := 0, st := .exited, committed := false }
  let regs := (ts.mapIdx (fun i t => (i, t.2.args))).foldl (fun r e =>
    (e.2.mapIdx (fun j w => (j, w))).foldl (fun r a => r.setV a.1 e.1 a.2) r) x.regs
  { x with lanes := x.lanes.mapIdx lane, regs := regs }

/-- A group formed by a task queue and placed on a cluster (08_queue R172). -/
def State.placeTasks (s : State) (c q cl : Nat) (places : List Place) : State :=
  let tq := (s.ctx c).queue q
  let ts := tq.nextTasks
  let age := match ts with
    | t :: _ => t.2.age
    | [] => 0
  let run (t : TaskQ) (e : Nat × TaskRec) : TaskQ := t.setSlot e.1 (some { e.2 with st := .running })
  let s := (s.wakeCluster cl).modCtx c (fun x =>
    x.setQueue q { ts.foldl run tq with expired := false, passed := 0, blocks := false })
  s.startTeam { ctx := c, record := none, taskq := some q, kern := tq.kern, cls := tq.cls, age := age, size := 1, cluster := cl }
    tq.args [] places (taskLanes ts)

/-- The next team of a grid placed on a cluster (09_kernel R187). -/
def State.placeGrid (s : State) (r : Nat) (x : Record) (k : Kernel) (cl : Nat) (places : List Place) : State :=
  let w := x.words
  let grid := [nth 0 w 0, BitVec.ofNat 32 (recGy w), BitVec.ofNat 32 (recGz w)]
  let t : Team := { ctx := x.ctx, record := some r, teamid := x.next, kern := k, cls := recClass w, age := x.age
                    size := x.size k, cluster := cl }
  ((s.wakeCluster cl).startTeam t (recArgs w) grid places id).recordPlaced r 1

/-- The next team of a candidate placed; none where it fits nowhere (08_queue R166). -/
def State.place (s : State) (c : Cand) : Option State :=
  match s.nextTeam c, c.kind with
  | .saved tid t, _ => s.placeSaved tid t
  | .new k n, .grid r =>
    match Tab.find s.records r, s.fitNew [] c.ctx k n with
    | some x, some (cl, ps) => some (s.placeGrid r x k cl ps)
    | _, _ => none
  | .new k n, .tasks q => (s.fitNew [] c.ctx k n).map (fun p => s.placeTasks c.ctx q p.1 p.2)
  | .new _ _, .back _ => none
  | .none, _ => none

/-- A candidate passed over once more (08_queue R166). -/
def State.passOver (s : State) (c : Cand) : State :=
  match c.kind with
  | .grid r => match Tab.find s.records r with
    | some x => { s with records := Tab.ins s.records r { x with passed := min 1024 (x.passed + 1) } }
    | none => s
  | .tasks q => s.modCtx c.ctx (fun x => x.setQueue q { x.queue q with passed := min 1024 ((x.queue q).passed + 1) })
  | .back t => s.modTeam t (fun x => { x with passed := min 1024 (x.passed + 1) })

/-- One placement decision (08_queue R166): the first candidate that fits is placed, those tried before it are passed over,
and one that blocks holds back the younger of its class; `held`: the classes so held back. Where one that is held back fits, no
candidate of a lower class is placed. -/
def State.decision (s : State) : List Nat → List Cand → List Cand → Option State
  | _, _, [] => none
  | held, tried, c :: cs =>
    if held.contains c.cls then (if (s.place c).isSome then none else s.decision held tried cs)
    else
      match s.place c with
      | some s => some (tried.foldl (fun s t => s.passOver t) s)
      | none => s.decision (if c.blocks then c.cls :: held else held) (tried ++ [c]) cs

/-- A context all of whose teams have left the cores is Resident (07_context R142). -/
def State.nowIdle (s : State) (c : Nat) : State :=
  if (s.ctx c).st = .running ∧ s.placedTeams c = [] then s.modCtx c (fun x => { x with st := .resident }) else s

/-- Teams asked to give way on one cluster, other than those of a Draining context (07_context R152). -/
def State.leaving (s : State) (cl : Nat) : List (Nat × Team) :=
  s.teams.filter (fun t => t.2.preempt && t.2.st = .placed && t.2.cluster = cl && (s.ctx t.2.ctx).st ≠ .draining)

/-- The teams asked to give way leave a cluster together, once all of them have stopped. -/
def State.withdrawLeaving (s : State) : Option State :=
  match s.teams.find? (fun t =>
    let ts := s.leaving t.2.cluster
    ts ≠ [] && ts.all (fun u => s.canSave u.1)) with
  | none => none
  | some t => some ((s.leaving t.2.cluster).foldl (fun s u => (s.withdrawTeam u.1).nowIdle u.2.ctx) s)

/-- Inserted in the order in which teams are taken: lowest class first, youngest first within a class (08_queue R167). -/
def insertVictim (t : Nat × Team) : List (Nat × Team) → List (Nat × Team)
  | [] => [t]
  | u :: us =>
    if keyLt [u.2.cls, u.2.age, u.2.teamid] [t.2.cls, t.2.age, t.2.teamid] then t :: u :: us else u :: insertVictim t us

/-- The teams that may be taken: placed, not of the display class, not yet asked, in the order of R167. -/
def State.victims (s : State) (p : Team → Bool) : List (Nat × Team) :=
  (s.teams.filter (fun t => t.2.st = .placed && !t.2.preempt && t.2.cls ≠ 0 && p t.2)).foldl (fun l t => insertVictim t l) []

/-- The shortest start of a list of teams whose removal makes a candidate fit. -/
def fewest (fit : List Nat → Bool) : List Nat → List Nat → Option (List Nat)
  | gone, [] => if fit gone then some gone else none
  | gone, v :: vs => if fit gone then some gone else fewest fit (gone ++ [v]) vs

/-- The teams to remove from a cluster for a display candidate, beside those already asked (08_queue R167). -/
def State.roomOn (s : State) (c : Cand) (cl : Nat) : Option (List Nat) :=
  let asked := (s.teams.filter (fun t => t.2.preempt && t.2.st = .placed && t.2.cluster = cl)).map (·.1)
  (fewest (fun gone => s.fitsOn gone c cl) asked ((s.victims (fun t => t.cluster = cl)).map (·.1))).map
    (fun ts => ts.drop asked.length)

/-- The teams to ask for a display candidate: on the cluster that needs the fewest removed, the lowest in a tie (R167). -/
def State.displayVictims (s : State) (c : Cand) : Option (List Nat) :=
  (s.ctx c.ctx).clusters.foldl (fun b cl => match b, s.roomOn c cl with
    | none, r => r
    | some a, some r => if r.length < a.length then some r else some a
    | some a, none => some a) none

/-- DISPLAY_PREEMPT (08_queue R167): a display candidate that fits nowhere makes room. -/
def execEvDisplayPreempt (s : State) : Out :=
  event (
    let c? := (s.candidates.filter (fun c => c.cls = 0 && !s.fits [] c)).findSome? (fun c => s.displayVictims c)
    match c? with
    | some (t :: ts) => some ((t :: ts).foldl (fun s t => s.askPreempt t) s)
    | _ => none)

/-- The teams that a context whose quantum has expired gives up: for the first candidate of another context, of equal or
higher class, that fits nowhere, the youngest first until it fits (08_queue R168). "Equal or higher class" compares the
candidate with each team: a team of the expired context whose class is above the candidate's stays (DESIGN CHOICE, log 74). -/
def State.quantumVictims (s : State) (c : Nat) : List Nat :=
  let asked := (s.teams.filter (fun t => t.2.preempt && t.2.st = .placed)).map (·.1)
  let young (k : Cand) : List Nat :=
    ((s.victims (fun t => t.ctx = c && k.cls ≤ t.cls)).foldl (fun (l : List (Nat × Team)) t =>
      (l.takeWhile (fun u => t.2.age ≤ u.2.age)) ++ [t] ++ (l.dropWhile (fun u => t.2.age ≤ u.2.age))) []).map (·.1)
  match (s.candidates.filter (fun k => k.ctx ≠ c && !s.fits [] k)).findSome? (fun k =>
    fewest (fun gone => s.fits gone k) asked (young k)) with
  | some ts => ts.drop asked.length
  | none => []

/-- Every context whose quantum has expired gives up what a waiting candidate needs (08_queue R168). -/
def State.quantumPreempt (s : State) : Option State :=
  match s.ctxs.find? (fun c => c.2.quantumOut && c.2.st = .running && s.quantumVictims c.1 ≠ []) with
  | none => none
  | some c => some ((s.quantumVictims c.1).foldl (fun s t => s.askPreempt t) s)

/-- QUANTUM_EXPIRY (08_queue R168): firmware policy ends a running context's quantum. -/
def execEvQuantumExpiry (ctx : Nat) (s : State) : Out :=
  event (
    if (s.ctx ctx).st ≠ .running ∨ (s.ctx ctx).quantumOut then none
    else
      let s := s.modCtx ctx (fun c => { c with quantumOut := true })
      some ((s.quantumVictims ctx).foldl (fun s t => s.askPreempt t) s))

/-- TEAM_PLACE (08_queue R166): teams that were asked to give way and have stopped leave, and the first candidate that fits
is placed; a candidate that fits nowhere may take room from an expired quantum (R168). -/
def execEvTeamPlace (s : State) : Out :=
  event (
    match s.withdrawLeaving with
    | some s => some ((s.decision [] [] s.candidates).getD s)
    | none =>
      match s.decision [] [] s.candidates with
      | some s => some s
      | none => s.quantumPreempt)

/-- SCHED_PASSOVER_LIMIT (08_queue R166): a candidate passed over 1,024 times blocks the younger of its class. -/
def execEvSchedPassoverLimit (record : Nat) (s : State) : Out :=
  event (match Tab.find s.records record with
    | none => none
    | some r =>
      if r.passed < 1024 ∨ r.blocks then none
      else some { s with records := Tab.ins s.records record { r with blocks := true } })

/-- The engine work of a team is done, and no window holds a row of it (09_kernel R188). -/
def State.workDone (s : State) (tid : Nat) : Bool :=
  s.engines.all (fun e => e.2.queue.all (fun t => t.team ≠ tid))
    && s.clusters.all (fun c => c.2.viewq.all (fun o => o.team ≠ tid))
    && s.cores.all (fun c => c.2.tileq.all (fun o => o.team ≠ tid) && c.2.windows.all (fun w => w.2.rows.all (fun r => r.team ≠ tid)))

/-- The pending signals of a team's handles fire as it ends (09_kernel R188, 13_transfer R250). -/
def State.fireSignals (s : State) (t : Team) : State :=
  t.cores.foldl (fun s c => (List.range t.kern.hndl).foldl (fun s h =>
    match ((s.core c.core).handle (c.handle0 + h)).sig with
    | some (ctx, k) => s.signal ctx k 1
    | none => s) s) s

/-- A team of a record has ended; the last makes the record Done (08_queue R165). -/
def State.recordEnded (s : State) (r : Nat) : State :=
  match Tab.find s.records r with
  | none => s
  | some x =>
    let x := { x with ended := x.ended + 1 }
    let s := { s with records := Tab.ins s.records r x }
    if x.total ≤ x.ended then s.recordDone r x else s

/-- TEAM_ENDED (09_kernel R188): an Ending team whose engine work is done releases what it holds. -/
def execEvTeamEnded (team : Nat) (s : State) : Out :=
  event (match s.team team with
    | none => none
    | some t =>
      if t.st ≠ .ending ∨ !s.workDone team then none
      else
        let s := (s.fireSignals t).removeTeam team
        let s := match t.record with
          | some r => s.recordEnded r
          | none => s
        some (s.nowIdle t.ctx))

end Sys2Proof.Machine
end

