-- ==== Sys2Proof/Machine/Issue.lean ====
section
/-!
DEFINITION. Clause issues (02_encoding R24 to R29, R37, R39; 10_group R192 to R201; 07_context R148): fetching and checking a
clause, choosing among the groups of a core, resuming a parked group, the watchdog, and the end of a group.
-/
namespace Sys2Proof.Machine

/-- How the fetch of one word ends (02_encoding R37). -/
inductive Fetch where
  | ok (s : State) (w : Word)
  /-- no translation: a walk is needed -/
  | walk (va : Nat)
  | bad (s : State) (c : Cause) (va : Nat)
  deriving DecidableEq, Repr

/-- The virtual address of a PC (07_context R139). -/
def State.codeVa (s : State) (c : Nat) (pc : Word) : Nat := (s.ctx c).d.codebase * 2 ^ 32 + pc.toNat

/-- One word fetched: PAGE, PROT (X = 0) and COMPR (C = 1), in that order (02_encoding R37); LINK where the die has no path to
it (01_module R13). Of the contents, old or new, that R39 lets a rewritten word have before the next kernel launch, the model
fetches the newest performed bytes (DESIGN CHOICE, log 71). -/
def State.fetchWord (s : State) (p : Site) (c : Nat) (pc : Word) : Fetch :=
  let va := s.codeVa c pc
  let use (s : State) (l : Leaf) : Fetch :=
    if !pteX l.pte then .bad s .prot va
    else if pteC l.pte then .bad s .compr va
    else if !(homesOf [.mem (l.pa va) 0]).all (s.reaches p.on) then .bad s .link va
    else .ok s (BitVec.ofNat 32 (ofBytes (s.readPaN (l.pa va) (pteKey l.pte) 4)))
  match s.cached p c va with
  | none => .walk va
  | some _ =>
    match s.look p c va pteX with
    | (s, .leaf l) => use s l
    | (_, .fault _ _ _ _) | (_, .link) => .walk va

/-- `n` words fetched from a PC: the words, or how the first that cannot be fetched fails. -/
def State.fetchWords (s : State) (p : Site) (c : Nat) : Word → Nat → List Word → State × (List Word ⊕ Fetch)
  | _, 0, ws => (s, .inl ws)
  | pc, n + 1, ws =>
    match s.fetchWord p c pc with
    | .ok s w => s.fetchWords p c (pc + 4) n (ws ++ [w])
    | f => (s, .inr f)

/-- What stands before a clause issue: the lanes, and where they stand. -/
structure Pick where
  lanes : Mask
  /-- the group after the pick -/
  x : Group
  /-- the PC of the lanes, and the header of its clause -/
  pc : Word
  base : Word
  /-- the PC is a word inside the clause (02_encoding R29) -/
  inside : Bool
  deriving DecidableEq, Repr

/-- The pick of a group (10_group R192). Where lanes of one PC have different clause bases, the lowest lane's counts. -/
def State.preview (s : State) (x : Group) : Option Pick :=
  match s.team x.team with
  | none => none
  | some t =>
    (x.pick t.kern.tension t.kern.promise).map (fun p =>
      let y := x.lane ((lanesOf p.1).headD 0)
      let inside : Bool := y.cb ≠ clearWord
      ⟨p.1, p.2, y.pc, if inside then y.cb else y.pc, inside⟩)

/-- How the start of a clause issue ends. -/
inductive Start where
  | go (s : State) (x : Group) (c : Clause)
  /-- the WAIT flags do not read zero -/
  | waits
  | walk (s : State) (va : Nat)
  | trap (s : State) (t : Trap) (ipc npc cbase : Word)
  deriving DecidableEq, Repr

/-- The word at which issue would start, by its number in the clause. -/
def Pick.pos (p : Pick) : Nat := if p.inside then (p.pc.toNat - p.base.toNat) / 4 else 1

/-- The trap of a fetch that fails at an address; INFO of a LINK is the PC (07_context R146). -/
def fetchTrap (k : Cause) (va : Nat) (pc : Word) : Trap := { cause := k, addr := va, info := if k = .link then pc.toNat else 0 }

/-- The three stages of R27 and the clause that opens, its header read: a fetch fault and a header ILL are framed under
07_context R146. -/
def State.openClause (s : State) (q : Site) (c : Nat) (x : Group) (p : Pick) (hdr : Word) : Start :=
  let next := p.base + BitVec.ofNat 32 (4 * (hdrCount hdr + 1))
  let npc (ipc : Word) : Word := if p.inside then ipc else next
  let ill (s : State) : Start := .trap s { cause := .ill } p.base (npc p.base) p.base
  if !hdrOk hdr then ill s
  else if !p.inside && !x.waitMet hdr then .waits
  else
    let from_ := p.base + BitVec.ofNat 32 (4 * p.pos)
    match s.fetchWords q c from_ (hdrCount hdr + 1 - p.pos) [] with
    | (s, .inr (.walk va)) => .walk s va
    | (_, .inr (.bad s k va)) => .trap s (fetchTrap k va p.pc) p.pc (npc p.pc) p.base
    | (s, .inr (.ok _ _)) => ill s
    | (s, .inl ws) =>
      if !structOk ws.length ws then ill s
      else
        let x := p.x.mapLanes p.lanes (fun _ (l : Lane) => { l with pc := p.base, cb := p.base })
        .go s x { base := p.base, hdr := hdr, words := List.replicate (p.pos - 1) 0 ++ ws, pos := p.pos, lanes := p.lanes }

/-- The start of a group's next clause issue. A word recorded inside a clause whose header now ends before it is taken as a
header. -/
def State.startClause (s : State) (q : Site) (c : Nat) (x : Group) (p : Pick) : Start :=
  match s.fetchWord q c p.base with
  | .walk va => .walk s va
  | .bad s k va => .trap s (fetchTrap k va p.pc) p.pc p.pc p.base
  | .ok s hdr =>
    if p.inside && hdrOk hdr && decide (hdrCount hdr < p.pos) then
      let p := { p with base := p.pc, inside := false }
      match s.fetchWord q c p.base with
      | .walk va => .walk s va
      | .bad s k va => .trap s (fetchTrap k va p.pc) p.pc p.pc p.base
      | .ok s hdr => s.openClause q c x p hdr
    else s.openClause q c x p hdr

/-- The ports: 0 V0, 1 V1, 2 S, 3 M, 4 E. The port of an instruction's family (02_encoding R26), either V as 0. -/
def portOfMajor (major : Nat) : Nat :=
  if major ≤ 0x15 ∨ major = 0x18 ∨ major = 0x19 then 0
  else if major = 0x16 ∨ major = 0x17 ∨ major = 0x1A then 3
  else if major = 0x1B ∨ major = 0x1C then 2
  else 4

/-- The port of a clause: its class, or the family of its first word where it is mixed (02_encoding R26). -/
def clausePort (hdr first : Word) : Nat :=
  match hdrClass hdr with
  | 0 => 0
  | 1 => 2
  | 2 => 3
  | 3 => 4
  | _ => portOfMajor (bits first.toNat 31 27)

/-- A wait at issue that is no park: the group keeps its port while it waits for the matrix engine (14_tile R263), for a
window (15_net R289) or for the walk of its own access. -/
def Park.atIssue : Park → Bool
  | .tile | .window | .walk _ _ false => true
  | _ => false

/-- The port family of the word at which a clause stands. -/
def Clause.family (c : Clause) : Nat := portOfMajor (bits (nth 0 c.words (c.pos - 1)).toNat 31 27)

/-- A group waits for the engine or a window where step 1 of R153 has stopped it: it counts as parked at its word, and holds no
port (07_context R153, 14_tile R281, 15_net R289). -/
def Group.stoppedAt (x : Group) (k : Park) : Bool := x.flow.stop && (k = .tile || k = .window)

/-- A group holds a port: the one of its open clause issue, or, waiting at issue in a mixed clause, that of its word
(10_group R199). -/
def Group.holdsPort (x : Group) (p : Nat) : Bool :=
  x.on && (match x.flow.clause, x.flow.park with
    | some c, none => c.port = some p
    | some c, some k => k.atIssue && !x.stoppedAt k && c.port.getD c.family = p
    | none, _ => false)

/-- Another group of a core holds a port. -/
def State.portHeld (s : State) (core g p : Nat) : Bool :=
  s.groups.any (fun e => e.1 ≠ g && e.2.core = core && e.2.holdsPort p)

/-- The port that a clause or word of a family takes, 0 standing for either V: V0 when it is free, V1 otherwise; none where
every such port is held (10_group R199). -/
def State.freePort (s : State) (core g family : Nat) : Option Nat :=
  if !s.portHeld core g family then some family
  else if family = 0 && !s.portHeld core g 1 then some 1
  else none

/-- WATCH is due (07_context R148): the group takes it before it opens another clause issue. -/
def State.watchDue (s : State) (x : Group) : Bool :=
  match s.ctxOf x with
  | none => false
  | some c =>
    let w := (s.ctx c).d.watch
    let framing : Bool := match x.flow.park with
      | some (.frame ..) | some .fatal => true
      | _ => false
    x.on && w ≠ 0 && !x.flow.stop && !x.flow.ended && !framing && w * 1024 ≤ x.wdog s.sched.now

/-- A group may start a clause issue. -/
def Group.mayOpen (x : Group) : Bool :=
  x.on && x.flow.clause.isNone && x.flow.park.isNone && !x.flow.stop && !x.flow.ended

/-- A neval that waits at issue can enter a row, or take its trap (15_net R289). -/
def State.rowMay (s : State) (g : Nat) (x : Group) : Bool :=
  match x.ownEnc, s.ctxOf x with
  | some e, some c =>
    let n := e.t.x.c.toNat
    match Tab.get none (s.ctx c).net n with
    | none => true
    | some net =>
      (s.enterRow x.core c n net { group := g, team := x.team, lane := 0, input := [], vd := 0, nout := 0, op := 0, pc := 0 }).isSome
  | _, _ => true

/-- A group is a party of a Posted fault slot, or waits for a slot. -/
def State.onSlot (s : State) (g : Nat) : Bool :=
  s.faults.any (fun f => f.2.st = .posted && f.2.parties.any (Party.isGroup g))
    || s.slotless.any (fun q => q.slot.parties.any (Party.isGroup g))

/-- The cause of a park has cleared (10_group R200). Waits that other events end at once, and stops, never clear here. -/
def State.parkClear (s : State) (g : Nat) (x : Group) (p : Park) : Bool :=
  let c := s.core x.core
  let own := match x.flow.clause with
    | some c => c.own
    | none => 0
  match p with
  | .ready => true
  | .reg rs => x.blockedBy own rs = []
  | .flag f => x.regs.getF f < 63
  | .storeFull => x.io.sq.length < 32
  | .ownAtomic => x.io.sq.all (fun e => !e.far && (match e.work with
      | .atomic .. => false
      | .store _ => true))
  | .absent ls => ls.all (fun l => s.present l.1 l.2)
  | .drain => x.drained
  | .earlierLoad => x.io.pend.all (fun p => !p.isFar)
  | .event k t => match s.ctxOf x with
    | some c => reached (s.counter c k).toNat t.toNat
    | none => true
  | .barrier kind k => s.barrierMet g kind k
  | .handle h st => (c.handle h).st.code = st
  | .tile => (s.acquire x.core g).isSome && c.waitingOps g < 4
  | .fstat => !s.tileBusy x.core g
  | .window => s.rowMay g x
  | .message cls => match s.ctxOf x with
    | some c => s.roomAll c cls
    | none => true
  | .receive => (s.cluster (clusterOfCore x.core)).firstReceiver g && (s.cluster (clusterOfCore x.core)).flits ≠ []
  | .vamps k => !s.vampsOf x.core g k
  | .vopen k => (s.vset k).mayOpen
  | .frame .. => !s.onSlot g
  | .walk .. | .fault .. | .slotless | .vgrow _ | .saved | .fatal | .ret _ | .block _ => false

/-- A group whose issue is stopped leaves only these parks (07_context R153 step 1). -/
def Park.goesOn : Park → Bool
  | .barrier .. | .frame .. => true
  | _ => false

/-- A parked clause issue may resume, as far as its park goes. -/
def State.mayResume (s : State) (g : Nat) (x : Group) : Bool :=
  x.on && (match x.flow.clause, x.flow.park with
    | some _, some p => !p.atIssue && (!x.flow.stop || p.goesOn) && s.parkClear g x p
    | _, _ => false)

/-- Where a parked clause issue resumes: at its recorded word, with its lanes (10_group R192, 02_encoding R29). -/
def Group.resumePick (x : Group) (c : Clause) : Pick :=
  ⟨c.lanes, (x.stand c .ready).modFlow (fun f => { f with clause := none, park := none }), c.own, c.base, true⟩

/-- The clause issue that a group would start or resume next, where it may. -/
def State.nextPick (s : State) (g : Nat) (x : Group) : Option Pick :=
  match x.flow.clause with
  | some c => if s.mayResume g x then some (x.resumePick c) else none
  | none => if x.mayOpen then s.preview x else none

/-- The port for which a group is clause-ready, as far as its clause can be read without a walk: at a clause boundary, or
resuming a parked clause issue (10_group R199). -/
def State.readyPort (s : State) (g : Nat) (x : Group) : Option Nat :=
  if x.flow.abort.isSome || s.watchDue x then none
  else
    match s.nextPick g x, s.ctxOf x with
    | some p, some c =>
      match s.peekWord (.core x.core) c p.base with
      | some h =>
        if hdrOk h && (p.inside || x.waitMet h) then
          (s.peekWord (.core x.core) c (p.base + BitVec.ofNat 32 (4 * p.pos))).map (clausePort h)
        else none
      | none => none
    | _, _ => none

/-- The other groups of a core that are clause-ready for the same kind of port. -/
def State.rivals (s : State) (g core p : Nat) : List (Nat × Group) :=
  s.groups.filter (fun e => e.1 ≠ g && e.2.core = core && s.readyPort e.1 e.2 = some p)

/-- A group opens or resumes its clause at a port: the others that were ready are passed over once more (10_group R199). A
group that starts the clause at its header drops its arrivals at the clause's words (12_barrier R229). The walk of a fetch
is complete; that of an access is, where its word is no longer what it was. -/
def State.openAt (s : State) (g port : Nat) (rivals : List Nat) (inside : Bool) (old : Option Clause) (x : Group) (c : Clause) :
    State :=
  let same : Bool := match old with
    | some o => nth 0 o.words (o.pos - 1) = nth 0 c.words (c.pos - 1)
    | none => false
  let c := { c with
    port := if hdrClass c.hdr < 4 then some port else none
    aside := match old with
      | some o => o.aside
      | none => false }
  let x := x.modFlow (fun f => { f with
    clause := some c, passed := Tab.set 0 f.passed port 0, ahead := f.ahead.filter (fun p => p ≠ port) })
  let within (pc : Word) : Bool := c.base.toNat < pc.toNat && pc.toNat ≤ c.base.toNat + 4 * hdrCount c.hdr
  let x := if inside then x
    else (x.modBar (fun b => { b with arrived := b.arrived.filter (fun m => !within m.1) })).modIo (fun io =>
      { io with pend := io.pend.filter (fun p => !(p.isBlock && within p.pc)) })
  let s := ((s.setGroup g x).walked (fun p => p = .fetch g || (!same && p = .group g))).setTurn (some g)
  rivals.foldl (fun s h => s.modGroup h (fun y => y.modFlow (fun f =>
    { f with passed := Tab.set 0 f.passed port (Tab.get 0 f.passed port + 1) }))) s

/-- A fault of a fetch, or of a header, with the lanes that would have issued (07_context R146). -/
def State.trapStart (s : State) (g : Nat) (p : Pick) (t : Trap) (ipc npc cbase : Word) : State :=
  (s.walked (Party.isGroup g)).takeTrap g t ipc npc cbase p.lanes

/-- An aborted fetch fault, or the LINK of a fetch walk, is taken at the clause (07_context R145, 02_encoding R37). -/
def State.takeAbort (s : State) (g : Nat) (x : Group) (p : Pick) (t : Trap) : State :=
  let npc := match s.ctxOf x with
    | none => p.pc
    | some c =>
      match p.inside, s.peekWord (.core x.core) c p.base with
      | false, some h => if t.addr = s.codeVa c p.base then p.pc else p.base + BitVec.ofNat 32 (4 * (hdrCount h + 1))
      | _, _ => p.pc
  s.trapStart g p { t with info := if t.cause = .link then p.pc.toNat else t.info } p.pc npc p.base

/-- A clause issue starts or resumes where a pick says: an aborted fetch fault is taken; else the three stages of R27 run, and
a free port takes the group if it ranks first among those ready for it. `y` is the group as a trap would find it. -/
def State.issueFrom (s : State) (group : Nat) (x y : Group) (c : Nat) (p : Pick) : Option State :=
  match x.flow.abort with
  | some t => some ((s.setGroup group y).takeAbort group y p t)
  | none =>
    match s.startClause (.core x.core) c x p with
    | .waits => none
    | .walk s va =>
      some ((s.modGroup group (fun x => x.modFlow (fun f => { f with pageLanes := 0, pageAddr := va }))).parkAt group
        (.walk va false true))
    | .trap s t ipc npc cbase => some ((s.setGroup group y).trapStart group p t ipc npc cbase)
    | .go s' z cl =>
      let family := clausePort cl.hdr (nth 0 cl.words (cl.pos - 1))
      match s.freePort x.core group family with
      | none => none
      | some port =>
        let rs := s.rivals group x.core family
        if rs.any (fun r => keyLt (s.rank port r.2) (s.rank port x)) then none
        else some (s'.openAt group port (rs.map (·.1)) p.inside x.flow.clause z cl)

/-- CLAUSE_ISSUE (10_group R192, R199): a free port takes the group that ranks first among those ready for it. A group whose
WATCH is due takes that first (07_context R148). -/
def execEvClauseIssue (group : Nat) (s : State) : Out :=
  event (match s.group group with
    | none => none
    | some x =>
      match s.ctxOf x, s.preview x with
      | some c, some p => if !x.mayOpen || s.watchDue x then none else s.issueFrom group x x c p
      | _, _ => none)

/-- TENSION_ROUND (10_group R195): lanes bypassed T times start a round, where none goes on. -/
def execEvTensionRound (group : Nat) (s : State) : Out :=
  event (match s.group group with
    | none => none
    | some x =>
      match s.team x.team with
      | none => none
      | some t =>
        let ready := x.maskWhere (fun l => l.st = .ready)
        let due := ready &&& x.maskWhere (fun l => l.bypass ≥ t.kern.tension)
        if t.kern.promise && x.mayOpen && decide (x.flow.round &&& ready = 0) && decide (due ≠ 0) then
          if x.flow.round = due then none else some (s.setGroup group (x.modFlow (fun f => { f with round := due })))
        else none)

/-- PORT_PASSOVER_LIMIT (10_group R199): a group passed over 1,024 times by a port ranks ahead there. -/
def execEvPortPassoverLimit (group port : Nat) (s : State) : Out :=
  event (match s.group group with
    | none => none
    | some x =>
      if x.on && port < 5 && 1024 ≤ Tab.get 0 x.flow.passed port && !x.flow.ahead.contains port then
        some (s.setGroup group (x.modFlow (fun f => { f with ahead := port :: f.ahead })))
      else none)

/-- The turn goes to a group unless another's clause issue goes on. -/
def State.giveTurn (s : State) (g : Nat) : State :=
  let busy : Bool := match s.sched.turn with
    | none => false
    | some h => match s.group h with
      | some y => y.on && y.flow.clause.isSome && y.flow.park.isNone
      | none => false
  if busy then s else s.setTurn (some g)

/-- A park whose cause has cleared: a pending frame is tried again; a wait at issue, which keeps its port, goes on at its
word; any other clause issue resumes under R29. -/
def State.resumeGroup (s : State) (group : Nat) (x : Group) : Option State :=
  match x.flow.park, x.flow.clause, s.ctxOf x with
  | some (.frame t ipc npc cbase imask), _, _ =>
    some ((s.walked (Party.isGroup group)).takeTrap group t ipc npc cbase imask)
  | some p, some cl, some c =>
    if p.atIssue then some ((s.setGroup group (x.modFlow (fun f => { f with park := none }))).giveTurn group)
    else if s.watchDue x then none
    else s.issueFrom group x (x.stand cl .ready) c (x.resumePick cl)
  | some _, _, _ => some (s.setGroup group (x.modFlow (fun f => { f with park := none })))
  | none, _, _ => none

/-- GROUP_RESUME (10_group R199, R200; 02_encoding R27, R29): the cause of a park has cleared, and the group goes on at the
parked word: its header and words are read and checked again, and it takes its port as its rank allows. Rows saved with a
group enter a window when a slot is Free (15_net R297). -/
def execEvGroupResume (group : Nat) (s : State) : Out :=
  event (match s.group group with
    | none => none
    | some x =>
      if !x.on then none
      else if x.io.rows ≠ [] && (s.core x.core).freeWin.isSome && !x.flow.stop then s.reenterRows group
      else
        match x.flow.park with
        | none => none
        | some p =>
          if (x.flow.stop && !p.goesOn) || !s.parkClear group x p then none
          else s.resumeGroup group x)

/-- A group leaves its waits to take a trap: fault slots, vgrow, mrecv and the load of a ret (07_context R148). -/
def State.leaveWaits (s : State) (g core : Nat) : State :=
  (((s.leaveSlots (Party.isGroup g)).leaveGrow core g).leaveReceive (clusterOfCore core) g).modGroup g (fun x =>
    x.modIo (fun io => { io with pend := io.pend.filter (fun p => !p.isRet) }))

/-- A trap taken by a parked group at its word: the issued lanes stand there (07_context R146, R148). -/
def State.trapParked (s : State) (g : Nat) (x : Group) (c : Clause) (t : Trap) (npc : Word) : State :=
  ((s.leaveWaits g x.core).setGroup g (x.stand c .ready)).takeTrap g t c.own npc c.base c.lanes

/-- WATCH_EXPIRY (07_context R148): the group takes WATCH at a clause boundary, or leaves its park to take it; a group that
waits to write a trap frame does not (DESIGN CHOICE, log 62). -/
def execEvWatchExpiry (group : Nat) (s : State) : Out :=
  event (match s.group group with
    | none => none
    | some x =>
      let issuing : Bool := match x.flow.clause, x.flow.park with
        | some _, none => true
        | some _, some (.walk _ _ false) => true
        | _, _ => false
      if !s.watchDue x || issuing then none
      else
        let t : Trap := { cause := .watch }
        match x.flow.clause with
        | some cl => some (s.trapParked group x cl t cl.own)
        | none =>
          let s := s.leaveWaits group x.core
          match s.preview x with
          | some p => some (s.takeTrap group t p.base p.base p.base p.lanes)
          | none => some (s.takeTrap group t clearWord clearWord clearWord 0))

/-- The private region of a group that has exited stays reserved and is reached no more (05_memory R92). -/
def State.endPriv (s : State) (tid gid : Nat) : State :=
  s.modTeam tid (fun t => { t with privs := t.privs.map (fun p => if p.1 = gid then (p.1, p.2.1, p.2.2.1, false) else p) })

/-- GROUP_END (10_group R201): the last lane has exited and every access is performed. The group releases its slot, registers
and tiles, its stack lines are written back, and its team is Ending with the last of its groups (09_kernel R188). -/
def execEvGroupEnd (group : Nat) (s : State) : Out :=
  event (match s.group group with
    | none => none
    | some x =>
      match s.team x.team with
      | none => none
      | some t =>
        if !x.on ∨ !x.flow.ended ∨ !x.quiet then none
        else
          let s := ((s.flushStack group).release group).endPriv x.team x.gid
          let s := { s with groups := Tab.del s.groups group }
          let s := if s.sched.turn = some group then s.setTurn none else s
          let s := (s.exitArrives x.team).leaveCore t.ctx x.core
          if s.groups.any (fun g => g.2.team = x.team) then some s
          else some (s.modTeam x.team (fun t => { t with st := .ending })))

end Sys2Proof.Machine
end

