-- ==== Sys2Proof/Machine/Fault.lean ====
section
/-!
DEFINITION. Page walks, fault slots and invalidations (06_page R129, R132, R134; 07_context R145): the walk of a parked group,
REPLAY and ABORT of a slot, the end of a replay, and the end of an invalidation.
-/
namespace Sys2Proof.Machine

/-- A copy engine's transfer by its unique number: engine number and transfer. -/
def State.findTransfer (s : State) (uid : Nat) : Option (Nat × Transfer) :=
  s.engines.findSome? (fun e => (e.2.queue.find? (fun t => t.uid = uid)).map (fun t => (e.1, t)))

/-- A view operation by its unique number: its cluster and itself. -/
def State.findView (s : State) (uid : Nat) : Option (Nat × ViewOp) :=
  s.clusters.findSome? (fun c => (c.2.viewq.find? (fun o => o.uid = uid)).map (fun o => (c.1, o)))

/-- A parked group may go back to the word at which it faulted (02_encoding R29), or to its clause; a trap that waits for its
frame stays. -/
def State.unparkFault (s : State) (g : Nat) : State :=
  match s.group g with
  | none => s
  | some x =>
    match x.flow.park with
    | some (.fault _ _) =>
      s.setGroup g (x.modFlow (fun f => { f with park := if f.clause.isSome then some .ready else none }))
    | _ => s

/-- A party walks again (R134): a group from its instruction, a copy from its counters, a window, a view operation. -/
def State.replayParty (s : State) (p : Party) : State :=
  match p with
  | .group g => s.unparkFault g
  | .fetch g => s.unparkFault g
  | .copy u =>
    let go (t : Transfer) : Transfer := if t.uid = u then { t with parked := false } else t
    let one (e : Nat × Engine) : Nat × Engine := (e.1, { e.2 with queue := e.2.queue.map go })
    { s with engines := s.engines.map one }
  | .skein core w =>
    let x := (s.core core).win w
    if x.st = .faulted then s.setWin core w { x with st := .closed } else s
  | .view u => match s.findView u with
    | some (cl, o) => s.modViewOp cl o.uid (fun q => { q with parked := false })
    | none => s
  | .ray _ => s

/-- CMD 1 of a fault slot (R134): ignored unless it is Posted; each waiter stays a party until its walk has completed. -/
def State.replaySlot (s : State) (die k : Nat) : State :=
  let f := s.fault die k
  if f.st ≠ .posted then s
  else f.parties.foldl (fun s p => s.replayParty p) (s.setFault die k { f with st := .replaying })

/-- INFO of an aborted PAGE: REASON and LEVEL (07_context R146). -/
def FaultSlot.info (f : FaultSlot) : Nat := f.reason + 4 * f.level

/-- An aborted fault of a group: PAGE at the faulting instruction; where the frame of another trap could not be written the
trap is fatal (07_context R145; log 11). -/
def State.abortGroup (s : State) (g : Nat) (f : FaultSlot) : State :=
  match s.group g with
  | none => s
  | some x =>
    let t : Trap := { cause := .page, tmask := x.flow.pageLanes, addr := x.flow.pageAddr, info := f.info }
    match x.flow.park, x.flow.clause with
    | some (.frame u _ _ _ _), _ =>
      match s.ctxOf x with
      | some c => s.fatal g c (if (s.ctx c).d.trappc = clearWord then 1 else 2) u (x.ctl.tfbase % 2 ^ 52)
      | none => s
    | some (.fault _ _), some cl =>
      let terminal := match x.ownEnc with
        | some e => e.terminal
        | none => false
      s.trapParked g x cl t (cl.npc terminal)
    | _, _ => s

/-- An aborted fetch fault waits for the group's next clause issue (02_encoding R37). -/
def State.abortFetch (s : State) (g : Nat) (f : FaultSlot) : State :=
  s.modGroup g (fun x => x.modFlow (fun w => match w.park with
    | some (.fault _ _) => { w with
        park := if w.clause.isSome then some .ready else none
        abort := some { cause := .page, addr := w.pageAddr, info := f.info } }
    | _ => w))

/-- A party ends as the context's table of R145 describes. -/
def State.abortParty (s : State) (f : FaultSlot) (p : Party) : State :=
  match p with
  | .group g => s.abortGroup g f
  | .fetch g => s.abortFetch g f
  | .copy u => match s.findTransfer u with
    | some (e, t) => s.stopTransfer (e / 8) (e % 8) t .page t.faultVa f.info
    | none => s
  | .skein core w => s.failWindow core w (some f.info) ((s.core core).win w).faultVa
  | .view u => match s.findView u with
    | some (cl, o) => s.stopView cl o .page o.faultVa f.info
    | none => s
  | .ray _ => s

/-- CMD 2 of a fault slot (R134): ignored unless it is Posted; the slot becomes Free. -/
def State.abortSlot (s : State) (die k : Nat) : State :=
  let f := s.fault die k
  if f.st ≠ .posted then s
  else
    let s := s.setFault die k {}
    (f.parties.foldl (fun s p => s.abortParty f p) s).repost

/-- FAULT_REPLAY (R134). -/
def execEvFaultReplay (die slot : Nat) (s : State) : Out :=
  if die < 8 ∧ slot < 256 then hostWrite s (fun s => s.replaySlot die slot) else .refused .notEnabled

/-- FAULT_ABORT (R134). -/
def execEvFaultAbort (die slot : Nat) (s : State) : Out :=
  if die < 8 ∧ slot < 256 then hostWrite s (fun s => s.abortSlot die slot) else .refused .notEnabled

/-- FAULT_REPLAY_DONE (R134): every waiter's walk has completed, and the slot is Free. -/
def execEvFaultReplayDone (die slot : Nat) (s : State) : Out :=
  event (
    let f := s.fault die slot
    if f.st = .replaying ∧ f.parties = [] then some (s.setFault die slot {}).repost else none)

/-- LINK of a walk that has no path to an entry (01_module R13; log 82): a fetch takes it at the group's next clause issue, an
access at its word, INFO its PC (05_memory R106, 07_context R146). -/
def State.linkWalk (s : State) (g : Nat) (x : Group) (va : Nat) (fetch : Bool) : State :=
  let s := s.walked (Party.isGroup g)
  match fetch, x.flow.clause with
  | false, some cl =>
    let terminal := match x.ownEnc with
      | some e => e.terminal
      | none => false
    s.trapParked g x cl { cause := .link, tmask := x.flow.pageLanes, addr := x.flow.pageAddr, info := cl.own.toNat } (cl.npc terminal)
  | _, _ => s.modGroup g (fun x => x.modFlow (fun f => { f with
      park := if f.clause.isSome then some .ready else none, abort := some { cause := .link, addr := va } }))

/-- PAGE_WALK (06_page R129, R131, R134): the walk of a parked group. A leaf is installed with A set and the group goes on;
else the group parks on a fault slot, or takes LINK. -/
def execEvPageWalk (group : Nat) (s : State) : Out :=
  event (match s.group group with
    | none => none
    | some x =>
      match x.flow.park, s.team x.team with
      | some (.walk va write fetch), some t =>
        match s.walkIn (.core x.core) t.ctx va with
        | (s, .leaf _) =>
          let s := s.walked (Party.isGroup group)
          some (s.modGroup group (fun x => x.modFlow (fun f => { f with
            park := if fetch && f.clause.isSome then some .ready else none })))
        | (s, .fault r lv e pa) =>
          let (s, p) := s.parkFault group x.core t.ctx fetch write va r lv e pa
          some (s.parkAt group p)
        | (s, .link) => some (s.linkWalk group x va fetch)
      | _, _ => none)

/-- A translation in use is named by the invalidation under way: of a store that is queued, or of a tdrain or a present that is
not complete (06_page R132). -/
def State.usesNamed (s : State) : Bool :=
  let named (ls : List Leaf) : Bool := ls.any s.pginv.names
  s.groups.any (fun g => g.2.io.sq.any (fun e => named e.via))
  || s.cores.any (fun c => c.2.tileq.any (fun o => match o.work with
    | .drain x => named x.via
    | _ => false))
  || s.clusters.any (fun c => c.2.viewq.any (fun o => named o.via))

/-- PGINV_COMPLETE (R132): with no access left that used a removed leaf, every named leaf goes from every cache, the
upper-level entries on the walk to the range go from the walkers, and BUSY falls. The stack caches are written back first (log
17); an entry queue that could not be read is tried again (08_queue R164). -/
def execEvPginvComplete (s : State) : Out :=
  event (
    let p := s.pginv
    if !p.busy || s.usesNamed then none
    else
      let s := s.groups.foldl (fun s g => if g.2.io.stk ≠ [] then s.flushStack g.1 else s) s
      let s := { s with
        tlb := s.tlb.map (fun (e : Nat × List Leaf) => (e.1, e.2.filter (fun l => !p.names l)))
        uppers := s.uppers.map (fun (e : Nat × List Upper) => (e.1, e.2.filter (fun u => !p.above u))) }
      let s := (List.range 64).foldl (fun s c => s.modCtx c (fun x => { x with moveStopped := false })) s
      some (({ s with pginv := { p with busy := false } }).interrupt 3))

end Sys2Proof.Machine
end

