-- ==== Sys2Proof/Machine/Link.lean ====
section
/-!
DEFINITION. The link (18_link R357 to R370): ports, bridges, remote accesses as the home module meets them, the host's
accesses to memory, and remote operations that fail.
-/
namespace Sys2Proof.Machine

/-- A link port. -/
def State.port (s : State) (p : Nat) : Port := Tab.get {} s.ports p

/-- A link port changed; a new STATE sets INTSTAT (R369). -/
def State.setPort (s : State) (p : Nat) (x : Port) : State :=
  let old := (s.port p).st
  let s := { s with ports := Tab.set {} s.ports p x }
  if old = x.st then s else s.interrupt 7

/-- A port enters a state without traffic: no lane is in use (R360, R361). -/
def State.portTo (s : State) (p : Nat) (st : PortSt) : State := s.setPort p { s.port p with st := st, lanes := 0 }

/-- A port with traffic at a rate (R360). -/
def PortSt.carries (st : PortSt) : Bool := st = .up || st = .degraded

/-- A command of LINKCTL (R360, R361): 1 ENABLE, 2 FENCE, 3 DRAIN, 4 DISABLE; one that the state does not list is ignored. -/
def State.linkCmd (s : State) (p cmd : Nat) : State :=
  let st := (s.port p).st
  match cmd with
  | 1 => if st = .down ∨ st = .degraded ∨ st = .fenced then s.portTo p .training else s
  | 2 => if st.carries then s.portTo p .fenced else s
  | 3 => if st.carries then s.setPort p { s.port p with st := .draining } else s
  | 4 => if st = .fenced then s.portTo p .down else s
  | _ => s

/-- A command that firmware gives a port: it trains ports before READY, too (19_device R376). The recovery loader serves no link
traffic (R377). -/
def linkWrite (p cmd : Nat) (s : State) : Out :=
  event (served s (if p < 32 then some (s.linkCmd p cmd) else none))

/-- LINK_ENABLE (R360). -/
def execEvLinkEnable (port : Nat) (s : State) : Out := linkWrite port 1 s

/-- LINK_FENCE (R360). -/
def execEvLinkFence (port : Nat) (s : State) : Out := linkWrite port 2 s

/-- LINK_DRAIN (R360). -/
def execEvLinkDrain (port : Nat) (s : State) : Out := linkWrite port 3 s

/-- LINK_DISABLE (R360). -/
def execEvLinkDisable (port : Nat) (s : State) : Out := linkWrite port 4 s

/-- A port in Training comes to the end of it: 8 lanes give Up, 4 or 2 Degraded, fewer Down; a peer whose identity fails is
Fenced (R360). -/
def State.trained (s : State) (t : Trained) : Option State :=
  if t.port ≥ 32 ∨ (s.port t.port).st ≠ .training ∨ t.lanes > 8 ∨ t.peer > 4095 ∨ t.peerPort > 31 then none
  else if t.lanes < 2 then some (s.portTo t.port .down)
  else if !t.verified then some (s.portTo t.port .fenced)
  else if t.lanes = 8 ∨ t.lanes = 4 ∨ t.lanes = 2 then
    some (s.setPort t.port { s.port t.port with
      st := if t.lanes = 8 then .up else .degraded, lanes := t.lanes, peerMod := t.peer, peerPort := t.peerPort })
  else none

/-- LINK_TRAINING_DONE (R360). -/
def execEvLinkTrainingDone (port lanes peer peerPort : Nat) (verified : Bool) (s : State) : Out :=
  event (served s (s.trained ⟨port, lanes, peer, peerPort, verified⟩))

/-- LINK_LANE_FAIL (R360). -/
def execEvLinkLaneFail (port : Nat) (s : State) : Out :=
  event (if port < 32 ∧ (s.port port).st.carries then some (s.portTo port .training) else none)

/-- LINK_DRAIN_DONE (R360). -/
def execEvLinkDrainDone (port : Nat) (s : State) : Out :=
  event (if port < 32 ∧ (s.port port).st = .draining then some (s.portTo port .down) else none)

/-- BRIDGE_DOWN (01_module R12, R13): its traffic is rerouted, which changes only latency, or finds no path and ends with LINK.
The bridges are numbered as `bridges` lists them. -/
def execEvBridgeDown (bridge : Nat) (s : State) : Out :=
  event (outside s (if bridge < 20 ∧ !Tab.get false s.bridgeDown bridge then
    some { s with bridgeDown := Tab.set false s.bridgeDown bridge true } else none))

/-- FLIT_RESEND (R359, R361): RETRY of the port counts a resent flit. -/
def execEvFlitResend (port : Nat) (s : State) : Out :=
  event (
    let x := s.port port
    if port < 32 ∧ (x.st.carries ∨ x.st = .draining) then some (s.setPort port { x with retry := x.retry + 1 }) else none)

/-- The first two conditions of R364: the home context is live, and its own map names the requester. -/
def Ctx.serves (c : Ctx) (src fctx : Nat) : Bool :=
  (c.st = .resident || c.st = .running || c.st = .draining || c.st = .saved)
    && c.map.any (fun e => bit e.2.toNat 31 && bits e.2.toNat 11 0 = src && bits e.2.toNat 23 18 = fctx)

/-- A remote access performed at this module, its home: the answer's data, or none where it is refused (R364). -/
def State.remote (s : State) (rctx addr : Nat) (op : RemoteOp) : State × Option (List Nat) :=
  let va := addr % 2 ^ 52
  let die := s.homeDie rctx
  let put (n : Nat) (copy : Bool) (f : List Byte → List Byte) (answer : List Byte → List Nat) : State × Option (List Nat) :=
    match s.engBytes die rctx false true copy va n with
    | (s, .ok ls) =>
      let old := s.readLocs ls
      ((s.writeCells 0 (ls.zip (f old))).unstitchLocs ls, some (answer old))
    | (s, _) => (s, none)
  match op with
  | .load n copy =>
    match s.engCheck die rctx false false copy va n with
    | (s, .ok ls) => (s, some ((s.readLocs ls).map (fun (b : Byte) => b.toNat)))
    | (s, _) => (s, none)
  | .store bytes copy => put bytes.length copy (fun _ => bytes.map (BitVec.ofNat 8)) (fun _ => [])
  | .atomic k ty b c =>
    match atomOps[k]? with
    | none => (s, none)
    | some f =>
      put 4 false (fun old => toBytes 4 (atomNew f (Ty.ofCode ty) (BitVec.ofNat 32 (ofBytes old)) b c).toNat)
        (fun old => [ofBytes old])
  | .reduce fd ftzn ftz32 rnd u x =>
    let t := Ty.ofCode fd
    let fm : FMode := ⟨ftz32, ftzn⟩
    let mode := if rnd = 4 then Rnd.sr u else Rnd.ofCode rnd
    put (t.width / 8) true (fun old =>
        toBytes (t.width / 8) (roundTo t fm mode (decodeRaw .f32 (reduceSum t fm (ofBytes old) (decodeRaw .f32 x)))).1)
      (fun _ => [])

/-- REMOTE_ACCESS (R364): this module is the home. A refusal posts no fault, and the answer goes back to the requester. -/
def execEvRemoteAccess (src fctx rctx addr : Nat) (op : RemoteOp) (s : State) : Out :=
  event (served s (
    if rctx ≥ 64 ∨ src > 4095 then none
    else if !(s.ctx rctx).serves src fctx then some (s.send (.reply src false []))
    else
      match s.remote rctx addr op with
      | (s, some data) => some (s.send (.reply src true data))
      | (s, none) => some (s.send (.reply src false []))))

/-- A byte of region 0 at an offset of BAR 4; all ones at or beyond installed capacity (R367). -/
def State.barRead (s : State) (off : Nat) : Byte := if s.inRegion0 off 1 then s.readPa off noKey else 0xFF

/-- HOST_MEM_ACCESS (R367): a read of `n` bytes, or a write where there is data, through BAR 4 of a bridge module. -/
def execEvHostMemAccess (off n : Nat) (data : List Nat) (s : State) : Out :=
  event (
    if !s.modid.bridge ∨ !s.pwr.ready ∨ 2 ^ 39 < off + max n data.length then none
    else
      let s := s.wakeModule
      match data with
      | [] => some (s.send (.hostData ((List.range n).map (fun i => (s.barRead (off + i)).toNat))))
      | d :: ds =>
        let put (s : State) (p : Nat × Nat) : State :=
          if s.inRegion0 p.1 1 then (s.writePa p.1 noKey (BitVec.ofNat 8 p.2)).unstitchMem (p.1 / 128) else s
        some (((d :: ds).mapIdx (fun i b => (off + i, b))).foldl put s))

/-- REMOTE_OPERATION_FAILS (R362): a load of another module, or the oldest queued store or atomic to one, fails with LINK. -/
def execEvRemoteOperationFails (group : Nat) (op : Option Nat) (s : State) : Out :=
  match op with
  | some k => execEvLoadReturn group k .link [] s
  | none => execEvStorePerformed group .link [] s

end Sys2Proof.Machine
end

