-- ==== Sys2Proof/Machine/Device.lean ====
section
/-!
DEFINITION. Bring-up, power and service (19_device R376 to R384) and the management register space (R397): what its
registers read, what a write does, and the events of the management controller.
-/
namespace Sys2Proof.Machine

/-- What a signature covers: the nonce, the firmware measurement, the module id and the mask of loaded key slots (R382). -/
def State.evidence (s : State) : List Nat :=
  (List.range 32).map (Tab.get 0 s.fw.nonce) ++ (List.range 64).map (fun i => nth 0 s.fw.measure i)
    ++ [s.modid.id, ((List.range 256).map (fun k => if Tab.get false s.keyFull k then 2 ^ k else 0)).sum]

/-- ATTCMD written 1 (R382): ignored while it reads 1. What is signed is what stands at that write (log 58). -/
def State.attest (s : State) : State :=
  if s.fw.busy then s
  else { s with fw := { s.fw with
    busy := true, next := (List.range 114).map (fun i => (Config.attestByte s.fw.devKey s.evidence i).toNat) } }

/-- ATTEST (R382). -/
def execEvAttest (s : State) : Out := hostWrite s State.attest

/-- ATTEST_DONE (R382): the 114-byte signature is ready. It is that of the evidence, and no other. -/
def execEvAttestDone (sig : List Nat) (s : State) : Out :=
  event (if s.fw.busy ∧ sig = s.fw.next then some { s with fw := { s.fw with busy := false, sig := s.fw.next, next := [] } } else none)

/-- A slot is the KEY of an installed context (R383). -/
def State.keyHeld (s : State) (k : Nat) : Bool := s.ctxs.any (fun c => c.2.st.installed && c.2.d.key = k)

/-- KEY_LOAD (R383): refused, with no effect, for a slot that an installed context holds. -/
def execEvKeyLoad (slot : Nat) (s : State) : Out :=
  event (served s (
    if slot ≥ 256 then none
    else if s.keyHeld slot then some s
    else some { s with keyFull := Tab.set false s.keyFull slot true
                       keyLoads := Tab.set 0 s.keyLoads slot ((Tab.get 0 s.keyLoads slot + 1) % 2 ^ 32) }))

/-- KEY_CLEAR (R383). -/
def execEvKeyClear (slot : Nat) (s : State) : Out :=
  event (served s (
    if slot ≥ 256 then none
    else if s.keyHeld slot then some s
    else some { s with keyFull := Tab.set false s.keyFull slot false }))

/-- What survives a reset: the model's schedule and counters, host memory, and what has left the module. -/
def State.afterReset (s : State) : State :=
  { State.reset with
    code := s.code, hostMem := s.hostMem, sent := s.sent
    sched := { s.sched with turn := none, now := 0 } }

/-- The enabled ports train, and each comes to the end of it (R376 step 3; 18_link R360). -/
def State.trainPorts (s : State) (ts : List Trained) : State :=
  ts.foldl (fun s t => let s := s.linkCmd t.port 1; (s.trained t).getD s) s

/-- COLD_RESET (R376, R377): the steps in order, each only when the one before has succeeded. A bad image starts the recovery
loader; the enabled ports train and their peers are verified, and READY is set at the end, when none is still in Training
(log 34). -/
def execEvColdReset (boot : Boot) (s : State) : Out :=
  answer (
    let s := { s.afterReset with code := if boot.code384 then .sx8_384 else .sx8_512 }
    let fw : Firmware := { version := boot.version, minVersion := boot.minVersion, devKey := boot.devKey, serial := boot.serial }
    if !boot.imageOk || !boot.updateComplete || boot.version < boot.minVersion then
      { s with fw := { fw with recovery := true } }
    else if !boot.memoryOk then { s with fw := fw }
    else
      let s := { s with fw := { fw with measure := boot.measure }, modid := { id := boot.id % 4096 } }
      let s := s.trainPorts boot.links
      if (List.range 32).any (fun p => (s.port p).st = .training) then s
      else
        { s with
          modid := { id := boot.id % 4096, bridge := boot.bridge, hconf := boot.hconf && !boot.bridge }
          pwr := { ready := true, st := 0, aclk := 12 } })

/-- A cluster's scratchpads and their presence bits as a gated unit leaves them: zeros, absent; its register pools hold no
cell and its stitch tables are empty (R379). -/
def State.emptyCluster (s : State) (cl : Nat) : State :=
  let sp (k : Nat) : Bool := clusterOfCore (k / 2 ^ 19) ≠ cl
  let pr (k : Nat) : Bool := clusterOfCore (k / 4096) ≠ cl
  let s := { s with sp := s.sp.filter (fun e => sp e.1), presence := s.presence.filter (fun e => pr e.1) }
  (List.range 4).foldl (fun s i =>
    let k := 4 * cl + i
    { s with pools := Tab.set {} s.pools k { Tab.get {} s.pools k with cells := [], names := [], stitch := [] } }) s

/-- A cluster may be gated (R379). -/
def State.mayGate (s : State) (cl : Nat) : Bool :=
  let mine (k : Nat) : Bool := clusterOfCore k = cl
  s.groups.all (fun g => !(g.2.on && mine g.2.core))
    && s.cores.all (fun c => !mine c.1 || c.2.windows.all (fun w => w.2.st ≠ .opened && w.2.st ≠ .running))
    && (s.cluster cl).viewq = [] && s.ctxs.all (fun c => c.2.coreRec.all (fun r => !mine r.1))

/-- A cluster gated: its power is gone and with it what R379 lists. -/
def State.gateCluster (s : State) (cl : Nat) : State :=
  (s.modCluster cl (fun c => { c with gated := true })).emptyCluster cl

/-- UNIT_GATE (R379): firmware gates an idle cluster, or the ways of an L2 slice, whose contents no program sees. -/
def execEvUnitGate (slice : Bool) (unit : Nat) (s : State) : Out :=
  event (served s (
    if slice then
      if unit < 192 ∧ !Tab.get false s.gatedSlices unit then some { s with gatedSlices := Tab.set false s.gatedSlices unit true }
      else none
    else if unit < 640 ∧ !(s.cluster unit).gated ∧ s.mayGate unit then some (s.gateCluster unit)
    else none))

/-- UNIT_WAKE (R379): in P2 every cluster stays gated, until what takes the module to P0 (R378). -/
def execEvUnitWake (slice : Bool) (unit : Nat) (s : State) : Out :=
  event (
    if slice then
      if Tab.get false s.gatedSlices unit then some { s with gatedSlices := Tab.set false s.gatedSlices unit false } else none
    else if (s.cluster unit).gated ∧ s.pwr.st ≠ 2 then some (s.modCluster unit (fun c => { c with gated := false }))
    else none)

/-- POWER_POLICY_CHANGE (R378): firmware moves the module between P0, P1 and P2; in P1 it chooses the clock, from 0.6 to
1.1 GHz. Standby needs that no context is Running or Draining and that every cluster may be gated, and gates them all (R379). -/
def execEvPowerPolicyChange (state aclk : Nat) (s : State) : Out :=
  event (
    let p := s.pwr
    let idle := s.ctxs.all (fun c => c.2.st ≠ .running && c.2.st ≠ .draining) && (List.range 640).all s.mayGate
    if !p.ready || p.throt then none
    else if state = 0 ∧ p.st = 1 ∧ aclk = 12 then some { s with pwr := { p with st := 0, aclk := 12 } }
    else if state = 1 ∧ p.st ≤ 1 ∧ 6 ≤ aclk ∧ aclk ≤ 11 then some { s with pwr := { p with st := 1, aclk := aclk } }
    else if state = 2 ∧ p.st = 0 ∧ aclk = 0 ∧ idle then
      some ((List.range 640).foldl (fun s k => s.gateCluster k) { s with pwr := { p with st := 2, aclk := 0 } })
    else none)

/-- STANDBY_WAKE (R378): a placement, an append or a host access ends standby. -/
def execEvStandbyWake (aclk : Nat) (s : State) : Out :=
  event (if s.pwr.st = 2 ∧ aclk = s.wakeModule.pwr.aclk then some s.wakeModule else none)

/-- THROTTLE_ON (R380): a junction at 105 °C, or too much current, sets THROT and forces P1 at 0.6 GHz, before READY too. A
stopped clock stays stopped. -/
def execEvThrottleOn (temp : Nat) (s : State) : Out :=
  event (outside s (
    let p := s.pwr
    if temp ≥ 115 then none
    else
      let p := { p with throt := true, tmax := temp }
      let s' := { s with pwr := if p.st = 2 then p else { p with st := 1, aclk := 6 } }
      some (if s.pwr.throt then s' else s'.interrupt 6)))

/-- THROTTLE_OFF (R380): every junction is below 100 °C and the current within its limit. Firmware then chooses P0, or a clock
of P1. -/
def execEvThrottleOff (aclk temp : Nat) (s : State) : Out :=
  event (
    let p := s.pwr
    if !p.throt ∨ temp ≥ 100 then none
    else
      let p := { p with throt := false, tmax := temp }
      if p.st = 2 ∧ aclk = 0 then some { s with pwr := p }
      else if p.st = 1 ∧ aclk = 12 then some { s with pwr := { p with st := 0, aclk := 12 } }
      else if p.st = 1 ∧ 6 ≤ aclk ∧ aclk ≤ 11 then some { s with pwr := { p with aclk := aclk } }
      else none)

/-- TRIP (R380): TRIP is set, every link port is Down, contexts are lost, and the module is held in reset. It sends no message
(18_link R369). -/
def execEvTrip (temp : Nat) (s : State) : Out :=
  event (
    if temp ≥ 256 then none
    else
      some { s.afterReset with
        pwr := { trip := true, tmax := temp }
        fw := { minVersion := s.fw.minVersion, devKey := s.fw.devKey, serial := s.fw.serial } })

/-- A write as it meets a register: it covers those bytes from `off` on that are enabled in `en`, and `data` holds them from its
own byte 0 (R397). -/
structure RegWr where
  off : Nat
  size : Nat
  data : Nat
  en : Nat
  deriving DecidableEq, Repr

/-- The write covers byte b of the register. -/
def RegWr.covers (w : RegWr) (b : Nat) : Bool := w.off ≤ b && b < w.off + w.size && bit w.en (b - w.off)

/-- The write covers a byte from `lo` on, below `hi`. -/
def RegWr.touches (w : RegWr) (lo hi : Nat) : Bool := (List.range w.size).any (fun i => bit w.en i && lo ≤ w.off + i && w.off + i < hi)

/-- The bytes of a register that the write covers replaced (R397). -/
def RegWr.merge (w : RegWr) (old : Nat) : Nat :=
  (List.range w.size).foldl (fun x i =>
    if bit w.en i then
      let k := 8 * (w.off + i)
      x % 2 ^ k + 2 ^ k * bits w.data (8 * i + 7) (8 * i) + 2 ^ (k + 8) * (x / 2 ^ (k + 8))
    else x) old

/-- The bytes that the write covers, put into a table of bytes from an index on. -/
def RegWr.put (w : RegWr) (base : Nat) (t : Tab Nat) : Tab Nat :=
  (List.range w.size).foldl (fun t i => if bit w.en i then Tab.set 0 t (base + w.off + i) (bits w.data (8 * i + 7) (8 * i)) else t) t

/-- The offset of the first capability structure, and of those after it (R381; the layout of the list is the model's). -/
def capBase : Nat := 0x140

/-- The header of a capability structure (R381). -/
def capHeader (next length id : Nat) : Nat := putBits next 16 48 + putBits length 16 32 + putBits 1 16 16 + id

/-- The 64-bit words of the capability list, from its first structure: memory, clocks, identity, firmware (R381). -/
def State.capWords (s : State) : List Nat :=
  let word (bs : List Nat) (i : Nat) : Nat := ofBytes (((bs.drop (8 * i)).take 8).map (BitVec.ofNat 8))
  let mem : Nat := putBits 8 8 8 + (match s.code with
    | .sx8_512 => 64
    | .sx8_384 => 48)
  [capHeader 0x150 16 1, mem, capHeader 0x160 16 2, putBits 6 8 8 + putBits s.pwr.aclk 8 0]
    ++ [capHeader 0x1B0 80 3] ++ (List.range 8).map (word (s.fw.devKey.take 57)) ++ [s.fw.serial % 2 ^ 64]
    ++ [capHeader 0 80 4] ++ (List.range 8).map (word (s.fw.measure.take 64)) ++ [s.fw.version % 2 ^ 32]

/-- A register pair of a context slot as it reads, by its 64-bit word (07_context R140, 08_queue R159). -/
def Ctx.regWord (c : Ctx) (i : Nat) : Nat :=
  match i with
  | 0 => c.descAddr
  | 1 => putBits (b2n c.busy) 1 31 + putBits (b2n c.err) 1 30 + putBits c.ecode 4 24
  | 2 => putBits c.how 2 62 + putBits c.cause 5 57 + putBits c.frame 42 10 + c.st.code
  | _ => 0

/-- The code of a fault slot's state (06_page R134). -/
def FaultSt.code : FaultSt → Nat
  | .free => 0 | .posted => 1 | .replaying => 2

/-- A fault slot as it reads, by its 64-bit word (06_page R134). -/
def FaultSlot.regWord (f : FaultSlot) (i : Nat) : Nat :=
  match i with
  | 0 => f.va % 2 ^ 52
  | 1 => putBits (min 65535 f.parties.length) 16 48 + putBits f.ctx 6 42 + putBits f.access 3 39 + putBits f.level 2 37
      + putBits f.reason 2 35 + putBits f.st.code 3 32
  | 2 => f.entry % 2 ^ 64
  | _ => putBits f.src 4 28 + putBits f.unit 16 0

/-- The 64-bit word of the management register space at an 8-byte-aligned offset, as it reads (R397); an address that holds no
register reads 0. -/
def State.mgmtWord (s : State) (a : Nat) : Nat :=
  let i (base : Nat) : Nat := (a - base) / 8
  let inR (lo hi : Nat) : Bool := lo ≤ a && a < hi
  let bytes (n : Nat → Nat) : Nat := ofBytes ((List.range 8).map (fun k => BitVec.ofNat 8 (n k)))
  if a = 0x100 then capBase
  else if inR capBase 0x200 then nth 0 s.capWords (i capBase)
  else if a = 0x2000 then s.pginv.va
  else if a = 0x2008 then putBits (b2n s.pginv.busy) 1 31 + putBits (b2n s.pginv.err) 1 30 + putBits s.pginv.kind 2 10
    + putBits s.pginv.ctx 6 0
  else if inR 0x8000 0x8800 then (s.ctx (i 0x8000 / 4)).regWord (i 0x8000 % 4)
  else if inR 0xC000 0xD000 then bytes (fun k => Tab.get 0 s.appendBuf (a - 0xC000 + k))
  else if inR 0xD000 0xD200 then
    putBits (Tab.get 0 s.appSeq (i 0xD000)).toNat 32 32 + putBits (Tab.get 0 s.appRes (i 0xD000)) 2 0
  else if a = 0xE000 then s.ints.stat
  else if a = 0xE008 then s.ints.en
  else if a = 0xE010 then s.ints.grp
  else if inR 0x10000 0x20000 then
    (s.fault ((a - 0x10000) / 0x2000) ((a - 0x10000) % 0x2000 / 0x20)).regWord ((a - 0x10000) % 0x20 / 8)
  else if inR 0x20000 0x21000 then
    let e := s.engine ((a - 0x20000) / 0x200) ((a - 0x20000) % 0x200 / 0x40)
    match (a - 0x20000) % 0x40 / 8 with
    | 0 => e.seed.toNat
    | 1 => putBits (b2n e.err.valid) 1 63 + putBits e.err.cause 5 58 + putBits e.err.ctx 6 52 + putBits e.err.va 52 0
    | _ => 0
  else if inR 0x30000 0x30400 then
    let g := s.gazeReg ((a - 0x30000) / 16)
    if a % 16 = 0 then g.x.toNat + 2 ^ 32 * g.y.toNat else g.seq.toNat
  else if inR 0x40000 0x44000 then
    let v := s.vset ((a - 0x40000) / 0x100)
    let o := (a - 0x40000) % 0x100
    if o = 0 then putBits v.f 32 32 + putBits v.ctx 6 24 + v.st.code
    else if 0x80 ≤ o then
      putBits (Tab.get 0 v.late ((o - 0x80) / 8)).toNat 32 32 + (Tab.get 0 v.miss ((o - 0x80) / 8)).toNat
    else 0
  else if inR 0x50000 0x50040 && a % 16 = 0 then
    let d := Tab.get (0, 0) s.dpout ((a - 0x50000) / 16)
    putBits d.2 16 16 + putBits d.1 16 0
  else if inR 0x60000 0x60800 && a % 0x40 = 8 then
    let p := s.port ((a - 0x60000) / 0x40)
    putBits p.retry.toNat 32 32 + putBits p.peerMod 12 18 + putBits p.peerPort 5 13 + putBits p.lanes 4 3 + p.st.code
  else if a = 0x61000 then putBits (b2n s.modid.bridge) 1 31 + putBits (b2n s.modid.hconf) 1 30 + putBits s.modid.id 12 0
  else if inR 0x62000 0x62040 && a % 16 = 0 then
    let t := Tab.get {} s.streams ((a - 0x62000) / 16)
    putBits t.drop.toNat 32 32 + putBits (b2n t.en) 1 31 + putBits t.port 5 12 + putBits t.dest 12 0
  else if a = 0x70000 then putBits (b2n s.pwr.ready) 1 31 + putBits (b2n s.pwr.trip) 1 30 + putBits (b2n s.pwr.throt) 1 29
    + putBits (if s.pwr.trip then s.pwr.tmax else s.tmax) 8 16 + putBits s.pwr.aclk 8 8 + putBits s.pwr.st 2 0
  else if inR 0x70100 0x70140 then nth 0 s.gauge (i 0x70100)
  else if inR 0x70200 0x70240 then (Tab.get 0 s.cerr (i 0x70200)).toNat
  else if inR 0x80000 0x80800 then
    putBits (Tab.get 0 s.keyLoads (i 0x80000)) 32 32 + b2n (Tab.get false s.keyFull (i 0x80000))
  else if inR 0x90000 0x90020 then bytes (fun k => Tab.get 0 s.fw.nonce (a - 0x90000 + k))
  else if a = 0x90040 then b2n s.fw.busy
  else if inR 0x90080 0x90100 then bytes (fun k => nth 0 s.fw.sig (a - 0x90080 + k))
  else if inR 0xF00000 0xF00400 then Tab.get 0 s.ints.table ((a - 0xF00000) / 4) + 2 ^ 32 * Tab.get 0 s.ints.table ((a - 0xF00000) / 4 + 1)
  else if a = 0xF01000 then s.ints.pending
  else 0

/-- An access of 1, 2, 4 or 8 bytes aligned to its size (R397). -/
def plainAccess (a size : Nat) : Bool := (size = 1 || size = 2 || size = 4 || size = 8) && a % size = 0

/-- A request that splits into 8-byte accesses: it begins and ends at multiples of 8 (R397; log 78). -/
def splits (a size : Nat) : Bool := a % 8 = 0 && size % 8 = 0

/-- A plain read (R376, R397): until READY is 1 every register but PWRSTAT reads all ones. -/
def State.mgmtRead8 (s : State) (a size : Nat) : Nat :=
  if !s.pwr.ready && a / 8 ≠ 0x70000 / 8 then 2 ^ (8 * size) - 1
  else s.mgmtWord (a / 8 * 8) / 2 ^ (8 * (a % 8)) % 2 ^ (8 * size)

/-- A read of the management register space (R397): plain, or its 8-byte accesses one after the other, or all ones. -/
def State.mgmtRead (s : State) (a size : Nat) : Nat :=
  if plainAccess a size then s.mgmtRead8 a size
  else if splits a size then ((List.range (size / 8)).map (fun i => s.mgmtRead8 (a + 8 * i) 8 * 2 ^ (64 * i))).sum
  else 2 ^ (8 * size) - 1

/-- A write to a word of the MSI-X table: a vector that is unmasked sends its pending message (18_link R369). -/
def State.writeMsix (s : State) (w x : Nat) : State :=
  let s := { s with ints := { s.ints with table := Tab.set 0 s.ints.table w (x % 2 ^ 32) } }
  let v := w / 4
  if w % 4 = 3 ∧ !bit x 0 ∧ bit s.ints.pending v then
    let p := s.ints.pending
    { s with ints := { s.ints with pending := p - 2 ^ v } }.msix v
  else s

/-- A write to a context slot's registers (07_context R140, 08_queue R159): CMD acts where its byte is covered, after ERR. A
RESUME written here restores; a restore that fails is the RESUME event's. -/
def State.writeSlot (s : State) (k : Nat) (w : RegWr) : State :=
  let o := w.off
  if o < 8 then s.writeDesc k (w.merge (s.ctx k).descAddr)
  else if o < 16 then
    let x := { w with off := o - 8 }.merge 0
    let s := if bit x 30 then s.modCtx k (fun c => { c with err := false }) else s
    s.ctxCmd k (bits x 3 0) true
  else if o = 24 ∧ w.size = 8 ∧ w.en % 256 = 255 then s.evpost k (bits w.data 39 32) (BitVec.ofNat 32 w.data)
  else s

/-- A write to a copy engine's registers (13_transfer R255). -/
def State.writeEngine (s : State) (d e : Nat) (w : RegWr) : State :=
  let x := s.engine d e
  let o := w.off
  if o < 4 then
    if w.touches 0 4 then s.setEngine d e { x with seed := seedOf (BitVec.ofNat 32 (w.merge x.seed.toNat)) } else s
  else if 8 ≤ o && o < 16 && bit ({ w with off := o - 8 }.merge 0) 63 then
    s.setEngine d e { x with err := { x.err with valid := false } }
  else s

/-- A write to APPEND (18_link R368): its bytes are stored, and a write that covers byte 0x3F sends. -/
def State.writeAppend (s : State) (k : Nat) (w : RegWr) : State :=
  let s := { s with appendBuf := w.put (64 * k) s.appendBuf }
  if w.covers 0x3F then s.hostAppend k else s

/-- A write to the management register space (R397): the bytes it covers change under their access codes, and a register
that does more acts once. -/
def State.mgmtWrite (s : State) (a size data en : Nat) : State :=
  let inR (lo hi : Nat) : Bool := lo ≤ a && a < hi
  let w (base : Nat) : RegWr := ⟨a - base, size, data, en⟩
  if en % 2 ^ size = 0 then s
  else if inR 0x2000 0x2008 then
    if s.pginv.busy then s
    else { s with pginv := { s.pginv with va := (w 0x2000).merge s.pginv.va % 2 ^ 52 } }
  else if inR 0x2008 0x200C then
    if (w 0x2008).touches 0 4 then s.writePginvCtl ((w 0x2008).merge (putBits s.pginv.kind 2 10 + putBits s.pginv.ctx 6 0)) else s
  else if inR 0x8000 0x8800 then s.writeSlot ((a - 0x8000) / 32) ⟨(a - 0x8000) % 32, size, data, en⟩
  else if inR 0xC000 0xD000 then s.writeAppend ((a - 0xC000) / 64) ⟨(a - 0xC000) % 64, size, data, en⟩
  else if inR 0xE000 0xE004 then s.setInts (s.ints.stat &&& (1023 - (w 0xE000).merge 0 % 1024)) s.ints.en
  else if inR 0xE008 0xE00C then s.setInts s.ints.stat ((w 0xE008).merge s.ints.en % 1024)
  else if inR 0xE010 0xE018 then
    { s with ints := { s.ints with grp := s.ints.grp &&& (2 ^ 64 - 1 - (w 0xE010).merge 0 % 2 ^ 64) } }
  else if inR 0x10000 0x20000 then
    let d := (a - 0x10000) / 0x2000
    let k := (a - 0x10000) % 0x2000 / 32
    match ({ w 0 with off := a % 32 } : RegWr).merge 0 / 2 ^ 224 with
    | 1 => s.replaySlot d k
    | 2 => s.abortSlot d k
    | _ => s
  else if inR 0x20000 0x21000 then
    s.writeEngine ((a - 0x20000) / 0x200) ((a - 0x20000) % 0x200 / 64) ⟨(a - 0x20000) % 64, size, data, en⟩
  else if inR 0x30000 0x30400 then s.writeGaze ((a - 0x30000) / 16) ((a - 0x30000) % 16) size data en
  else if inR 0x40000 0x44000 then
    let k := (a - 0x40000) / 0x100
    let o := (a - 0x40000) % 0x100
    if o < 0x80 then s
    else
      let v := (o - 0x80) / 8
      let x := s.vset k
      let n := (⟨o % 8, size, data, en⟩ : RegWr).merge ((Tab.get 0 x.miss v).toNat + 2 ^ 32 * (Tab.get 0 x.late v).toNat)
      s.setVset k { x with miss := Tab.set 0 x.miss v (BitVec.ofNat 32 n)
                           late := Tab.set 0 x.late v (BitVec.ofNat 32 (n / 2 ^ 32)) }
  else if inR 0x60000 0x60800 then
    let p := (a - 0x60000) / 64
    let o := a % 64
    if o < 4 then s.linkCmd p (bits ((⟨o, size, data, en⟩ : RegWr).merge 0) 3 0)
    else if 8 ≤ o && o < 16 then
      let x := s.port p
      s.setPort p { x with retry := BitVec.ofNat 32 ((⟨o - 8, size, data, en⟩ : RegWr).merge (2 ^ 32 * x.retry.toNat) / 2 ^ 32) }
    else s
  else if inR 0x62000 0x62040 then
    let k := (a - 0x62000) / 16
    let o := a % 16
    if o ≥ 8 then s
    else
      let t := Tab.get {} s.streams k
      let old := putBits t.drop.toNat 32 32 + putBits (b2n t.en) 1 31 + putBits t.port 5 12 + putBits t.dest 12 0
      let x := (⟨o, size, data, en⟩ : RegWr).merge old
      { s with streams := Tab.set {} s.streams k { t with
          drop := BitVec.ofNat 32 (x / 2 ^ 32), en := bit x 31, port := bits x 16 12, dest := bits x 11 0 } }
  else if inR 0x70200 0x70240 then
    let d := (a - 0x70200) / 8
    { s with cerr := Tab.set 0 s.cerr d (BitVec.ofNat 32 ((⟨a % 8, size, data, en⟩ : RegWr).merge (Tab.get 0 s.cerr d).toNat)) }
  else if inR 0x90000 0x90020 then { s with fw := { s.fw with nonce := (w 0x90000).put 0 s.fw.nonce } }
  else if a = 0x90040 then if bit ((w 0x90040).merge 0) 0 then s.attest else s
  else if inR 0xF00000 0xF00400 then
    let k := (a - 0xF00000) / 4
    let old (i : Nat) : Nat := Tab.get 0 s.ints.table i
    let x := (⟨a % 4, size, data, en⟩ : RegWr)
    let s := if x.touches 0 4 then s.writeMsix k (x.merge (old k) % 2 ^ 32) else s
    if x.touches 4 8 then s.writeMsix (k + 1) (x.merge (2 ^ 32 * old (k + 1)) / 2 ^ 32) else s
  else s

/-- A host request's write (R397): plain, or its 8-byte accesses in ascending order with their byte enables, or ignored. -/
def State.mgmtRequest (s : State) (a size data en : Nat) : State :=
  if plainAccess a size then s.mgmtWrite a size data en
  else if splits a size then
    (List.range (size / 8)).foldl (fun s i =>
      s.mgmtWrite (a + 8 * i) 8 (bits data (64 * i + 63) (64 * i)) (bits en (8 * i + 7) (8 * i))) s
  else s

/-- MGMT_REG_WRITE (R397): a host request of `size` bytes with their byte enables. The recovery loader takes it as bytes of a
new image, and nothing else (R377). -/
def execEvMgmtRegWrite (addr size : Nat) (data : HostData) (s : State) : Out :=
  if addr + size ≤ 2 ^ 24 then
    if s.fw.recovery then
      answer { s with fw := { s.fw with image := (⟨0, size, data.data, data.en⟩ : RegWr).put addr s.fw.image } }
    else hostWrite s (fun s => s.mgmtRequest addr size data.data data.en)
  else .refused .notEnabled

end Sys2Proof.Machine
end

