-- ==== Sys2Proof/Machine/Turn.lean ====
section
/-!
DEFINITION. What happens next (log 1): the word at which a clause issue stands, the internal events that a state may be ready
for, and the placing of one instruction where the next step fetches it.
-/
namespace Sys2Proof.Machine

/-- What stands at the word of a group's open clause issue. -/
inductive WordAt where
  /-- the group has no open clause issue that goes on -/
  | none
  /-- an instruction, legal by its encoding -/
  | run (i : Instr)
  /-- an illegal encoding: the state after its ILL -/
  | ill (s : State)
  deriving DecidableEq, Repr

/-- ILL at a word whose encoding is illegal (02_encoding R37, 07_context R146). -/
def State.illWord (s : State) (g : Nat) (x : Group) (c : Clause) : State :=
  match readEnc (c.words.drop (c.pos - 1)), s.team x.team with
  | some e, some t =>
    let c := { c with ilen := e.len }
    let act := activeOf e x c
    let s := s.setGroup g (x.modFlow (fun f => { f with clause := some c }))
    s.trapWord ⟨g, x, c, e, act, t.ctx, t⟩ { cause := .ill, tmask := act }
  | _, _ => (s.setGroup g (x.stand c .ready)).takeTrap g { cause := .ill, tmask := c.lanes } c.own c.next c.base c.lanes

/-- A group's clause issue is open and not parked. -/
def Group.issuing (x : Group) : Bool := x.on && x.flow.clause.isSome && x.flow.park.isNone

/-- The port that a word needs is free: its clause holds it, or no other group does; a CF word executes on S (02_encoding R26,
10_group R199). A word of a family that its clause does not admit traps, and needs none. -/
def State.portFree (s : State) (g : Nat) (x : Group) (c : Clause) : Bool :=
  match c.port with
  | some q => c.family ≠ 2 || q = 2 || (s.freePort x.core g 2).isSome
  | none => (s.freePort x.core g c.family).isSome

/-- The word at which a group's clause issue stands (02_encoding R24, R34). -/
def State.wordAt (s : State) (g : Nat) : WordAt :=
  match s.group g with
  | none => .none
  | some x =>
    match x.flow.clause with
    | none => .none
    | some c =>
      if !x.issuing || !s.portFree g x c then .none
      else
        match Sys2Proof.decode (c.words.drop (c.pos - 1)) with
        | .ok (i, _) => .run i
        | .error _ => .ill (s.illWord g x c)

/-- The group whose clause issue goes on: the one in turn, else the first whose word has its port. -/
def State.issuingGroup (s : State) : Option Nat :=
  let may (g : Nat) (x : Group) : Bool := x.issuing && (match x.flow.clause with
    | some c => s.portFree g x c
    | none => false)
  let first := (s.groups.find? (fun e => may e.1 e.2)).map (·.1)
  match s.sched.turn with
  | none => first
  | some g => match s.group g with
    | some x => if may g x then some g else first
    | none => first

/-- An event that may be due: what it does to a state in which it can happen. -/
abbrev Due := State → Out

/-- How an access of a die to some homes ends of itself: where one has no path left, with LINK (01_module R13); one of another
module otherwise awaits its answer. -/
def endDue (die : Nat) (homes : List Nat) (f : IoEnd → Due) : Due := fun s =>
  if !homes.all (s.reaches die) then f .link s
  else if homes.contains 9 then .refused .notEnabled
  else f .ok s

/-- The events of one group that may be due, other than its clause issues. -/
def Group.due (g : Nat) (x : Group) : List Due :=
  let die := dieOfCore x.core
  let loads : List Due := x.io.pend.filterMap (fun p => match p.kind with
    | .load | .pref | .ret _ | .far _ | .ray .. | .block _ none => some (endDue die p.homes (fun r => execEvLoadReturn g p.id r []))
    | .qpost .. => some (endDue die p.homes (fun r => execEvQpostReply g p.id r false))
    | .atomic | .engine _ | .block _ (some _) => none)
  let stores : List Due := match x.io.sq with
    | e :: _ => [endDue die (homesOf e.work.places) (fun r => execEvStorePerformed g r [])]
    | [] => []
  loads ++ stores ++ [execEvPageWalk g, execEvWatchExpiry g] ++ (List.range 5).map (execEvPortPassoverLimit g)
    ++ [execEvTensionRound g, execEvGroupResume g, execEvGroupEnd g, execEvVgrowGrant g, execEvVgrowDeadlockFail g]

/-- The events of one core that may be due. -/
def coreDue (k : Nat) : List Due :=
  (List.range 4).map (execEvWindowTimerExpiry k) ++ (List.range 4).map (execEvWindowEnterLocks k)
    ++ (List.range 4).map (fun w => execEvWindowScatter k w .ok) ++ (List.range 8).map (execEvActSwap k)
    ++ [execEvTileOpComplete k .ok, execEvTileOpComplete k .link, execEvTileOpAccept k, execEvLeaseCountExpiry k,
        execEvLeaseIdleExpiry k, execEvEngineGrant k]

/-- The events of one copy engine that may be due. -/
def engineDue (e : Nat) : List Due :=
  [execEvTransferStart (e / 8) (e % 8) 0, execEvTransferComplete (e / 8) (e % 8) .ok]

/-- What the view controller does at a moment of its own for a view set: the bound latches and the rows that leave, each with
its moment; and a waiting binding as soon as it can be applied (16_view R312, R314, R315). -/
def ViewSet.clocked (k : Nat) (x : ViewSet) : List (Nat × Due) :=
  ((List.range x.views.length).map (fun v =>
    ((x.latchDue v).map (fun e => (e.2, execEvBoundLatchExpiry k v))).toList
      ++ ((x.nextRow v).map (fun e => (e.2.2.2, execEvRowEmit k v))).toList)).flatten

/-- The view controller's next action whose moment has come, the earliest first: nothing else takes place before it, so that it
meets the state of its own moment (16_view R312, R315). -/
def State.timed (s : State) : Option Due :=
  let due := ((s.vsets.map (fun e => e.2.clocked e.1)).flatten).filter (fun e => e.1 ≤ s.sched.time)
  let first := due.foldl (fun (m : Option (Nat × Due)) e => match m with
    | some a => if e.1 < a.1 then some e else m
    | none => some e) none
  first.map (·.2)

/-- The events of one context that may be due. -/
def Ctx.due (k : Nat) (x : Ctx) : List Due :=
  (x.tq.map (fun q => [execEvGatherWaitExpiry k q.1, execEvTaskqClosed k q.1])).flatten
    ++ [execEvDrainingEnd k, execEvEntryqMove k]

/-- Every internal event that may be due, in the order in which the model tries them. What comes from outside the module (hosts,
links, firmware policy, memory errors) happens only where the agenda says so. -/
def State.due (s : State) : List Due :=
  (s.groups.map (fun e => e.2.due e.1)).flatten ++ (s.cores.map (fun e => coreDue e.1)).flatten
    ++ (s.engines.map (fun e => engineDue e.1)).flatten
    ++ (s.clusters.map (fun e => [execEvViewOpRun e.1 .ok, execEvViewOpComplete e.1])).flatten
    ++ s.vsets.map (fun e => execEvVsetApply e.1)
    ++ s.faults.map (fun e => execEvFaultReplayDone (e.1 / 256) (e.1 % 256)) ++ [execEvPginvComplete]
    ++ s.teams.map (fun e => execEvTeamEnded e.1) ++ (s.ctxs.map (fun e => e.2.due e.1)).flatten
    ++ (s.records.map (fun e => [execEvRecordReady e.1, execEvSchedPassoverLimit e.1])).flatten
    ++ [execEvTeamPlace, execEvDisplayPreempt] ++ s.groups.map (fun e => execEvClauseIssue e.1)

/-- The kernel of the group that a placed instruction runs in: 16 lanes with 128 registers each. -/
def placedKernel : Kernel := { stkAreas := 1, vgc := 16 }

/-- The clause issue that holds a placed instruction: a mixed clause as long as its words, at offset 0, its 16 lanes issued. -/
def placedClause (ws : List Word) : Clause :=
  { base := 0, hdr := BitVec.ofNat 32 (putBits ws.length 4 28 + putBits 4 3 25 + putBits 15 4 9 + putBits 15 4 5)
    words := ws, pos := 1, lanes := 0xFFFF }

/-- The state with one group of context 0 in turn, whose open clause issue begins with the given words: what a placement and a
clause issue leave. Nothing else changes. -/
def State.withWords (s : State) (ws : List Word) : State :=
  let (tid, s) := s.fresh
  let (g, s) := s.fresh
  let s := s.modCtx 0 (fun c => { c with st := .running })
  let s := s.setTeam tid { ctx := 0, record := none, kern := placedKernel, cluster := 0 }
  let lane : Lane := { pc := 0, cb := 0 }
  let s := s.setGroup g
    { team := tid, gid := 0, core := 0, slot := 0, w := 16, alloc := 128, grans := [0, 0, 0, 0, 1, 1, 1, 1, 2, 2, 2, 2, 3, 3, 3, 3]
      lanes := List.replicate 16 lane, flow := { clause := some (placedClause ws) } }
  { s with sched := { s.sched with turn := some g, agenda := [] } }

end Sys2Proof.Machine
end

