-- ==== Sys2Proof/Machine/Dispatch.lean ====
section
/-!
DEFINITION. The dispatcher: one arm per instruction and event of the opcode table.
-/
namespace Sys2Proof.Machine

/-- What an instruction or an event does. -/
def exec (i : Instr) (s : State) : Host.Outcome State Fault Refusal :=
  match i with
  | .vaAddI32 w => Sys2Proof.Machine.execVaAddI32 w s
  | .vaSubI32 w => Sys2Proof.Machine.execVaSubI32 w s
  | .vaMulI32 w => Sys2Proof.Machine.execVaMulI32 w s
  | .vaAndB32 w => Sys2Proof.Machine.execVaAndB32 w s
  | .vaOrB32 w => Sys2Proof.Machine.execVaOrB32 w s
  | .vaXorB32 w => Sys2Proof.Machine.execVaXorB32 w s
  | .vaShlB32 w => Sys2Proof.Machine.execVaShlB32 w s
  | .vaShrN32 w => Sys2Proof.Machine.execVaShrN32 w s
  | .vaShrI32 w => Sys2Proof.Machine.execVaShrI32 w s
  | .vaMinI32 w => Sys2Proof.Machine.execVaMinI32 w s
  | .vaMaxI32 w => Sys2Proof.Machine.execVaMaxI32 w s
  | .vaMinN32 w => Sys2Proof.Machine.execVaMinN32 w s
  | .vaMaxN32 w => Sys2Proof.Machine.execVaMaxN32 w s
  | .vaAddF32 w => Sys2Proof.Machine.execVaAddF32 w s
  | .vaSubF32 w => Sys2Proof.Machine.execVaSubF32 w s
  | .vaMulF32 w => Sys2Proof.Machine.execVaMulF32 w s
  | .vaMinF32 w => Sys2Proof.Machine.execVaMinF32 w s
  | .vaMaxF32 w => Sys2Proof.Machine.execVaMaxF32 w s
  | .vaAndnB32 w => Sys2Proof.Machine.execVaAndnB32 w s
  | .vaMovB32 w => Sys2Proof.Machine.execVaMovB32 w s
  | .cmpInt w => Sys2Proof.Machine.execCmpInt w s
  | .cmpFloat w => Sys2Proof.Machine.execCmpFloat w s
  | .ldo w => Sys2Proof.Machine.execLdo w s
  | .sto w => Sys2Proof.Machine.execSto w s
  | .scAddI32 w => Sys2Proof.Machine.execScAddI32 w s
  | .scSubI32 w => Sys2Proof.Machine.execScSubI32 w s
  | .scMulI32 w => Sys2Proof.Machine.execScMulI32 w s
  | .scAndB32 w => Sys2Proof.Machine.execScAndB32 w s
  | .scOrB32 w => Sys2Proof.Machine.execScOrB32 w s
  | .scXorB32 w => Sys2Proof.Machine.execScXorB32 w s
  | .scShlB32 w => Sys2Proof.Machine.execScShlB32 w s
  | .scShrN32 w => Sys2Proof.Machine.execScShrN32 w s
  | .scShrI32 w => Sys2Proof.Machine.execScShrI32 w s
  | .scMinI32 w => Sys2Proof.Machine.execScMinI32 w s
  | .scMaxI32 w => Sys2Proof.Machine.execScMaxI32 w s
  | .scMinN32 w => Sys2Proof.Machine.execScMinN32 w s
  | .scMaxN32 w => Sys2Proof.Machine.execScMaxN32 w s
  | .scMovB32 w => Sys2Proof.Machine.execScMovB32 w s
  | .scSltI32 w => Sys2Proof.Machine.execScSltI32 w s
  | .scSltN32 w => Sys2Proof.Machine.execScSltN32 w s
  | .scSeqB32 w => Sys2Proof.Machine.execScSeqB32 w s
  | .scPopcB32 w => Sys2Proof.Machine.execScPopcB32 w s
  | .scClzB32 w => Sys2Proof.Machine.execScClzB32 w s
  | .scAddF32 w => Sys2Proof.Machine.execScAddF32 w s
  | .scMulF32 w => Sys2Proof.Machine.execScMulF32 w s
  | .scMinF32 w => Sys2Proof.Machine.execScMinF32 w s
  | .scMaxF32 w => Sys2Proof.Machine.execScMaxF32 w s
  | .scMad w => Sys2Proof.Machine.execScMad w s
  | .scFma w => Sys2Proof.Machine.execScFma w s
  | .scBfe w => Sys2Proof.Machine.execScBfe w s
  | .scBfi w => Sys2Proof.Machine.execScBfi w s
  | .scCvt w => Sys2Proof.Machine.execScCvt w s
  | .scSel w => Sys2Proof.Machine.execScSel w s
  | .cfBra w => Sys2Proof.Machine.execCfBra w s
  | .cfJmp w => Sys2Proof.Machine.execCfJmp w s
  | .cfCall w => Sys2Proof.Machine.execCfCall w s
  | .cfRet w => Sys2Proof.Machine.execCfRet w s
  | .cfBrx w => Sys2Proof.Machine.execCfBrx w s
  | .cfCallx w => Sys2Proof.Machine.execCfCallx w s
  | .cfMeet w => Sys2Proof.Machine.execCfMeet w s
  | .cfExit w => Sys2Proof.Machine.execCfExit w s
  | .cfKill w => Sys2Proof.Machine.execCfKill w s
  | .cfYield w => Sys2Proof.Machine.execCfYield w s
  | .cfJz w => Sys2Proof.Machine.execCfJz w s
  | .cfJnz w => Sys2Proof.Machine.execCfJnz w s
  | .cfNop w => Sys2Proof.Machine.execCfNop w s
  | .vxAdd w => Sys2Proof.Machine.execVxAdd w s
  | .vxSub w => Sys2Proof.Machine.execVxSub w s
  | .vxMul w => Sys2Proof.Machine.execVxMul w s
  | .vxAnd w => Sys2Proof.Machine.execVxAnd w s
  | .vxOr w => Sys2Proof.Machine.execVxOr w s
  | .vxXor w => Sys2Proof.Machine.execVxXor w s
  | .vxShl w => Sys2Proof.Machine.execVxShl w s
  | .vxShr w => Sys2Proof.Machine.execVxShr w s
  | .vxMin w => Sys2Proof.Machine.execVxMin w s
  | .vxMax w => Sys2Proof.Machine.execVxMax w s
  | .vxAndn w => Sys2Proof.Machine.execVxAndn w s
  | .vxMov w => Sys2Proof.Machine.execVxMov w s
  | .vxAdds w => Sys2Proof.Machine.execVxAdds w s
  | .vxSubs w => Sys2Proof.Machine.execVxSubs w s
  | .vxMulhi w => Sys2Proof.Machine.execVxMulhi w s
  | .vxMad w => Sys2Proof.Machine.execVxMad w s
  | .vxAbs w => Sys2Proof.Machine.execVxAbs w s
  | .vxNeg w => Sys2Proof.Machine.execVxNeg w s
  | .vxLea w => Sys2Proof.Machine.execVxLea w s
  | .vxBfe w => Sys2Proof.Machine.execVxBfe w s
  | .vxBfi w => Sys2Proof.Machine.execVxBfi w s
  | .vxFshl w => Sys2Proof.Machine.execVxFshl w s
  | .vxFshr w => Sys2Proof.Machine.execVxFshr w s
  | .vxPopc w => Sys2Proof.Machine.execVxPopc w s
  | .vxClz w => Sys2Proof.Machine.execVxClz w s
  | .vxBrev w => Sys2Proof.Machine.execVxBrev w s
  | .vxCmp w => Sys2Proof.Machine.execVxCmp w s
  | .vxFma w => Sys2Proof.Machine.execVxFma w s
  | .vxClamp w => Sys2Proof.Machine.execVxClamp w s
  | .vxFrnd w => Sys2Proof.Machine.execVxFrnd w s
  | .vxFclass w => Sys2Proof.Machine.execVxFclass w s
  | .vxRcp w => Sys2Proof.Machine.execVxRcp w s
  | .vxRsq w => Sys2Proof.Machine.execVxRsq w s
  | .vxSqrt w => Sys2Proof.Machine.execVxSqrt w s
  | .vxExp2 w => Sys2Proof.Machine.execVxExp2 w s
  | .vxLog2 w => Sys2Proof.Machine.execVxLog2 w s
  | .vxSinpi w => Sys2Proof.Machine.execVxSinpi w s
  | .vxCospi w => Sys2Proof.Machine.execVxCospi w s
  | .vxTanh w => Sys2Proof.Machine.execVxTanh w s
  | .vxSigm w => Sys2Proof.Machine.execVxSigm w s
  | .vxSel w => Sys2Proof.Machine.execVxSel w s
  | .vxPand w => Sys2Proof.Machine.execVxPand w s
  | .vxPor w => Sys2Proof.Machine.execVxPor w s
  | .vxPxor w => Sys2Proof.Machine.execVxPxor w s
  | .vxPnot w => Sys2Proof.Machine.execVxPnot w s
  | .vxCvt w => Sys2Proof.Machine.execVxCvt w s
  | .vxPack w => Sys2Proof.Machine.execVxPack w s
  | .vxUnpack w => Sys2Proof.Machine.execVxUnpack w s
  | .xlLpullAbs w => Sys2Proof.Machine.execXlLpullAbs w s
  | .xlLpullBel w => Sys2Proof.Machine.execXlLpullBel w s
  | .xlLpullAbv w => Sys2Proof.Machine.execXlLpullAbv w s
  | .xlLpullXor w => Sys2Proof.Machine.execXlLpullXor w s
  | .xlBcast w => Sys2Proof.Machine.execXlBcast w s
  | .xlLpeek w => Sys2Proof.Machine.execXlLpeek w s
  | .xlLpoke w => Sys2Proof.Machine.execXlLpoke w s
  | .xlVoteAll w => Sys2Proof.Machine.execXlVoteAll w s
  | .xlVoteAny w => Sys2Proof.Machine.execXlVoteAny w s
  | .xlVoteEq w => Sys2Proof.Machine.execXlVoteEq w s
  | .xlBallot w => Sys2Proof.Machine.execXlBallot w s
  | .xlScanAdd w => Sys2Proof.Machine.execXlScanAdd w s
  | .xlScanMin w => Sys2Proof.Machine.execXlScanMin w s
  | .xlScanMax w => Sys2Proof.Machine.execXlScanMax w s
  | .xlRedAdd w => Sys2Proof.Machine.execXlRedAdd w s
  | .xlRedMin w => Sys2Proof.Machine.execXlRedMin w s
  | .xlRedMax w => Sys2Proof.Machine.execXlRedMax w s
  | .xlRedAnd w => Sys2Proof.Machine.execXlRedAnd w s
  | .xlRedOr w => Sys2Proof.Machine.execXlRedOr w s
  | .xlMatch w => Sys2Proof.Machine.execXlMatch w s
  | .mxLd w => Sys2Proof.Machine.execMxLd w s
  | .mxSt w => Sys2Proof.Machine.execMxSt w s
  | .mxLdX2 w => Sys2Proof.Machine.execMxLdX2 w s
  | .mxStX2 w => Sys2Proof.Machine.execMxStX2 w s
  | .mxLdX4 w => Sys2Proof.Machine.execMxLdX4 w s
  | .mxStX4 w => Sys2Proof.Machine.execMxStX4 w s
  | .mxLdAcq w => Sys2Proof.Machine.execMxLdAcq w s
  | .mxStRel w => Sys2Proof.Machine.execMxStRel w s
  | .mxLdmx w => Sys2Proof.Machine.execMxLdmx w s
  | .mxPref w => Sys2Proof.Machine.execMxPref w s
  | .mxSld w => Sys2Proof.Machine.execMxSld w s
  | .mxSst w => Sys2Proof.Machine.execMxSst w s
  | .mxLdRo w => Sys2Proof.Machine.execMxLdRo w s
  | .mxAtomAdd w => Sys2Proof.Machine.execMxAtomAdd w s
  | .mxAtomMin w => Sys2Proof.Machine.execMxAtomMin w s
  | .mxAtomMax w => Sys2Proof.Machine.execMxAtomMax w s
  | .mxAtomAnd w => Sys2Proof.Machine.execMxAtomAnd w s
  | .mxAtomOr w => Sys2Proof.Machine.execMxAtomOr w s
  | .mxAtomXor w => Sys2Proof.Machine.execMxAtomXor w s
  | .mxAtomXchg w => Sys2Proof.Machine.execMxAtomXchg w s
  | .mxAtomCas w => Sys2Proof.Machine.execMxAtomCas w s
  | .mxFence w => Sys2Proof.Machine.execMxFence w s
  | .enTcopy w => Sys2Proof.Machine.execEnTcopy w s
  | .enTgather w => Sys2Proof.Machine.execEnTgather w s
  | .enTbin w => Sys2Proof.Machine.execEnTbin w s
  | .enCbload w => Sys2Proof.Machine.execEnCbload w s
  | .enHbind w => Sys2Proof.Machine.execEnHbind w s
  | .enHwait w => Sys2Proof.Machine.execEnHwait w s
  | .enHstate w => Sys2Proof.Machine.execEnHstate w s
  | .enHrel w => Sys2Proof.Machine.execEnHrel w s
  | .enHsig w => Sys2Proof.Machine.execEnHsig w s
  | .enBinset w => Sys2Proof.Machine.execEnBinset w s
  | .enBinrd w => Sys2Proof.Machine.execEnBinrd w s
  | .enCbstat w => Sys2Proof.Machine.execEnCbstat w s
  | .enMma w => Sys2Proof.Machine.execEnMma w s
  | .enTzero w => Sys2Proof.Machine.execEnTzero w s
  | .enTget w => Sys2Proof.Machine.execEnTget w s
  | .enTset w => Sys2Proof.Machine.execEnTset w s
  | .enTdrain w => Sys2Proof.Machine.execEnTdrain w s
  | .enOmap w => Sys2Proof.Machine.execEnOmap w s
  | .enOmapRel w => Sys2Proof.Machine.execEnOmapRel w s
  | .enSxsel w => Sys2Proof.Machine.execEnSxsel w s
  | .enTmov w => Sys2Proof.Machine.execEnTmov w s
  | .enTstat w => Sys2Proof.Machine.execEnTstat w s
  | .enTfill w => Sys2Proof.Machine.execEnTfill w s
  | .enNeval w => Sys2Proof.Machine.execEnNeval w s
  | .enNflush w => Sys2Proof.Machine.execEnNflush w s
  | .enActload w => Sys2Proof.Machine.execEnActload w s
  | .enNbind w => Sys2Proof.Machine.execEnNbind w s
  | .enNstat w => Sys2Proof.Machine.execEnNstat w s
  | .gxVamp w => Sys2Proof.Machine.execGxVamp w s
  | .gxVclose w => Sys2Proof.Machine.execGxVclose w s
  | .gxLensmap w => Sys2Proof.Machine.execGxLensmap w s
  | .gxPresent w => Sys2Proof.Machine.execGxPresent w s
  | .gxVopen w => Sys2Proof.Machine.execGxVopen w s
  | .gxVset w => Sys2Proof.Machine.execGxVset w s
  | .gxGazeld w => Sys2Proof.Machine.execGxGazeld w s
  | .gxVtile w => Sys2Proof.Machine.execGxVtile w s
  | .gxVcov w => Sys2Proof.Machine.execGxVcov w s
  | .gxVrec w => Sys2Proof.Machine.execGxVrec w s
  | .gxRlaunch w => Sys2Proof.Machine.execGxRlaunch w s
  | .gxRload w => Sys2Proof.Machine.execGxRload w s
  | .gxRstore w => Sys2Proof.Machine.execGxRstore w s
  | .gxRbox w => Sys2Proof.Machine.execGxRbox w s
  | .gxRtri w => Sys2Proof.Machine.execGxRtri w s
  | .gxRspush w => Sys2Proof.Machine.execGxRspush w s
  | .gxRspop w => Sys2Proof.Machine.execGxRspop w s
  | .gxBunion w => Sys2Proof.Machine.execGxBunion w s
  | .gxBsah w => Sys2Proof.Machine.execGxBsah w s
  | .gxBpack w => Sys2Proof.Machine.execGxBpack w s
  | .syLaunch w => Sys2Proof.Machine.execSyLaunch w s
  | .syQpost w => Sys2Proof.Machine.execSyQpost w s
  | .syTspawn w => Sys2Proof.Machine.execSyTspawn w s
  | .syTreserve w => Sys2Proof.Machine.execSyTreserve w s
  | .syTcommit w => Sys2Proof.Machine.execSyTcommit w s
  | .syEvsig w => Sys2Proof.Machine.execSyEvsig w s
  | .syEvwait w => Sys2Proof.Machine.execSyEvwait w s
  | .syEvread w => Sys2Proof.Machine.execSyEvread w s
  | .syBsync w => Sys2Proof.Machine.execSyBsync w s
  | .syBsyncCluster w => Sys2Proof.Machine.execSyBsyncCluster w s
  | .syBarrive w => Sys2Proof.Machine.execSyBarrive w s
  | .syBwait w => Sys2Proof.Machine.execSyBwait w s
  | .syRsync w => Sys2Proof.Machine.execSyRsync w s
  | .syRarrive w => Sys2Proof.Machine.execSyRarrive w s
  | .syRwait w => Sys2Proof.Machine.execSyRwait w s
  | .syVgrow w => Sys2Proof.Machine.execSyVgrow w s
  | .syVshrink w => Sys2Proof.Machine.execSyVshrink w s
  | .syVquery w => Sys2Proof.Machine.execSyVquery w s
  | .syVzero w => Sys2Proof.Machine.execSyVzero w s
  | .syTrap w => Sys2Proof.Machine.execSyTrap w s
  | .syBrk w => Sys2Proof.Machine.execSyBrk w s
  | .syCsrr w => Sys2Proof.Machine.execSyCsrr w s
  | .syCsrw w => Sys2Proof.Machine.execSyCsrw w s
  | .syCsrs w => Sys2Proof.Machine.execSyCsrs w s
  | .syCsrc w => Sys2Proof.Machine.execSyCsrc w s
  | .syTret w => Sys2Proof.Machine.execSyTret w s
  | .syCtxsave w => Sys2Proof.Machine.execSyCtxsave w s
  | .syMsend w => Sys2Proof.Machine.execSyMsend w s
  | .syMrecv w => Sys2Proof.Machine.execSyMrecv w s
  | .syMcast w => Sys2Proof.Machine.execSyMcast w s
  | .syMprobe w => Sys2Proof.Machine.execSyMprobe w s
  | .evClauseIssue group => Sys2Proof.Machine.execEvClauseIssue group s
  | .evTensionRound group => Sys2Proof.Machine.execEvTensionRound group s
  | .evPortPassoverLimit group port => Sys2Proof.Machine.execEvPortPassoverLimit group port s
  | .evGroupResume group => Sys2Proof.Machine.execEvGroupResume group s
  | .evLoadReturn group op res data => Sys2Proof.Machine.execEvLoadReturn group op res data s
  | .evStorePerformed group res data => Sys2Proof.Machine.execEvStorePerformed group res data s
  | .evWatchExpiry group => Sys2Proof.Machine.execEvWatchExpiry group s
  | .evGroupEnd group => Sys2Proof.Machine.execEvGroupEnd group s
  | .evPageWalk group => Sys2Proof.Machine.execEvPageWalk group s
  | .evFaultReplay die slot => Sys2Proof.Machine.execEvFaultReplay die slot s
  | .evFaultAbort die slot => Sys2Proof.Machine.execEvFaultAbort die slot s
  | .evFaultReplayDone die slot => Sys2Proof.Machine.execEvFaultReplayDone die slot s
  | .evPginvStart ctl => Sys2Proof.Machine.execEvPginvStart ctl s
  | .evPginvComplete => Sys2Proof.Machine.execEvPginvComplete s
  | .evCtxdescWrite ctx addr => Sys2Proof.Machine.execEvCtxdescWrite ctx addr s
  | .evInstall ctx => Sys2Proof.Machine.execEvInstall ctx s
  | .evSuspend ctx => Sys2Proof.Machine.execEvSuspend ctx s
  | .evResume ctx restored => Sys2Proof.Machine.execEvResume ctx restored s
  | .evRetire ctx => Sys2Proof.Machine.execEvRetire ctx s
  | .evDrainingEnd ctx => Sys2Proof.Machine.execEvDrainingEnd ctx s
  | .evQuantumExpiry ctx => Sys2Proof.Machine.execEvQuantumExpiry ctx s
  | .evEvpost ctx ctr amount => Sys2Proof.Machine.execEvEvpost ctx ctr amount s
  | .evEntryAppend ctx rec => Sys2Proof.Machine.execEvEntryAppend ctx rec s
  | .evHostAppend slot => Sys2Proof.Machine.execEvHostAppend slot s
  | .evQpostReply group op res accepted => Sys2Proof.Machine.execEvQpostReply group op res accepted s
  | .evEntryqMove ctx => Sys2Proof.Machine.execEvEntryqMove ctx s
  | .evRecordReady record => Sys2Proof.Machine.execEvRecordReady record s
  | .evTaskqClosed ctx q => Sys2Proof.Machine.execEvTaskqClosed ctx q s
  | .evGatherWaitExpiry ctx q => Sys2Proof.Machine.execEvGatherWaitExpiry ctx q s
  | .evTeamPlace => Sys2Proof.Machine.execEvTeamPlace s
  | .evSchedPassoverLimit record => Sys2Proof.Machine.execEvSchedPassoverLimit record s
  | .evDisplayPreempt => Sys2Proof.Machine.execEvDisplayPreempt s
  | .evTeamEnded team => Sys2Proof.Machine.execEvTeamEnded team s
  | .evVgrowGrant group => Sys2Proof.Machine.execEvVgrowGrant group s
  | .evVgrowDeadlockFail group => Sys2Proof.Machine.execEvVgrowDeadlockFail group s
  | .evTransferStart die engine elements => Sys2Proof.Machine.execEvTransferStart die engine elements s
  | .evTransferComplete die engine res => Sys2Proof.Machine.execEvTransferComplete die engine res s
  | .evEngineGrant core => Sys2Proof.Machine.execEvEngineGrant core s
  | .evLeaseCountExpiry core => Sys2Proof.Machine.execEvLeaseCountExpiry core s
  | .evLeaseIdleExpiry core => Sys2Proof.Machine.execEvLeaseIdleExpiry core s
  | .evTileOpAccept core => Sys2Proof.Machine.execEvTileOpAccept core s
  | .evTileOpComplete core res => Sys2Proof.Machine.execEvTileOpComplete core res s
  | .evWindowTimerExpiry core window => Sys2Proof.Machine.execEvWindowTimerExpiry core window s
  | .evWindowEnterLocks core window => Sys2Proof.Machine.execEvWindowEnterLocks core window s
  | .evWindowScatter core window res => Sys2Proof.Machine.execEvWindowScatter core window res s
  | .evActSwap core table => Sys2Proof.Machine.execEvActSwap core table s
  | .evViewOpRun cluster res => Sys2Proof.Machine.execEvViewOpRun cluster res s
  | .evViewOpComplete cluster => Sys2Proof.Machine.execEvViewOpComplete cluster s
  | .evVsetApply set => Sys2Proof.Machine.execEvVsetApply set s
  | .evBoundLatchExpiry set view => Sys2Proof.Machine.execEvBoundLatchExpiry set view s
  | .evRowEmit set view => Sys2Proof.Machine.execEvRowEmit set view s
  | .evGazeHostWrite reg off size data => Sys2Proof.Machine.execEvGazeHostWrite reg off size data s
  | .evDpOutputChange out width height => Sys2Proof.Machine.execEvDpOutputChange out width height s
  | .evTileCreditGrant stream tiles => Sys2Proof.Machine.execEvTileCreditGrant stream tiles s
  | .evLinkEnable port => Sys2Proof.Machine.execEvLinkEnable port s
  | .evLinkFence port => Sys2Proof.Machine.execEvLinkFence port s
  | .evLinkDrain port => Sys2Proof.Machine.execEvLinkDrain port s
  | .evLinkDisable port => Sys2Proof.Machine.execEvLinkDisable port s
  | .evLinkTrainingDone port lanes peer peerPort verified => Sys2Proof.Machine.execEvLinkTrainingDone port lanes peer peerPort verified s
  | .evLinkLaneFail port => Sys2Proof.Machine.execEvLinkLaneFail port s
  | .evLinkDrainDone port => Sys2Proof.Machine.execEvLinkDrainDone port s
  | .evBridgeDown bridge => Sys2Proof.Machine.execEvBridgeDown bridge s
  | .evRemoteAccess src fctx rctx addr op => Sys2Proof.Machine.execEvRemoteAccess src fctx rctx addr op s
  | .evHostMemAccess off n data => Sys2Proof.Machine.execEvHostMemAccess off n data s
  | .evAttest => Sys2Proof.Machine.execEvAttest s
  | .evAttestDone sig => Sys2Proof.Machine.execEvAttestDone sig s
  | .evKeyLoad slot => Sys2Proof.Machine.execEvKeyLoad slot s
  | .evKeyClear slot => Sys2Proof.Machine.execEvKeyClear slot s
  | .evColdReset boot => Sys2Proof.Machine.execEvColdReset boot s
  | .evPowerPolicyChange state aclk => Sys2Proof.Machine.execEvPowerPolicyChange state aclk s
  | .evStandbyWake aclk => Sys2Proof.Machine.execEvStandbyWake aclk s
  | .evThrottleOn temp => Sys2Proof.Machine.execEvThrottleOn temp s
  | .evThrottleOff aclk temp => Sys2Proof.Machine.execEvThrottleOff aclk temp s
  | .evTrip temp => Sys2Proof.Machine.execEvTrip temp s
  | .evUnitGate slice unit => Sys2Proof.Machine.execEvUnitGate slice unit s
  | .evUnitWake slice unit => Sys2Proof.Machine.execEvUnitWake slice unit s
  | .evMgmtRegWrite addr size data => Sys2Proof.Machine.execEvMgmtRegWrite addr size data s
  | .evRemoteOperationFails group op => Sys2Proof.Machine.execEvRemoteOperationFails group op s
  | .evFlitResend port => Sys2Proof.Machine.execEvFlitResend port s

end Sys2Proof.Machine
end

