-- ==== Sys2Proof/Machine/Step.lean ====
section
/-!
DEFINITION. One step (log 1): the view controller's action whose moment has come; else the next move of the agenda; else the
next word of the clause issue that goes on; else the first internal event that is due; else time passes.
-/
namespace Sys2Proof.Machine

/-- The word at which a group's clause issue stands takes its turn. -/
def stepWord (g : Nat) (s : State) : Host.Outcome State Fault Refusal :=
  match s.wordAt g with
  | .run i => exec i (s.setTurn (some g))
  | .ill t => answer t
  | .none => answer s

/-- An event of the agenda: it happens, or nothing does. A word is no event. -/
def stepEvent (i : Instr) (s : State) : Host.Outcome State Fault Refusal :=
  match i.enc with
  | some _ => answer s
  | none =>
    match exec i s with
    | .next t => .next t
    | .fault _ => answer s
    | .refused _ => answer s

/-- The first of the events that can happen; else time passes. -/
def stepFirst (s : State) : List Due → Host.Outcome State Fault Refusal
  | [] => answer s
  | d :: ds =>
    match d s with
    | .next t => .next t
    | .fault _ => stepFirst s ds
    | .refused _ => stepFirst s ds

/-- One step of the module where no moment of the view controller has come. -/
def stepTurn (s : State) : Host.Outcome State Fault Refusal :=
  match s.sched.agenda with
  | .event i :: rest => stepEvent i { s with sched := { s.sched with agenda := rest } }
  | .word g :: rest => stepWord g { s with sched := { s.sched with agenda := rest } }
  | .soft d :: rest => answer ({ s with sched := { s.sched with agenda := rest } }.softError d)
  | [] =>
    match s.issuingGroup with
    | some g => stepWord g s
    | none => stepFirst s s.due

/-- One step of the module: what the view controller does at a moment that has come goes first (16_view R312, R315). -/
def step (s : State) : Host.Outcome State Fault Refusal :=
  match s.timed with
  | none => stepTurn s
  | some d =>
    match d s with
    | .next t => .next t
    | .fault _ => stepTurn s
    | .refused _ => stepTurn s

/-- An instruction whose bits are w, numbered as the opcode table numbers them, stands where the next step fetches. -/
def State.withFetchWord (s : State) (nbits w : Nat) : State := s.withWords (tableWords nbits w)

end Sys2Proof.Machine
end

