-- ==== Sys2Proof/Safety.lean ====
section
/-!
DEFINITION. The terms in which claims about the machine are stated: when a group's word takes effect, what an instruction
leaves as it was, the canonical form of every memory, and the places of an instruction.
-/
namespace Sys2Proof.Machine

/-- The instruction i takes effect as the word of the group in turn, in the environment v (02_encoding R26, R28, R37;
05_memory R106; 10_group R194): the group stands at an open clause and is not parked, the word is legal there, its lanes have
met, no error waits for it, none of its registers is pending, and the flag that it counts is below 63. -/
structure ReadyIf (ill : Env → State → Bool) (i : Instr) (s : State) (v : Env) : Prop where
  turn : s.sched.turn = some v.g
  enc : i.enc = some v.e
  wf : i.wf = true
  atWord : ∃ x c, s.group v.g = some x ∧ x.flow.clause = some c ∧ x.flow.park = none ∧ s.team x.team = some v.team
    ∧ classAllows (hdrClass c.hdr) v.e.major.toNat = true ∧ v.e.fits x.w x.alloc = true
    ∧ ill ⟨v.g, x.sized c v.e, c.sized v.e, v.e, activeOf v.e (x.sized c v.e) (c.sized v.e), v.team.ctx, v.team⟩
        (s.setGroup v.g (x.sized c v.e)) = false
    ∧ v.e.meets (x.sized c v.e) (c.sized v.e) = some (v.x, v.cl)
  active : v.act = activeOf v.e v.x v.cl
  context : v.c = v.team.ctx
  late : v.x.lateFor v.e v.act = none
  free : v.x.blockedBy v.cl.own (v.x.readsOf v.e ++ v.e.writes v.x.w) = []
  flag : ∀ k, v.flag = some k → v.x.regs.getF k < 63 ∨ (v.x.resuming v.cl.own).isSome = true

/-- The instruction takes effect, where its legality needs nothing beyond its encoding and the group's allocation. -/
abbrev Ready : Instr → State → Env → Prop := ReadyIf noIll

/-- The state with the group as its word finds it. -/
def Env.at_ (v : Env) (s : State) : State := s.setGroup v.g v.x

/-- The state in which issue goes on at the group's next word, a step's time later. -/
def Env.next (v : Env) (s : State) : State := (s.advance v.g).tick

/-- What v[d] holds after each lane of Active has written its value: lanes outside Active, and every other register, keep
theirs (00_scope R8). -/
def Env.WroteLanes (v : Env) (d : Nat) (val : Nat → Word) (r : Regs) : Prop :=
  (∀ n l, l < 64 → r.getV n l = if n = d ∧ v.act.has l = true then val l else v.x.regs.getV n l)
    ∧ r.s = v.x.regs.s ∧ r.q = v.x.regs.q ∧ r.f = v.x.regs.f

/-- What the registers hold after one s register is written. -/
def Env.WroteScalar (v : Env) (d : Nat) (val : Word) (r : Regs) : Prop :=
  (∀ n, r.getS n = if n = d then val else v.x.regs.getS n)
    ∧ r.v = v.x.regs.v ∧ r.q = v.x.regs.q ∧ r.f = v.x.regs.f

/-- What the registers hold after each lane of Active has written its bit of q[d]; q0 stays true (04_lane R80, R81). -/
def Env.WrotePred (v : Env) (d : Nat) (val : Nat → Bool) (r : Regs) : Prop :=
  (∀ n l, l < 64 → (r.getQ n).has l =
      if n = d ∧ n ≠ 0 ∧ v.act.has l = true then val l else (v.x.regs.getQ n).has l)
    ∧ r.s = v.x.regs.s ∧ r.v = v.x.regs.v ∧ r.f = v.x.regs.f

/-- A lane but for the fields that issue moves: PC, MR, clause base, state and bypass count. -/
def Lane.still (l : Lane) : Lane := { l with pc := 0, mr := 0, cb := 0, st := .ready, bypass := 0 }

/-- A group but for its registers, its control registers, its issue state and where its lanes stand. -/
def Group.still (x : Group) : Group := { x with regs := {}, ctl := {}, flow := {}, lanes := x.lanes.map Lane.still }

/-- The machine but for its groups, its cores, the register units, which follow every write of a register (11_register R210), the
sensors' readings (19_device R378, R380), and the model's schedule and clock. -/
def State.still (s : State) : State := { s with groups := [], cores := [], pools := [], sched := {}, tmax := 0, gauge := [] }

/-- Every byte of every memory, and every presence bit, reads the same in two states. -/
def SameMemory (s t : State) : Prop :=
  (∀ pa key, t.readPa pa key = s.readPa pa key) ∧ (∀ core off, t.readSp core off = s.readSp core off)
    ∧ (∀ die off, t.readCsp die off = s.readCsp die off) ∧ (∀ core line, t.present core line = s.present core line)

/-- THE FRAME of an instruction that changes its group's registers and perhaps its core: the registers as `regs` says, the
sticky flags `raised`, the group's core as `core` says, and nothing else of the machine but where the group issues next, the
register units, the sensors and time. -/
structure Env.OnlyWith (v : Env) (s t : State) (regs : Regs → Prop) (raised : Flags) (core : Core → Core → Prop) : Prop where
  group : ∃ y, t.group v.g = some y ∧ regs y.regs
    ∧ y.ctl = { v.x.ctl with fstat := v.x.ctl.fstat ||| raised } ∧ y.still = v.x.still
  others : ∀ h, h ≠ v.g → t.group h = s.group h
  core : core (s.core v.x.core) (t.core v.x.core)
  cores : ∀ k, k ≠ v.x.core → t.core k = s.core k
  rest : t.still = s.still
  memory : SameMemory s t

/-- The frame of an instruction that changes its group's registers alone. -/
abbrev Env.Only (v : Env) (s t : State) (regs : Regs → Prop) (raised : Flags) : Prop :=
  v.OnlyWith s t regs raised (fun a b => b = a)

/-- A group but for its registers, its control registers, its issue state, where its lanes stand, and its accesses in
flight. -/
def Group.stillIo (x : Group) : Group := { x.still with io := {} }

/-- THE FRAME of an instruction that changes its own group alone, from the state s that its checks leave: the group as p says,
every other group and every core as they were, no byte of memory, and nothing else of the machine but the register units, the
sensors and the model's clock. -/
structure OnlyGroup (g : Nat) (s t : State) (p : Group → Prop) : Prop where
  group : ∃ y, t.group g = some y ∧ p y
  others : ∀ h, h ≠ g → t.group h = s.group h
  cores : ∀ k, t.core k = s.core k
  rest : t.still = s.still
  memory : SameMemory s t

/-- An operation of the group enters flight: its registers but its flag, its control registers and all but its accesses stay,
and the accesses in flight are as `io` says. -/
def Env.Enters (v : Env) (io : Io) (y : Group) : Prop :=
  y.regs = (v.x.count v.flag).regs ∧ y.ctl = v.x.ctl ∧ y.stillIo = v.x.stillIo ∧ y.io = io

/-- Every memory of the machine is in its canonical form (log 5): addresses rise, and nothing lists what an unlisted place
reads as. -/
def State.canonical (s : State) : Prop :=
  s.mem.wf = true ∧ Tab.wf 0 s.keyTag = true ∧ Tab.wf 0 s.hostMem = true ∧ s.sp.wf = true
    ∧ Tab.wf false s.presence = true ∧ s.csp.wf = true

end Sys2Proof.Machine
end

