-- ==== Sys2Proof/Certificates/Slice0/Obligations.lean ====
section
/-!
DEFINITION. The statements for the provers, and the tables of instructions and results that they name.
-/
namespace Sys2Proof.Claims

open Sys2Proof.Machine

/-- An operation on two bit vectors of the width of a type. -/
abbrev BitOp := Ty → (w : Nat) → BitVec w → BitVec w → BitVec w

/-- The value of an element of an integer type: signed for .i, else unsigned (03_numbers R52). -/
def elInt (t : Ty) (x : Nat) : Int := if t.isI then (BitVec.ofNat t.width x).toInt else x

/-- An operation on each pair of elements of two 32-bit values (04_lane R64). -/
def eachBits (f : BitOp) (t : Ty) (a b : Word) : Word :=
  put t ((List.range t.count).map (fun i =>
    (f t t.width (BitVec.ofNat t.width (el t a i)) (BitVec.ofNat t.width (el t b i))).toNat))

/-- The smaller of two elements: signed for .i, unsigned for .n. -/
def opMin : BitOp := fun t _ a b => if t.isI then (if b.slt a then b else a) else (if b.ult a then b else a)
/-- The larger of two elements. -/
def opMax : BitOp := fun t _ a b => if t.isI then (if a.slt b then b else a) else (if a.ult b then b else a)
/-- A shift right by b mod w: copies of the sign bit for .i, zeros for .n. -/
def opShr : BitOp := fun t w a b => if t.isI then a.sshiftRight (b.toNat % w) else a >>> (b.toNat % w)

/-- The one-word integer operations of VA: each constructor, the type it reads as, and what it computes (R68, R69, R83). -/
def vaTable : List ((VaWord → Instr) × Ty × BitOp) :=
  [(.vaAddI32, .i32, fun _ _ a b => a + b), (.vaSubI32, .i32, fun _ _ a b => a - b), (.vaMulI32, .i32, fun _ _ a b => a * b),
   (.vaAndB32, .b32, fun _ _ a b => a &&& b), (.vaOrB32, .b32, fun _ _ a b => a ||| b),
   (.vaXorB32, .b32, fun _ _ a b => a ^^^ b), (.vaAndnB32, .b32, fun _ _ a b => a &&& ~~~b),
   (.vaShlB32, .b32, fun _ w a b => a <<< (b.toNat % w)), (.vaShrN32, .n32, opShr), (.vaShrI32, .i32, opShr),
   (.vaMinI32, .i32, opMin), (.vaMaxI32, .i32, opMax), (.vaMinN32, .n32, opMin), (.vaMaxN32, .n32, opMax),
   (.vaMovB32, .b32, fun _ _ _ b => b)]

/-- The two-word integer operations of VX on two operands (R68, R69, R83). -/
def vxTable : List ((VxWord → Instr) × BitOp) :=
  [(.vxAdd, fun _ _ a b => a + b), (.vxSub, fun _ _ a b => a - b), (.vxMul, fun _ _ a b => a * b),
   (.vxAnd, fun _ _ a b => a &&& b), (.vxOr, fun _ _ a b => a ||| b), (.vxXor, fun _ _ a b => a ^^^ b),
   (.vxAndn, fun _ _ a b => a &&& ~~~b), (.vxMin, opMin), (.vxMax, opMax),
   (.vxShl, fun _ w a b => a <<< (b.toNat % w)), (.vxShr, opShr), (.vxMov, fun _ _ _ b => b)]

/-- An instruction has completed: exec answers a next state in which v[d] alone is written, in Active, with `val`. -/
def WritesLanes (i : Instr) (s : State) (v : Env) (d : Nat) (val : Nat → Word) (raised : Flags) : Prop :=
  ∃ t, exec i s = .next t ∧ v.Only s t (v.WroteLanes d val) raised

/-- The type that a VX word names. -/
def tyOf (w : VxWord) : Ty := Ty.ofCode w.ty.toNat

/-- adds and subs: the exact result, clamped to the range of the type (R68). -/
def clampTo (t : Ty) (i : Int) : Int := max t.range.1 (min t.range.2 i)

/-- The elements of an exact operation, clamped. -/
def eachClamped (f : Int → Int → Int) (t : Ty) (a b : Word) : Word :=
  put t ((List.range t.count).map (fun i => (BitVec.ofInt t.width (clampTo t (f (elInt t (el t a i)) (elInt t (el t b i))))).toNat))

/-- SAT where some element of some lane of Active is clamped. -/
def satRaised (f : Int → Int → Int) (v : Env) (t : Ty) (a b : BitVec 8) : Flags :=
  if v.lanes.any (fun l => (List.range t.count).any (fun i =>
    let x := f (elInt t (el t (v.read a t l) i)) (elInt t (el t (v.read b t l) i))
    clampTo t x ≠ x)) then .sat else 0

/-- An instruction has completed with one s register written. -/
def WritesScalar (i : Instr) (s : State) (v : Env) (d : Nat) (val : Word) (raised : Flags) : Prop :=
  ∃ t, exec i s = .next t ∧ v.Only s t (v.WroteScalar d val) raised

/-- An instruction has completed with the bits of one predicate written in Active. -/
def WritesPred (i : Instr) (s : State) (v : Env) (d : Nat) (val : Nat → Bool) : Prop :=
  ∃ t, exec i s = .next t ∧ v.Only s t (v.WrotePred d val) 0

/-- Offset and effective length of a field control word (R71). -/
def fieldAt (ctl : Word) : Nat × Nat :=
  ((ctl.extractLsb' 0 5).toNat, min (ctl.extractLsb' 8 6).toNat (32 - (ctl.extractLsb' 0 5).toNat))

/-- r is the field of a that ctl describes, bit by bit (R71). -/
def IsBfe (sgn : Bool) (a ctl r : Word) : Prop :=
  ∀ i < 32, r.getLsbD i =
    if i < (fieldAt ctl).2 then a.getLsbD ((fieldAt ctl).1 + i)
    else sgn && decide (0 < (fieldAt ctl).2) && a.getLsbD ((fieldAt ctl).1 + (fieldAt ctl).2 - 1)

/-- r is c with the low bits of a inserted at the place that ctl describes, bit by bit (R71). -/
def IsBfi (a ctl c r : Word) : Prop :=
  ∀ i < 32, r.getLsbD i =
    if (fieldAt ctl).1 ≤ i ∧ i < (fieldAt ctl).1 + (fieldAt ctl).2 then a.getLsbD (i - (fieldAt ctl).1) else c.getLsbD i

/-- r counts the 1 bits of a (R73). -/
def IsPopc (a r : Word) : Prop := r.toNat = ((List.range 32).filter a.getLsbD).length

/-- r counts the zero bits above the highest 1 bit of a, 32 where there is none (R73). -/
def IsClz (a r : Word) : Prop :=
  (a = 0 → r = 32) ∧ (a ≠ 0 → r.toNat < 32 ∧ a.getLsbD (31 - r.toNat) = true ∧ ∀ j, 31 - r.toNat < j → j < 32 → a.getLsbD j = false)

/-- The OR of the flags that the lanes of Active raise (03_numbers R53). -/
def orFlags (v : Env) (f : Nat → Flags) : Flags := (v.lanes.map f).foldl (fun a b => a ||| b) 0

/-- An instruction has completed: lane l of Active writes `(f l).1` to v[d], and every flag of `(f l).2` is raised. -/
def WritesResults (i : Instr) (s : State) (v : Env) (d : Nat) (f : Nat → Res) : Prop :=
  WritesLanes i s v d (fun l => (f l).1) (orFlags v (fun l => (f l).2))

/-- The number that a finite value stands for (03_numbers R9, R47). -/
noncomputable def realOf : Val → ℝ
  | .fin n m e => (if n then -1 else 1) * m * 2 ^ e
  | _ => 0

/-- z is the exact sum of x and y, with the flag of an invalid operation; an exact zero has its IEEE 754 sign (R74, 03_numbers
R53). -/
def IsSum (rnd : Rnd) (x y z : Val) (raised : Flags) : Prop :=
  match x, y with
  | .nan, _ => z = .nan ∧ raised = 0
  | _, .nan => z = .nan ∧ raised = 0
  | .inf n, .inf n' => if n = n' then z = .inf n ∧ raised = 0 else z = .nan ∧ raised = .nv
  | .inf n, .fin _ _ _ => z = .inf n ∧ raised = 0
  | .fin _ _ _, .inf n => z = .inf n ∧ raised = 0
  | .fin n m e, .fin n' m' e' => raised = 0 ∧ ∃ neg q k, z = .fin neg q k
      ∧ realOf z = realOf (.fin n m e) + realOf (.fin n' m' e')
      ∧ (q = 0 → neg = if m = 0 ∧ m' = 0 ∧ n = n' then n else decide (rnd = .rd))

/-- z is the exact product of x and y, with the flag of an invalid operation (R74, 03_numbers R53). -/
def IsProduct (x y z : Val) (raised : Flags) : Prop :=
  match x, y with
  | .nan, _ => z = .nan ∧ raised = 0
  | _, .nan => z = .nan ∧ raised = 0
  | .inf n, .inf n' => z = .inf (n != n') ∧ raised = 0
  | .inf n, .fin n' m _ => if m = 0 then z = .nan ∧ raised = .nv else z = .inf (n != n') ∧ raised = 0
  | .fin n m _, .inf n' => if m = 0 then z = .nan ∧ raised = .nv else z = .inf (n != n') ∧ raised = 0
  | .fin n m e, .fin n' m' e' => raised = 0 ∧ ∃ q k, z = .fin (n != n') q k
      ∧ realOf z = realOf (.fin n m e) * realOf (.fin n' m' e')

/-- RoundTo of an exact value, with flags raised before it (03_numbers R54). -/
def rounded (t : Ty) (fm : FMode) (rnd : Rnd) (z : Val) (raised : Flags) : Nat × Flags :=
  ((roundTo t fm rnd z).1, raised ||| (roundTo t fm rnd z).2)

/-- What an operation on two encodings of a format gives, under the flush modes and a rounding mode. -/
abbrev FloatRel := Ty → FMode → Rnd → Nat → Nat → Nat × Flags → Prop

/-- The exact sum of the operands as read, rounded once. -/
def SumOf : FloatRel := fun t fm rnd a b r =>
  let x := Machine.decode t fm a
  let y := Machine.decode t fm b
  ∃ z f, IsSum rnd x.1 y.1 z f ∧ r = rounded t fm rnd z (x.2 ||| y.2 ||| f)

/-- The exact difference of the operands as read, rounded once. -/
def DifferenceOf : FloatRel := fun t fm rnd a b r =>
  let x := Machine.decode t fm a
  let y := Machine.decode t fm b
  ∃ z f, IsSum rnd x.1 y.1.negate z f ∧ r = rounded t fm rnd z (x.2 ||| y.2 ||| f)

/-- The exact product of the operands as read, rounded once. -/
def ProductOf : FloatRel := fun t fm rnd a b r =>
  let x := Machine.decode t fm a
  let y := Machine.decode t fm b
  ∃ z f, IsProduct x.1 y.1 z f ∧ r = rounded t fm rnd z (x.2 ||| y.2 ||| f)

/-- a x b + c, rounded once, the product exact. -/
def FmaOf (t : Ty) (fm : FMode) (rnd : Rnd) (a b c : Nat) (r : Nat × Flags) : Prop :=
  let x := Machine.decode t fm a
  let y := Machine.decode t fm b
  let w := Machine.decode t fm c
  ∃ p fp z f, IsProduct x.1 y.1 p fp ∧ IsSum rnd p w.1 z f ∧ r = rounded t fm rnd z (x.2 ||| y.2 ||| w.2 ||| fp ||| f)

/-- An encoding as an operand is read: a subnormal under its flush mode is the zero of its sign (03_numbers R56). -/
def asRead (t : Ty) (fm : FMode) (a : Nat) : Nat :=
  if isSubnormal t a && t.flushed fm then 2 ^ (t.width - 1) * (a / 2 ^ (t.width - 1) % 2) else a % 2 ^ t.width

/-- The order of min and max: -0 is less than +0 (R75). -/
def Precedes (x y : Val) : Prop :=
  match x, y with
  | .inf n, .inf n' => n = true ∧ n' = false
  | .inf n, .fin _ _ _ => n = true
  | .fin _ _ _, .inf n => n = false
  | .fin n m e, .fin n' m' e' => realOf (.fin n m e) < realOf (.fin n' m' e') ∨ (m = 0 ∧ m' = 0 ∧ n = true ∧ n' = false)
  | _, _ => False

/-- min and max: a NaN is ignored beside a number, two give the canonical NaN; else the operand as read that no operand comes
before (`below` the order of the operation), and no flag (R75). -/
def ExtremeOf (before : Val → Val → Prop) : FloatRel := fun t fm _ a b r =>
  let a' := asRead t fm a
  let b' := asRead t fm b
  let x := decodeRaw t a'
  let y := decodeRaw t b'
  r.2 = 0 ∧ (x = .nan → y = .nan → r.1 = t.canonNan) ∧ (x = .nan → y ≠ .nan → r.1 = b') ∧ (x ≠ .nan → y = .nan → r.1 = a')
    ∧ (x ≠ .nan → y ≠ .nan → (r.1 = a' ∨ r.1 = b') ∧ ¬ before x (decodeRaw t r.1) ∧ ¬ before y (decodeRaw t r.1))

def LeastOf : FloatRel := ExtremeOf Precedes
def GreatestOf : FloatRel := ExtremeOf (fun x y => Precedes y x)

/-- i is a magnitude m x 2^e rounded to an integer in a mode, its sign `neg` (03_numbers R54). -/
def IntegralOf (rnd : Rnd) (neg : Bool) (m : Nat) (e : Int) (i : Nat) : Prop :=
  let y : ℝ := m * 2 ^ e
  match rnd with
  | .rz => i ≤ y ∧ y < i + 1
  | .ru => if neg then i ≤ y ∧ y < i + 1 else i < y + 1 ∧ y ≤ i
  | .rd => if neg then i < y + 1 ∧ y ≤ i else i ≤ y ∧ y < i + 1
  | _ => |y - i| ≤ 1 / 2 ∧ (|y - i| = 1 / 2 → i % 2 = 0)

/-- frnd: the integral value in the same format, of the operand's sign, and no flag (R77). -/
def IntegralIn (t : Ty) (fm : FMode) (rnd : Rnd) (a : Nat) (r : Nat × Flags) : Prop :=
  r.2 = 0 ∧ match (Machine.decode t fm a).1 with
    | .nan => r.1 = t.canonNan
    | .inf _ => r.1 = a % 2 ^ t.width
    | .fin n m e => ∃ i, IntegralOf rnd n m e i ∧ r.1 = (roundTo t {} .rne (.fin n i 0)).1

/-- Exponent and mantissa bits of the three formats of fclass (03_numbers R47). -/
def classFmt (t : Ty) : Nat × Nat := if t = .f16 then (5, 10) else if t = .bf16 then (8, 7) else (8, 23)

/-- The class of an encoding, by its fields: bit numbers of R78. -/
def classBit (t : Ty) (x : Nat) : Nat :=
  let (eb, mb) := classFmt t
  let neg : Bool := x / 2 ^ (eb + mb) % 2 = 1
  let e := x / 2 ^ mb % 2 ^ eb
  let m := x % 2 ^ mb
  if e = 2 ^ eb - 1 then
    if m = 0 then (if neg then 0 else 7) else if m / 2 ^ (mb - 1) = 1 then 9 else 8
  else if e = 0 then
    if m = 0 then (if neg then 3 else 4) else (if neg then 2 else 5)
  else if neg then 1 else 6

/-- One result on each element of a value: their encodings put in place, and every flag raised (R64). -/
def Each (t : Ty) (R : Nat → Nat × Flags → Prop) (r : Res) : Prop :=
  ∃ es : List (Nat × Flags), es.length = t.count ∧ (∀ i, ∀ h : i < es.length, R i es[i])
    ∧ r = (put t (es.map (·.1)), es.foldl (fun a e => a ||| e.2) 0)

/-- An instruction has completed: each lane l of Active writes a result of which `P l` holds, and its flags are raised. -/
def WritesWhere (i : Instr) (s : State) (v : Env) (d : Nat) (P : Nat → Res → Prop) : Prop :=
  ∃ f : Nat → Res, (∀ l, P l (f l)) ∧ WritesResults i s v d f

/-- The float operations on two operands (R74, R75). -/
def floatTable : List ((VaWord → Instr) × (VxWord → Instr) × FloatRel) :=
  [(.vaAddF32, .vxAdd, SumOf), (.vaSubF32, .vxSub, DifferenceOf), (.vaMulF32, .vxMul, ProductOf),
   (.vaMinF32, .vxMin, LeastOf), (.vaMaxF32, .vxMax, GreatestOf)]

/-- The special functions (R79). -/
def sfuTable : List ((VxWord → Instr) × SfuOp) :=
  [(.vxRcp, .rcp), (.vxRsq, .rsq), (.vxSqrt, .sqrt), (.vxExp2, .exp2), (.vxLog2, .log2), (.vxSinpi, .sinpi),
   (.vxCospi, .cospi), (.vxTanh, .tanh), (.vxSigm, .sigm)]

/-- The functions on the reals (R79). -/
noncomputable def sfuReal : SfuOp → ℝ → ℝ
  | .rcp, x => 1 / x
  | .rsq, x => 1 / Real.sqrt x
  | .sqrt, x => Real.sqrt x
  | .exp2, x => (2 : ℝ) ^ x
  | .log2, x => Real.logb 2 x
  | .sinpi, x => Real.sin (Real.pi * x)
  | .cospi, x => Real.cos (Real.pi * x)
  | .tanh, x => Real.tanh x
  | .sigm, x => 1 / (1 + Real.exp (-x))

/-- The special operands of R79: the exact result and the flag raised; none where the function on the reals applies. -/
def sfuSpecial : SfuOp → Val → Option (Val × Flags)
  | _, .nan => some (.nan, 0)
  | .rcp, .inf n => some (.zero n, 0)
  | .rcp, .fin n m _ => if m = 0 then some (.inf n, .dz) else none
  | .rsq, .inf n => some (if n then (.nan, .nv) else (.zero false, 0))
  | .rsq, .fin n m _ => if m = 0 then some (.inf n, .dz) else if n then some (.nan, .nv) else none
  | .sqrt, .inf n => some (if n then (.nan, .nv) else (.inf false, 0))
  | .sqrt, .fin n m _ => if m = 0 then some (.zero n, 0) else if n then some (.nan, .nv) else none
  | .exp2, .inf n => some (if n then .zero false else .inf false, 0)
  | .log2, .inf n => some (if n then (.nan, .nv) else (.inf false, 0))
  | .log2, .fin n m _ => if m = 0 then some (.inf true, .dz) else if n then some (.nan, .nv) else none
  | .sinpi, .inf _ => some (.nan, .nv)
  | .cospi, .inf _ => some (.nan, .nv)
  | .tanh, .inf n => some (.fin n 1 0, 0)
  | .tanh, .fin n m _ => if m = 0 then some (.zero n, 0) else none
  | .sigm, .inf n => some (if n then .zero false else .fin false 1 0, 0)
  | _, _ => none

/-- z rounds in every format as y does: no encoding, no midpoint of two and no limit of a format of at most 24 significant bits
lies between them. -/
def SameCell (y : ℝ) (z : Val) : Prop :=
  (0 < y ↔ 0 < realOf z) ∧ (y < 0 ↔ realOf z < 0)
    ∧ ((∃ (q : ℕ) (e : ℤ), 2 ^ 50 ≤ q ∧ (q : ℝ) * 2 ^ e < |y| ∧ |y| < (q + 1) * 2 ^ e ∧ (q : ℝ) * 2 ^ e < |realOf z|
          ∧ |realOf z| < (q + 1) * 2 ^ e)
      ∨ (|y| < 1 / 2 ^ 200 ∧ |realOf z| < 1 / 2 ^ 200) ∨ (2 ^ 200 < |y| ∧ 2 ^ 200 < |realOf z|))

/-- The operands at which a function's value is decided exactly: all of the algebraic functions; those at which a transcendental
function has a value with a finite binary expansion: integers of exp2, powers of 2 of log2, multiples of one half of sinpi and
cospi, and 0 of sigm (R79). -/
def decided : SfuOp → ℝ → Prop
  | .rcp, _ => True
  | .rsq, _ => True
  | .sqrt, _ => True
  | .exp2, x => ∃ i : ℤ, x = i
  | .log2, x => ∃ i : ℤ, x = (2 : ℝ) ^ i
  | .sinpi, x => ∃ i : ℤ, 2 * x = i
  | .cospi, x => ∃ i : ℤ, 2 * x = i
  | .tanh, x => x = 0
  | .sigm, x => x = 0

/-- r is the real number y, not zero, rounded once: y itself or a stand-in beside it is rounded, so that an exact result
raises no NX. Where the operand is not `exact` the function is transcendental and y has no finite expansion: the result is the
correctly rounded one wherever an interval about y, narrower than 2^-200 of y, rounds to one result; where its two ends round
differently the result is the model's free value (log 9). -/
def RoundsReal (t : Ty) (fm : FMode) (rnd : Rnd) (f : Flags) (exact : Prop) (y : ℝ) (r : Nat × Flags) : Prop :=
  (∃ z, realOf z = y ∧ r = rounded t fm rnd z f) ∨ (∃ z, SameCell y z ∧ r = rounded t fm rnd z f)
    ∨ (¬ exact ∧ ∃ lo hi, realOf lo < y ∧ y < realOf hi ∧ realOf hi - realOf lo ≤ |y| / 2 ^ 200
        ∧ (roundTo t fm rnd lo = roundTo t fm rnd hi → r = rounded t fm rnd lo f))

/-- What a special function gives for an encoding (R79). -/
def SfuOf (op : SfuOp) (t : Ty) (fm : FMode) (rnd : Rnd) (a : Nat) (r : Nat × Flags) : Prop :=
  let x := Machine.decode t fm a
  match sfuSpecial op x.1 with
  | some z => r = rounded t fm rnd z.1 (x.2 ||| z.2)
  | none =>
    let y := sfuReal op (realOf x.1)
    (y = 0 → r = rounded t fm rnd (.zero (decide (op = .sinpi) && x.1.neg)) x.2)
      ∧ (y ≠ 0 → RoundsReal t fm rnd x.2 (decided op (realOf x.1)) y r)

/-- The rounding mode of MOD1. -/
def modeOf (w : TwoWord) : Rnd := nth .rne [.rne, .rz, .ru, .rd] w.x.mod1.toNat

/-- The ten integer conditions in COND order (02_encoding R36). -/
def intConds : List (Word → Word → Bool) :=
  [fun a b => a == b, fun a b => a != b, fun a b => a.slt b, fun a b => !b.slt a, fun a b => b.slt a, fun a b => !a.slt b,
   fun a b => a.ult b, fun a b => !b.ult a, fun a b => b.ult a, fun a b => !a.ult b]

/-- The fourteen float conditions in COND order, on two values (02_encoding R36): x and y are numbers, or one is a NaN. -/
def floatConds : List (Val → Val → Bool) :=
  [fun x y => x.eq y, fun x y => !(x.isNan || y.isNan) && !x.eq y, fun x y => x.lt y, fun x y => x.lt y || x.eq y,
   fun x y => y.lt x, fun x y => y.lt x || x.eq y, fun x y => !(x.isNan || y.isNan), fun x y => x.isNan || y.isNan,
   fun x y => x.isNan || y.isNan || x.eq y, fun x y => x.isNan || y.isNan || !x.eq y, fun x y => x.isNan || y.isNan || x.lt y,
   fun x y => x.isNan || y.isNan || x.lt y || x.eq y, fun x y => x.isNan || y.isNan || y.lt x,
   fun x y => x.isNan || y.isNan || y.lt x || x.eq y]

/-- A float condition on two encodings, read under the flush modes (R80). -/
def floatCond (t : Ty) (fm : FMode) (cond : Nat) (a b : Nat) : Bool :=
  nth (fun _ _ => false) floatConds cond (Machine.decode t fm a).1 (Machine.decode t fm b).1

/-- A predicate selector in lane l (R81). -/
def selected (v : Env) (x : BitVec 8) (l : Nat) : Bool := ((v.x.regs.getQ (x.extractLsb' 0 3).toNat).has l).xor (x.getLsbD 7)

/-- A core but for the generator and the amax registers. -/
def coreBut (c : Core) : Core := { c with srseed := 0, am := [] }

/-- The magnitude of a binary32 source as an amax register holds it (03_numbers R60). -/
def amaxMag (x : Nat) : Word := if (decodeRaw .f32 x).isNan then 0x7FC00000 else BitVec.ofNat 32 (x % 2 ^ 31)

/-- An amax register after the sources of the lanes of Active: the largest pattern (03_numbers R60). -/
def amaxAfter (v : Env) (src : Nat → Nat) (old : Word) : Word :=
  v.lanes.foldl (fun m l => if m.ult (amaxMag (src l)) then amaxMag (src l) else m) old

/-- The rounding of a conversion in lane l: MOD1, and for .sr bits [31:8] of the lane's word of the advanced generator
(03_numbers R55, R57); `k` is the rotation. -/
def cvtMode (w : TwoWord) (c : Core) (k : Nat) : Rnd :=
  if w.x.mod1 = 4 then .sr (((rngNext c.srseed).rotateLeft (k % 32)).toNat >>> 8) else modeOf w

/-- What a conversion leaves of its core: the generator advanced once where MOD1 is .sr, amax register k updated where `am`
says so, and nothing else (04_lane R84). -/
def cvtCore (w : TwoWord) (am : Option (Nat × (Word → Word))) (a b : Core) : Prop :=
  coreBut b = coreBut a ∧ b.srseed = (if w.x.mod1 = 4 then rngNext a.srseed else a.srseed)
    ∧ ∀ j, Tab.get 0 b.am j = match am with
      | some (k, f) => if j = k then f (Tab.get 0 a.am j) else Tab.get 0 a.am j
      | none => Tab.get 0 a.am j

/-- The scalar integer operations on two operands, minors 0 to 13 (R87, as R68 and R69). -/
def scTable : List ((ScWord → Instr) × Ty × BitOp) :=
  [(.scAddI32, .i32, fun _ _ a b => a + b), (.scSubI32, .i32, fun _ _ a b => a - b), (.scMulI32, .i32, fun _ _ a b => a * b),
   (.scAndB32, .b32, fun _ _ a b => a &&& b), (.scOrB32, .b32, fun _ _ a b => a ||| b),
   (.scXorB32, .b32, fun _ _ a b => a ^^^ b), (.scShlB32, .b32, fun _ w a b => a <<< (b.toNat % w)),
   (.scShrN32, .n32, opShr), (.scShrI32, .i32, opShr), (.scMinI32, .i32, opMin), (.scMaxI32, .i32, opMax),
   (.scMinN32, .n32, opMin), (.scMaxN32, .n32, opMax), (.scMovB32, .b32, fun _ _ _ b => b),
   (.scSltI32, .i32, fun _ _ a b => if a.slt b then 1 else 0), (.scSltN32, .n32, fun _ _ a b => if a.ult b then 1 else 0),
   (.scSeqB32, .b32, fun _ _ a b => if a = b then 1 else 0)]

/-- A conversion of one element (R84 to R86, 03_numbers R54, R56, R59): a float source as read, an integer one exactly; the bits
of the target, sign- or zero-extended. A widening raises no NX (03_numbers R63; log 20). -/
def ConvertOf (f t : Ty) (fm : FMode) (rnd : Rnd) (x : Nat) (r : Res) : Prop :=
  if f.isFloat then
    let v := Machine.decode f fm x
    if t.isFloat then
      let y := roundTo t fm rnd v.1
      r = (BitVec.ofNat 32 y.1, v.2 ||| (if t = .f32 then y.2 &&& ~~~Flags.nx else y.2))
    else match v.1 with
      | .nan => r = (0, v.2 ||| .nv)
      | .inf n => r = (BitVec.ofInt 32 (if n then t.range.1 else t.range.2), v.2 ||| .nv)
      | .fin n m e => ∃ i : Nat, IntegralOf rnd n m e i ∧
          let j : Int := if n then -(i : Int) else i
          (clampTo t j ≠ j → r = (BitVec.ofInt 32 (clampTo t j), v.2 ||| .nv))
            ∧ (clampTo t j = j → r.1 = BitVec.ofInt 32 j
                ∧ (realOf v.1 = j → r.2 = v.2) ∧ (realOf v.1 ≠ j → r.2 = (v.2 ||| .nx)))
  else
    let j := elInt f x
    if t.isFloat then
      let y := roundTo t fm rnd (Val.ofInt j)
      r = (BitVec.ofNat 32 y.1, y.2)
    else r = (BitVec.ofInt 32 (clampTo t j), if clampTo t j = j then 0 else .sat)

/-- The scalar float operations, minors 19 to 22 (R87, as R74 and R75). -/
def scFloatTable : List ((ScWord → Instr) × FloatRel) :=
  [(.scAddF32, SumOf), (.scMulF32, ProductOf), (.scMinF32, LeastOf), (.scMaxF32, GreatestOf)]

/-- The lane pulls: each constructor and its source lane, none where it is invalid (10_group R206). -/
def pullTable : List ((TwoWord → Instr) × (Nat → Nat → Option Nat)) :=
  [(.xlLpullAbs, fun _ c => some c), (.xlLpullBel, fun l c => if c > l then none else some (l - c)),
   (.xlLpullAbv, fun l c => some (l + c)), (.xlLpullXor, fun l c => some (l ^^^ c))]

/-- The registers after a lane mask is written in every lane of Active: to v[d], and at W = 64 its high half to v[d + 1]
(10_group R207). -/
def WroteMasks (v : Env) (d : Nat) (m : Nat → Mask) (r : Regs) : Prop :=
  (∀ n l, l < 64 → r.getV n l =
      if v.act.has l = true ∧ n = d then (m l).extractLsb' 0 32
      else if v.act.has l = true ∧ v.x.w = 64 ∧ n = d + 1 then (m l).extractLsb' 32 32 else v.x.regs.getV n l)
    ∧ r.s = v.x.regs.s ∧ r.q = v.x.regs.q ∧ r.f = v.x.regs.f

/-- m is the set of lanes of Active of which p holds. -/
def IsMask (v : Env) (p : Nat → Bool) (m : Mask) : Prop := ∀ l < 64, m.has l = (v.act.has l && p l)

/-- The votes (10_group R207). -/
def voteTable : List ((TwoWord → Instr) × (List Bool → Bool)) :=
  [(.xlVoteAll, fun ps => ps.all (fun p => p)), (.xlVoteAny, fun ps => ps.any (fun p => p)),
   (.xlVoteEq, fun ps => ps.all (fun p => p) || ps.all (fun p => !p))]

/-- Integer reductions and scans on words (10_group R208). -/
abbrev WordOp := Ty → Word → Word → Word
def wAdd : WordOp := fun _ a b => a + b
def wMin : WordOp := fun t a b => opMin t 32 a b
def wMax : WordOp := fun t a b => opMax t 32 a b

/-- The integer reductions. -/
def redTable : List ((TwoWord → Instr) × WordOp) :=
  [(.xlRedAdd, wAdd), (.xlRedMin, wMin), (.xlRedMax, wMax), (.xlRedAnd, fun _ a b => a &&& b), (.xlRedOr, fun _ a b => a ||| b)]

/-- The integer scans, with the identity of .excl. -/
def scanTable : List ((TwoWord → Instr) × WordOp × (Ty → Word)) :=
  [(.xlScanAdd, wAdd, fun _ => 0), (.xlScanMin, wMin, fun t => if t.isI then 0x7FFFFFFF else 0xFFFFFFFF),
   (.xlScanMax, wMax, fun t => if t.isI then 0x80000000 else 0)]

/-- The values of some lanes combined from the lowest on; none where there is no lane. -/
def foldLanes (op : Word → Word → Word) (a : Nat → Word) : List Nat → Option Word
  | [] => none
  | l :: ls => some (ls.foldl (fun x k => op x (a k)) (a l))

/-- The float reductions and scans, combined in the fixed tree of 03_numbers R62, with the identity of .excl. -/
def floatRedTable : List ((TwoWord → Instr) × (TwoWord → Instr) × FloatRel × Word) :=
  [(.xlRedAdd, .xlScanAdd, SumOf, 0x80000000), (.xlRedMin, .xlScanMin, LeastOf, 0x7F800000),
   (.xlRedMax, .xlScanMax, GreatestOf, 0xFF800000)]

/-- `comb` combines two nodes of the tree: the value that the operation gives in RNE, and every flag so far. -/
def Combines (rel : FloatRel) (fm : FMode) (comb : Res → Res → Res) : Prop :=
  ∀ a b, ∃ e, rel .f32 fm .rne a.1.toNat b.1.toNat e ∧ comb a b = (BitVec.ofNat 32 e.1, a.2 ||| b.2 ||| e.2)

/-- A clause issue has ended in a branch: each issued lane that has not exited stands at its target, every other lane where it
stood, no register and no byte of memory changed. -/
def Branches (i : Instr) (s : State) (v : Env) (pc : Nat → Word) : Prop :=
  ∃ t, exec i s = .next t ∧ v.OnlyWith s t (fun r => r = v.x.regs) 0 (fun a b => b = a)
    ∧ ∃ y, t.group v.g = some y ∧ y.flow.clause = none ∧ y.flow.park = none
      ∧ ∀ l < v.x.lanes.length, (y.lane l).pc =
          if v.cl.lanes.has l = true ∧ (v.x.lane l).st ≠ .exited then pc l else (v.x.lane l).pc

/-- own + 4 x simm, with the immediate in the payload's low bits (10_group R202). -/
def nearTarget (v : Env) (n : Nat) (imm : BitVec n) : Word := v.cl.own + (imm.signExtend 32 <<< 2)

/-- The virtual addresses of the bytes of an access that is translated. -/
def vasOf (v : Env) (k : AccKind) (as : List LaneAcc) : List Nat := (as.map (v.x.vas k.space k.n)).flatten

/-- The places of the words that a call pushes: STKLIM less 4 times the new depth (10_group R204). -/
def pushAccs (v : Env) : List LaneAcc := v.lanes.map (fun l => ⟨l, v.x.ctl.stklim - 4 * ((v.x.lane l).depth + 1)⟩)

/-- The places of the words that ret pops (10_group R204). -/
def popAccs (v : Env) : List LaneAcc := v.lanes.map (fun l => ⟨l, v.x.ctl.stklim - 4 * (v.x.lane l).depth⟩)

/-- CheckDepth holds in lane l (10_group R204). -/
def depthOk (v : Env) (l : Nat) : Prop := (v.x.lane l).depth < 255 ∧ 4 * ((v.x.lane l).depth + 1) ≤ v.x.ctl.stklim

/-- m is exactly the lanes of Active of which p holds. -/
def TrapsIn (v : Env) (p : Nat → Prop) (m : Mask) : Prop := ∀ l < 64, m.has l = true ↔ (v.act.has l = true ∧ p l)

/-- The lanes after a clause issue ends: each issued lane that has not exited at its target. -/
def AtTargets (v : Env) (pc : Nat → Word) (y : Group) : Prop :=
  ∀ l < v.x.lanes.length, (y.lane l).pc =
    if v.cl.lanes.has l = true ∧ (v.x.lane l).st ≠ .exited then pc l else (v.x.lane l).pc

/-- The call depth moves by `f` in Active. -/
def Depths (v : Env) (f : Nat → Nat) (y : Group) : Prop :=
  ∀ l < v.x.lanes.length, (y.lane l).depth =
    if v.act.has l = true then f (v.x.lane l).depth else (v.x.lane l).depth

/-- The loads of other modules that a store issued now is performed after (05_memory R113). -/
def earlierLoads (v : Env) : List Nat := (v.x.io.pend.filter Pend.isFar).map (·.id)

/-- exit and kill wait (10_group R201, R203): a commit would publish before it may, or every lane that has not exited ends here
and an access of the group is not complete. -/
def EndWaits (v : Env) : Prop :=
  v.publishWaits v.act = true
    ∨ ((∀ l < 64, l < v.x.w → (v.x.lane l).st ≠ .exited → v.act.has l = true) ∧ v.x.drained = false)

/-- A call with target t: every lane of Active pushes the next header's address and stands at its target, the others at the
next header (10_group R203, R204). -/
def Calls (i : Instr) (s : State) (v : Env) (target : Nat → Word) : Prop :=
  (v.act = 0 → Branches i s v (fun _ => v.cl.next))
  ∧ (v.act ≠ 0 → (∃ l ∈ v.lanes, ¬ depthOk v l) → ∃ m, TrapsIn v (fun l => ¬ depthOk v l) m
      ∧ exec i s = .next ((v.at_ s).trapWord v { cause := .stack, tmask := m }).tick)
  ∧ (v.act ≠ 0 → (∀ l ∈ v.lanes, depthOk v l) → v.busy true = none → ∀ s' bytes,
      v.check (v.at_ s) { space := 4, n := 4, align := 4, write := true } (pushAccs v) = .ok s' bytes →
      ∃ t, exec i s = .next t ∧ OnlyGroup v.g s' t (fun y =>
        y.regs = v.x.regs ∧ y.ctl = v.x.ctl ∧ y.flow.clause = none
          ∧ AtTargets v (fun l => if v.act.has l then target l else v.cl.next) y ∧ Depths v (· + 1) y
          ∧ y.io = { v.x.io with sq := v.x.io.sq ++
              [{ work := .store ((bytes.map (fun b => b.2.zip (toBytes 4 v.cl.next.toNat))).flatten), flag := none
                 pc := v.cl.own, lanes := v.act, addr := ((pushAccs v).map (·.addr)).headD 0, far := false, after := earlierLoads v
                 via := v.via s' (vasOf v { space := 4, n := 4, align := 4, write := true } (pushAccs v)) }] }))

/-- A group with the MR of each lane of Active set to a label (10_group R193). -/
def Labelled (v : Env) (m : Word) (x : Group) : Prop :=
  { x with lanes := v.x.lanes } = v.x ∧ x.lanes.length = v.x.lanes.length
    ∧ ∀ l < x.lanes.length, x.lane l = if v.act.has l = true then { v.x.lane l with mr := m } else v.x.lane l

/-- The rules of R193 for every MR other than clear: of the lanes that have not exited, those whose MR is m form its meeting
set. Where every lane of the set stands at m at a clause boundary, each becomes ready with a clear MR and Bypass 0; else those
at m are held. Every other lane stays as it is. -/
def MeetingRules (x y : Group) : Prop :=
  { y with lanes := x.lanes } = x ∧ y.lanes.length = x.lanes.length ∧ ∀ l < x.lanes.length,
    let a := x.lane l
    let there (b : Lane) : Prop := b.pc = b.mr ∧ b.cb = clearWord
    let all : Prop := ∀ b ∈ x.lanes, b.st ≠ .exited → b.mr = a.mr → there b
    let arrived : Prop := a.st ≠ .exited ∧ a.mr ≠ clearWord ∧ there a
    (arrived → all → y.lane l = { a with st := .ready, mr := clearWord, bypass := 0 })
      ∧ (arrived → ¬ all → y.lane l = { a with st := .held, bypass := 0 }) ∧ (¬ arrived → y.lane l = a)

/-- The registers and control registers of a group whose lanes have exited: as they were, but that a neval which no lane waits
at any more gives its flag back (15_net R289). -/
def Keeps (v : Env) (y : Group) : Prop :=
  y.regs.v = v.x.regs.v ∧ y.regs.s = v.x.regs.s ∧ y.regs.q = v.x.regs.q ∧ (v.x.io.nevals = [] → y.regs.f = v.x.regs.f)
    ∧ y.ctl = v.x.ctl

/-- The lanes of an access some byte of which lies in another module, and the others (18_link R365). -/
def awayOf (bytes : List (Nat × List Loc)) : List (Nat × List Loc) := bytes.filter (fun b => b.2.any Loc.isFar)
def hereOf (bytes : List (Nat × List Loc)) : List (Nat × List Loc) := bytes.filter (fun b => !b.2.any Loc.isFar)

/-- The accesses of some lanes may be read now: those of other modules behind no queued store to one, those of this module
behind no load of one, and every byte of this module seen through the group's own queued stores (05_memory R97, R113). -/
def MayRead (v : Env) (s : State) (read : List (Nat × List Loc)) (rd : Loc → Byte) : Prop :=
  (awayOf read ≠ [] → v.x.io.sq.any (fun e => e.far) = false)
    ∧ (hereOf read ≠ [] → v.x.io.pend.any Pend.isFar = false)
    ∧ ∀ b ∈ hereOf read, ∀ l ∈ b.2, s.readOwn v.g l = some (rd l)

/-- The values that a load returns: each piece of each lane's bytes, extended under its type (05_memory R100, R101, R104). -/
def loadedVals (v : Env) (pieces : List Piece) (rd : Loc → Byte) (bytes : List (Nat × List Loc)) : List (Reg × Nat × Word) :=
  (bytes.map (fun b => pieces.map (fun q =>
    (q.reg, b.1, pieceValue q.ty q.byte (v.x.regs.read q.reg b.1) (ofBytes (((b.2.drop q.off).take q.n).map rd)))))).flatten

/-- What a load leaves in flight. -/
def loadPend (v : Env) (s : State) (pieces : List Piece) (as : List LaneAcc) : Pend :=
  { id := s.sched.uid, regs := pieces.map (·.reg), flag := v.flag, pc := v.cl.own, kind := .load, lanes := v.act
    addr := (as.map (·.addr)).headD 0 }

/-- Conditions 2 to 5 of R107, in their order: what each access must not meet, and the cause it raises. -/
def earlyChecks (v : Env) (s : State) (k : AccKind) : List (Cause × (LaneAcc → Bool)) :=
  [(.align, fun a => decide (a.addr % k.align ≠ 0)),
   (.stack, fun a => decide (k.space = 4 ∧ v.x.ctl.stklim < a.addr + k.n)),
   (.prot, fun a => v.outside s k.space k.n k.atomic k.sys k.rows a),
   (.peer, fun a => decide (k.space = 2
      ∧ v.team.window (v.x.spPlace 2 a.addr).1 (a.addr % 2 ^ 19) k.n = .peer))]

/-- The bytes that a check answers: each lane's places, in the order of the lanes. -/
def placesOf (v : Env) (s : State) (k : AccKind) (as : List LaneAcc) : List (Nat × List Loc) :=
  as.map (fun a => (a.lane, v.locs s k.space k.n a))

/-- The caches that the core's translations pass hold one leaf for each address of the access, and have room for as many more
as it reaches pages (06_page R132; what leaves a full cache is the model's choice, log 10). -/
structure CachesFit (v : Env) (s : State) (k : AccKind) (as : List LaneAcc) (leaf : Nat → Leaf) : Prop where
  room : ∀ j ∈ (Site.core v.x.core).caches, (Tab.get [] s.tlb j).length + (pagesOf (vasOf v k as)).length ≤ cacheSize j
  alone : ∀ va ∈ vasOf v k as, ∀ j, ∀ o ∈ Tab.get [] s.tlb j, s.serves o v.c va = true → o = leaf va

/-- No condition of R107 from 7 on is met, and no line of a load is absent (05_memory R95): with these leaves the access may be
performed, but for D. -/
structure Permitted (v : Env) (s : State) (k : AccKind) (as : List LaneAcc) (leaf : Nat → Leaf) : Prop where
  early : ∀ p ∈ earlyChecks v s k, ∀ a ∈ as, p.2 a = false
  cached : ∀ va ∈ vasOf v k as, v.leaf s va = some (leaf va)
  still : k.write = true → ∀ va ∈ vasOf v k as, pteM (leaf va).pte = false
  writable : k.write = true → ∀ va ∈ vasOf v k as, pteW (leaf va).pte = true
  fit : CachesFit v s k as leaf

/-- The access may be performed as it stands: no condition of its checks is met, every line that a load reads is present, and
every leaf of a write has D set (05_memory R95, R107; 06_page R131). It speaks of the state and the accesses alone. -/
def Granted (v : Env) (s : State) (k : AccKind) (as : List LaneAcc) : Prop :=
  ∃ leaf : Nat → Leaf, Permitted v s k as leaf
    ∧ (∀ a ∈ as, (v.x.vas k.space k.n a).any (fun va => pteC (leaf va).pte) = false
        ∧ (k.locks && !(v.locked s k.space k.n k.write a).isEmpty) = false)
    ∧ (k.write = false → ∀ p ∈ linesOf (placesOf v s k as), s.present p.1 p.2 = true)
    ∧ (k.write = true → k.rows = true ∨ ∀ va ∈ vasOf v k as, pteD (leaf va).pte = true)

/-- The instruction has issued: its flag is counted, its group's accesses are `io`, and its other registers, its control
registers and every byte of memory are as they were. -/
def Issued (i : Instr) (s : State) (v : Env) (io : Io) : Prop :=
  ∃ t y, exec i s = .next t ∧ t.group v.g = some y ∧ y.regs = (v.x.count v.flag).regs ∧ y.ctl = v.x.ctl ∧ y.io = io
    ∧ SameMemory s t

/-- The accesses of the group with a load of those lanes in flight. -/
def loadIo (v : Env) (s : State) (pieces : List Piece) (acq : Bool) (as : List LaneAcc) (read : List (Nat × List Loc))
    (rd : Loc → Byte) : Io :=
  let away := awayOf read
  { v.x.io with pend := v.x.io.pend ++ [{ loadPend v s pieces as with
      vals := loadedVals v pieces rd (hereOf read)
      kind := if away = [] then .load
        else .far ((away.map (fun b => pieces.map (fun q => ⟨q.reg, b.1, q.ty, q.byte⟩))).flatten)
      acq := acq && decide (away ≠ []), homes := homesOf (read.map (·.2)).flatten }] }

/-- A LOAD: with no access to make nothing happens; else, its checks passed, the values of the lanes that read this module
(its own queued stores seen) wait to be written to its registers, which are pending; those of other modules are asked for and
awaited, lane by lane. No register but the flag changes at issue, and no byte of memory. The last clause says so of the state
alone: where the access is granted, the load issues. -/
def Loads (i : Instr) (s : State) (v : Env) (k : AccKind) (pieces : List Piece) (acq once : Bool) (as : List LaneAcc) : Prop :=
  let read (bytes : List (Nat × List Loc)) : List (Nat × List Loc) := if once then bytes.take 1 else bytes
  (as = [] → ∃ t, exec i s = .next t ∧ v.Only s t (fun r => r = v.x.regs) 0)
  ∧ (as ≠ [] → v.busy false = none → ∀ s' bytes, v.check (v.at_ s) k as = .ok s' bytes →
      ∀ rd : Loc → Byte, MayRead v s' (read bytes) rd →
        ∃ t, exec i s = .next t ∧ OnlyGroup v.g (s'.sendLoads false ((awayOf (read bytes)).map (·.2)).flatten) t
          (v.Enters (loadIo v s' pieces acq as (read bytes) rd)))
  ∧ (as ≠ [] → v.busy false = none → Granted v (v.at_ s) k as →
      let bytes := read (placesOf v (v.at_ s) k as)
      ∀ rd : Loc → Byte, MayRead v (v.at_ s) bytes rd → Issued i s v (loadIo v (v.at_ s) pieces acq as bytes rd))

/-- The bytes that a store gives its places, lane by lane. -/
def storedCells (bytes : List (Nat × List Loc)) (data : Nat → List Byte) : List (Loc × Byte) :=
  (bytes.map (fun b => b.2.zip (data b.1))).flatten

/-- The accesses of the group with a store of those bytes queued; it keeps the translations that it uses (06_page R132). -/
def storeIo (v : Env) (s : State) (k : AccKind) (rel : Bool) (as : List LaneAcc) (cells : List (Loc × Byte)) : Io :=
  { v.x.io with sq := v.x.io.sq ++
      [{ work := .store cells, flag := v.flag, pc := v.cl.own, lanes := v.act, addr := (as.map (·.addr)).headD 0
         far := cells.any (fun c => c.1.isFar), rel := rel, after := earlierLoads v, via := v.via s (vasOf v k as) }] }

/-- A STORE: with no access to make nothing happens; else, its checks passed, one entry of the group's store queue holds the
bytes of every lane, in lane order. No register but the flag changes at issue, and no byte of memory: STORE_PERFORMED writes
them. The last clause says so of the state alone. -/
def Stores (i : Instr) (s : State) (v : Env) (k : AccKind) (rel once : Bool) (as : List LaneAcc) (data : Nat → List Byte) :
    Prop :=
  let cells (bytes : List (Nat × List Loc)) : List (Loc × Byte) := storedCells (if once then bytes.take 1 else bytes) data
  (as = [] → ∃ t, exec i s = .next t ∧ v.Only s t (fun r => r = v.x.regs) 0)
  ∧ (as ≠ [] → v.busy true = none → ∀ s' bytes, v.check (v.at_ s) k as = .ok s' bytes →
      ∃ t, exec i s = .next t ∧ OnlyGroup v.g s' t (v.Enters (storeIo v s' k rel as (cells bytes))))
  ∧ (as ≠ [] → v.busy true = none → Granted v (v.at_ s) k as →
      Issued i s v (storeIo v (v.at_ s) k rel as (cells (placesOf v (v.at_ s) k as))))

/-- The accesses of a two-word memory instruction: A plus the offset C, in the space of MOD2 (05_memory R99). -/
def mxAccs (w : TwoWord) (v : Env) : List LaneAcc :=
  v.accs (spaceOf w) (fun l => (v.read w.x.c .b32 l).toInt)

/-- The accesses of ldo and sto: A plus 4 times OFF (05_memory R102). -/
def shortAccs (w : ShortMem) (v : Env) : List LaneAcc :=
  v.accs (if w.sp then 1 else 0) (fun _ => 4 * (w.off.toNat : Int))

/-- The one access of sld and sst, which they make whatever Active holds (05_memory R101): that of the lanes of Active, who
share it, or where there is none the same address. -/
def scalarAccs (w : TwoWord) (v : Env) : List LaneAcc :=
  if v.lanes = [] then [⟨0, v.addr (spaceOf w) w.a (v.read w.x.c .b32 0).toInt 0⟩] else mxAccs w v

/-- Bytes that one lane of ld, st, sld or sst moves: the size of its type (05_memory R100). -/
def tySize (w : TwoWord) : Nat := (Ty.ofCode (w.x.mod2.extractLsb' 0 4).toNat).width / 8

/-- The pieces of ld and sld: one register, the bytes of the type, extended. -/
def onePiece (w : TwoWord) (r : Reg) : List Piece := [⟨r, 0, tySize w, Ty.ofCode (w.x.mod2.extractLsb' 0 4).toNat, none⟩]

/-- The pieces of n successive registers of four bytes. -/
def fourByte (n : Nat) (r : Nat → Reg) : List Piece := (List.range n).map (fun j => ⟨r j, 4 * j, 4, .b32, none⟩)

/-- The atomics (05_memory R109). -/
def atomTable : List ((TwoWord → Instr) × AtomOp) :=
  [(.mxAtomAdd, .add), (.mxAtomMin, .min), (.mxAtomMax, .max), (.mxAtomAnd, .and), (.mxAtomOr, .or), (.mxAtomXor, .xor),
   (.mxAtomXchg, .xchg), (.mxAtomCas, .cas)]

/-- What lane l of an atomic carries: its place, operand and compare value. -/
def atomLanes (w : TwoWord) (op : AtomOp) (v : Env) (bytes : List (Nat × List Loc)) : List AtomLane :=
  let t := Ty.ofCode (w.x.mod2.extractLsb' 0 4).toNat
  (bytes.map (fun b => match b.2 with
    | l :: _ => [⟨b.1, l, v.read w.b t b.1, if op = .cas then v.read w.x.c t b.1 else 0⟩]
    | [] => [])).flatten

/-- The accesses of an atomic: cas has no offset (05_memory R108, R109). -/
def atomAccs (w : TwoWord) (op : AtomOp) (v : Env) : List LaneAcc :=
  if op = .cas then v.accs (spaceOf w) (fun _ => 0) else mxAccs w v

/-- The accesses of the group with an atomic queued, and its destination awaited. -/
def atomIo (w : TwoWord) (op : AtomOp) (v : Env) (s : State) (k : AccKind) (uid : Nat) (bytes : List (Nat × List Loc)) : Io :=
  let first := ((atomAccs w op v).map (·.addr)).headD 0
  let lanes := atomLanes w op v bytes
  { v.x.io with
    sq := v.x.io.sq ++ [{ work := .atomic op (Ty.ofCode (w.x.mod2.extractLsb' 0 4).toNat) lanes (some w.d.toNat), flag := v.flag
                          pc := v.cl.own, lanes := v.act, addr := first, far := lanes.any (fun a => a.loc.isFar)
                          pend := some uid, after := earlierLoads v, via := v.via s (vasOf v k (atomAccs w op v)) }]
    pend := v.x.io.pend ++ [{ id := uid, regs := [.v w.d.toNat], flag := none, pc := v.cl.own, lanes := v.act, addr := first
                              kind := .atomic }] }

/-- The accesses in flight of a group. -/
def ioIn (s : State) (g : Nat) : Io := ((s.group g).map (·.io)).getD {}

/-- The accesses of a record of n bytes at one global address: one a lane of Active, all the same. -/
def blockKind (n align : Nat) : AccKind := { space := 0, n := n, align := align, write := false }
def blockAccs (v : Env) (addr : Nat) : List LaneAcc := v.lanes.map (fun l => ⟨l, addr⟩)

/-- A record of another module that has come back to the word that asked for it. -/
def cameBack (v : Env) (addr n : Nat) (p : Pend) : Bool :=
  decide (p.pc = v.cl.own ∧ p.addr = addr) && (match p.kind with
    | .block m (some _) => m = n
    | _ => false)

/-- An instruction's own load of n bytes at one global address has passed its checks: the state it leaves, and the bytes
(13_transfer R257; zeros where no lane is in Active). Bytes of this module, to which the die has a path, are read at once;
those of another module have come back (18_link R362; log 69). -/
def BlockRead (v : Env) (s : State) (addr n align : Nat) (s' : State) (bs : List Byte) : Prop :=
  v.busy false = none ∧ ∃ s1 bytes, v.check s (blockKind n align) (blockAccs v addr) = .ok s1 bytes
    ∧ match bytes with
      | [] => s' = s1 ∧ bs = List.replicate n 0
      | b :: _ =>
        (b.2.any Loc.isFar = false ∧ (∀ h ∈ homesOf b.2, s1.reaches (v.x.core / 320) h = true) ∧ s' = s1
          ∧ b.2.map (s1.readOwn v.g) = bs.map some)
        ∨ (b.2.any Loc.isFar = true ∧ ∃ p, v.x.io.pend.find? (cameBack v addr n) = some p ∧ p.kind = .block n (some bs)
            ∧ s' = s1.modGroup v.g (fun x => x.dropPend p.id))

/-- What waits for a record of another module. -/
def blockPend (v : Env) (id addr n : Nat) (ls : List Loc) : Pend :=
  { id := id, regs := [], flag := none, pc := v.cl.own, lanes := v.act, addr := addr, kind := .block n none, homes := homesOf ls }

/-- A record of another module that has not come back is asked for, behind no queued store to another module: the group waits
at its word, its registers and every byte of memory as they were (18_link R362, R364; log 69). One of this module to which the
die has no path takes LINK at its word (01_module R13; log 82). -/
def BlockAsked (i : Instr) (s : State) (v : Env) (addr n align : Nat) : Prop :=
  v.busy false = none → ∀ s1 b bs, v.check (v.at_ s) (blockKind n align) (blockAccs v addr) = .ok s1 (b :: bs) →
    (b.2.any Loc.isFar = true → v.x.io.pend.find? (cameBack v addr n) = none → v.x.io.sq.any (fun e => e.far) = false →
      ∃ t, exec i s = .next t ∧ OnlyGroup v.g (s1.sendLoads false b.2) t (fun y =>
        y.regs = v.x.regs ∧ y.ctl = v.x.ctl ∧ y.stillIo = v.x.stillIo ∧ y.flow.park = some (.block s1.sched.uid)
          ∧ y.io = { v.x.io with pend := v.x.io.pend ++ [blockPend v s1.sched.uid addr n b.2] }))
    ∧ (b.2.any Loc.isFar = false → (∃ h ∈ homesOf b.2, s1.reaches (v.x.core / 320) h = false) →
      exec i s = .next (s1.trapWord v { v.whole .link with addr := addr, info := v.cl.own.toNat }).tick)

/-- q[QD] has been written in the lanes of Active, all with one answer; every other register is as it was. -/
def PredIs (v : Env) (ok : Bool) (r : Regs) : Prop :=
  r = v.x.regs.setQ v.qd v.act (if ok then v.act else 0)

/-- The engine operation that an instruction puts in flight. -/
def enginePend (v : Env) (uid : Nat) (regs : List Reg) : Pend :=
  { id := uid, regs := regs, flag := v.flag, pc := v.cl.own, lanes := v.act, kind := .engine uid }

/-- The registers of every other group are as they were, though one that waited may go on. -/
def OthersRegs (g : Nat) (s t : State) : Prop :=
  ∀ h, h ≠ g → (t.group h).map (fun y => (y.regs, y.ctl, y.io)) = (s.group h).map (fun y => (y.regs, y.ctl, y.io))

/-- An instruction has answered q[QD] in Active and changed nothing else of its group. -/
def Answered (v : Env) (ok : Bool) (s t : State) : Prop :=
  (∃ y, t.group v.g = some y ∧ PredIs v ok y.regs ∧ y.ctl = v.x.ctl ∧ y.stillIo = v.x.stillIo ∧ y.io = ioIn s v.g)
    ∧ OthersRegs v.g s t ∧ SameMemory s t

/-- A transfer enters a copy engine's queue (13_transfer R251, R257): false where the range-lock table or the queue is full;
else, every earlier access performed, it is queued with its ranges entered, its handle counted, its flag counted, and the
answer true. -/
def TransferQueued (i : Instr) (s : State) (v : Env) (s' : State) (tr : Transfer) (engine : Nat) (fill keep : Bool) : Prop :=
  let en := s'.engine v.die engine
  let tr' := { tr with uid := s'.sched.uid }
  let c := s'.core v.x.core
  ((c.enterLocks (s'.transferLocks tr') = none ∨ en.queue.length ≥ 32) →
    exec i s = .next (v.next (s'.setPred v false)))
  ∧ (∀ c1, c.enterLocks (s'.transferLocks tr') = some c1 → en.queue.length < 32 → v.x.drained = true →
    ∃ t y, exec i s = .next t ∧ t.engine v.die engine = { en with queue := en.queue ++ [tr'] }
      ∧ (t.core v.x.core).locks = c1.locks
      ∧ (∀ k, tr.handle = some k → (t.core v.x.core).handle k =
          if fill then { c.handle k with fills := (c.handle k).fills + 1 }
          else { c.handle k with drains := (c.handle k).drains + 1, keep := (c.handle k).keep || keep, st := .draining })
      ∧ t.group v.g = some y ∧ y.regs = ((v.x.count v.flag).regs).setQ v.qd v.act v.act ∧ y.ctl = v.x.ctl
      ∧ y.stillIo = v.x.stillIo
      ∧ y.io = { ioIn s' v.g with pend := (ioIn s' v.g).pend ++ [enginePend v s'.sched.uid []] }
      ∧ OthersRegs v.g s' t ∧ SameMemory s' t)

/-- The transfer of a tcopy or tgather (13_transfer R257). -/
def copyOf (v : Env) (s : State) (gather : Bool) (w : TwoWord) (r : TRec) (handle : Option Nat) (base : Nat) : Transfer :=
  { uid := 0, ctx := v.c, team := v.x.team, group := v.g, core := v.x.core, pc := v.cl.own, lanes := v.act
    op := if gather then .gather else .copy, ti := r, list := if gather then (v.uni w.b).toNat else 0, hnum := w.x.c.toNat
    pin := if r.coded then some (r.cb, (s.book v.die r.cb).pinGen) else none, handle := handle, base := base }

/-- CheckRecord of 13_transfer R244 passes, with the codebook's owner. -/
def RecordOk (v : Env) (s : State) (r : TRec) (bs : List Byte) : Prop :=
  r.ok bs ((s.book v.die r.cb).at (s.book v.die r.cb).pinGen).2 = true
    ∧ (r.coded = true → (s.book v.die r.cb).owner = some v.c)

/-- What a tcopy or tgather does once its record is read (13_transfer R257). -/
def CopyIssues (i : Instr) (s : State) (v : Env) (w : TwoWord) (gather : Bool) (s' : State) (bs : List Byte) : Prop :=
  let r := TRec.of bs
  let engine := (w.x.mod2.extractLsb' 0 3).toNat
  (¬ RecordOk v s' r bs → exec i s = .next (s'.trapWord v (v.whole .prot)).tick)
  ∧ (RecordOk v s' r bs → r.kind = 2 → w.x.c = 0xFF →
    TransferQueued i s v s' (copyOf v s' gather w r none 0) engine false (w.x.mod2.getLsbD 3))
  ∧ (RecordOk v s' r bs → r.kind = 2 → w.x.c ≠ 0xFF → exec i s = .next (s'.trapWord v (v.whole .hstate)).tick)
  ∧ (RecordOk v s' r bs → gather = true → r.kind = 1 → exec i s = .next (s'.trapWord v (v.whole .prot)).tick)
  ∧ (RecordOk v s' r bs → r.kind ≠ 2 → (gather = true → r.kind ≠ 1) →
    (v.handleNo w.x.c.toNat = none → exec i s = .next (s'.trapWord v (v.whole .hstate)).tick)
    ∧ ∀ k, v.handleNo w.x.c.toNat = some k →
      let h := (s'.core v.x.core).handle k
      let fits : Prop := if r.kind = 0 then h.st = .filling else h.st = .full ∨ h.st = .draining
      (¬ fits → exec i s = .next (s'.trapWord v (v.whole .hstate)).tick)
      ∧ (fits → h.size * 128 < r.total * r.spSize → exec i s = .next (s'.trapWord v (v.whole .prot)).tick)
      ∧ (fits → r.total * r.spSize ≤ h.size * 128 →
        TransferQueued i s v s' (copyOf v s' gather w r (some k) (h.base * 128)) engine (r.kind = 0) (w.x.mod2.getLsbD 3)))

/-- A tile operation has been issued (14_tile R262, R263): the group holds the engine, the operation is in the core's queue,
its flag is counted and its results are pending; the tiles, every register and every byte of memory are as they were. -/
def TileIssued (i : Instr) (s : State) (v : Env) (s' : State) (regs : List Reg) (work : TileWork) : Prop :=
  ∃ t y, exec i s = .next t
    ∧ (t.core v.x.core).tileq = (s.core v.x.core).tileq ++
        [{ uid := s'.sched.uid, group := v.g, team := v.x.team, fm := v.fm, lanes := v.act, pc := v.cl.own, cbase := v.cl.base
           work := work }]
    ∧ (t.core v.x.core).holder = some (.group v.g) ∧ (t.core v.x.core).acc = (s.core v.x.core).acc
    ∧ (t.core v.x.core).sx = (s.core v.x.core).sx
    ∧ t.group v.g = some y ∧ v.Enters { v.x.io with pend := v.x.io.pend ++ [enginePend v s'.sched.uid regs] } y
    ∧ (∀ h, h ≠ v.g → t.group h = s.group h) ∧ SameMemory s t

/-- A group waits for the matrix engine of a core: at a tile instruction, its issue not stopped, or with an operation not yet
accepted (14_tile R262, R281). -/
def EngineWaiter (s : State) (core g : Nat) (x : Group) : Prop :=
  (g, x) ∈ s.groups ∧ x.core = core ∧ x.on = true ∧
    ((x.flow.park = some .tile ∧ x.flow.stop = false) ∨ ∃ o ∈ (s.core core).tileq, o.group = g ∧ o.accepted = false)

/-- A gather window waits for the engine, its ranges entered (15_net R291). -/
def WindowWaits (s : State) (core : Nat) : Prop :=
  ∃ w < 4, ((s.core core).win w).st = .closed ∧ ((s.core core).win w).locked = true

/-- The lease of group g is over (14_tile R262): LEASE mma accepted, 16 ac with no tile instruction of it waiting or in
flight, or a display-class group waiting while it is of another class. -/
def LeaseOver (s : State) (core g : Nat) : Prop :=
  s.leaseOf g ≤ (s.core core).leaseUsed
  ∨ ((∀ o ∈ (s.core core).tileq, o.group ≠ g) ∧ (∀ x, ¬ EngineWaiter s core g x) ∧ (s.core core).lastTile + 16 ≤ s.sched.now)
  ∨ ((∀ x, s.group g = some x → s.isDisplay x = false) ∧ ∃ h x, EngineWaiter s core h x ∧ s.isDisplay x = true)

/-- The engine is the group's: it holds it in a lease that is not over, or takes it, no other waiting for the arbiter; and it
takes another operation of the group (14_tile R262, R263). -/
def EngineFree (s : State) (v : Env) : Prop :=
  (((s.core v.x.core).holder = none ∧ (∀ h x, EngineWaiter s v.x.core h x → h = v.g) ∧ ¬ WindowWaits s v.x.core)
    ∨ ((s.core v.x.core).holder = some (.group v.g) ∧ ¬ LeaseOver s v.x.core v.g))
  ∧ (s.core v.x.core).waitingOps v.g < 4

/-- The tile instructions that only issue: legality, results, and operation (14_tile R276). -/
def tileTable : List ((TwoWord → Instr) × (TwoWord → Env → State → Bool) × (TwoWord → Env → List Reg) × (TwoWord → Env → TileWork)) :=
  [(.enTzero, fun w v _ => decide (v.x.tiles ≤ w.d.toNat), fun _ _ => [], fun w v => .zero (v.x.tile0 + w.d.toNat)),
   (.enTfill, fun w v _ => decide (v.x.tiles ≤ w.b.toNat), fun _ _ => [], fun w v =>
      .fill (v.x.tile0 + w.b.toNat) (w.x.mod2.getLsbD 0) (sliceOf v.x.regs v.x.w w.d.toNat)),
   (.enTmov, fun w v _ => decide (v.x.tiles ≤ w.d.toNat) || decide (v.x.tiles ≤ w.b.toNat), fun _ _ => [], fun w v =>
      .mov (v.x.tile0 + w.d.toNat) (v.x.tile0 + w.b.toNat) (w.x.mod2.getLsbD 0)),
   (.enTstat, fun w v _ => decide (v.x.tiles ≤ w.b.toNat), fun w _ => [.s w.d.toNat], fun w v =>
      .stat w.d.toNat (v.x.tile0 + w.b.toNat))]

/-- The slice number of tget and tset (14_tile R276). -/
def sliceNo (w : TwoWord) (v : Env) : Nat := (v.uni w.a + w.x.c.zeroExtend 32).toNat

/-- The destinations of a tget: one register, or two at W = 16. -/
def tgetRegs (w : TwoWord) (v : Env) : List Reg :=
  if v.x.w = 16 then [.v w.d.toNat, .v (w.d.toNat + 1)] else [.v w.d.toNat]

/-- Fields of a 32-bit answer, from bit 31 down: (width, value). -/
def fields : List (Nat × Nat) → Word
  | [] => 0
  | (w, x) :: rest => (fields rest) ||| (BitVec.ofNat 32 (x % 2 ^ w) <<< (rest.map (·.1)).sum)

/-- Where an operand map's bytes lie for an mma: from its base, or within the range of its handle, which is Filling or Full
(14_tile R268, R273). -/
def MapPlace (s : State) (v : Env) (m : OMap) (base : Nat) (inside : Nat → Prop) : Prop :=
  (m.h = false ∧ base = m.base % 2 ^ 19 ∧ ∀ o, inside o)
  ∨ (m.h = true ∧ ∃ k, v.handleNo (m.base / 2 ^ 26 % 64) = some k ∧
      let h := (s.core v.x.core).handle k
      (h.st = .filling ∨ h.st = .full) ∧ base = h.base * 128 + m.base % 2 ^ 19
        ∧ ∀ o, inside o ↔ h.base * 128 ≤ o ∧ o < (h.base + h.size) * 128)

/-- The key that a neval which the stitch table may serve will enter there when it completes: the handle's and its tables'
generations are part of it (15_net R303). -/
def nevalKey (s : State) (v : Env) (w : TwoWord) (net : NetRec) : Option NetKey :=
  let k := v.netKey (v.at_ s) net
  if v.mayReuse (v.at_ s) then some ⟨k.key, k.srcs, w.d.toNat, (w.x.mod2.extractLsb' 0 4).toNat + 1⟩ else none

/-- The entry of the stitch table that a neval hits as it begins (11_register R215, 15_net R303). -/
def NevalHit (s : State) (v : Env) (net : NetRec) : Option Stitch :=
  if v.mayReuse (v.at_ s) && (v.x.resuming v.cl.own).isNone then
    (s.pool v.x.core).stitch.find? (fun o => o.key = (v.netKey (v.at_ s) net).key)
  else none

/-- A neval begins, its destinations pending under a new operation that holds its key, or goes on with the lanes that have
entered: one that goes on with other lanes, sources or tables, the prior contents of its destinations apart, enters nothing
(15_net R289, R303). -/
def NevalStarts (s : State) (v : Env) (w : TwoWord) (net : NetRec) (op : Nat) (entered : Mask) (s0 : State) : Prop :=
  (v.x.resuming v.cl.own = none ∧ op = s.sched.uid ∧ entered = 0 ∧
    let s1 := (v.at_ s).fresh.2.launchOp v op (regRun .v w.d.toNat ((w.x.mod2.extractLsb' 0 4).toNat + 1))
    s0 = match nevalKey s v w net with
      | none => s1
      | some k => s1.modGroup v.g (fun x => x.modIo (fun io =>
          { io with pend := io.pend.map (fun p => if p.id = op then { p with key := some k } else p) })))
  ∨ (∃ n, v.x.resuming v.cl.own = some n ∧ op = n.op ∧ entered = n.entered ∧
    let was := (v.x.io.pend.find? (fun p => p.id = op)).bind (fun p => p.key.map (fun k => k.key.eraseIdx 5))
    s0 = if was = some ((v.netKey (v.at_ s) net).key.eraseIdx 5) then v.at_ s
      else (v.at_ s).modGroup v.g (fun x => x.modIo (fun io =>
        { io with pend := io.pend.map (fun p => if p.id = op then { p with key := none } else p) })))

/-- A view slot is the context's, and in a state that the instruction permits (16_view R329 check 2). -/
def SetIs (s : State) (v : Env) (k : Nat) (ok : List VsSt) : Prop :=
  (s.vset k).st ≠ .unbound ∧ (s.vset k).ctx = v.c ∧ (s.vset k).st ∈ ok

/-- The handle that C names is below HNDL and not Free; its first byte and its bytes (16_view R329 check 4). -/
def HandleRange (s : State) (v : Env) (w : TwoWord) (base size : Nat) : Prop :=
  ∃ h, v.handleNo (w.x.c.toNat % 64) = some h ∧ ((s.core v.x.core).handle h).st ≠ .free
    ∧ base = 128 * ((s.core v.x.core).handle h).base ∧ size = 128 * ((s.core v.x.core).handle h).size

/-- A record of n bytes at a uniform scratchpad offset has been read (16_view R329 check 5). -/
def RecordRead (v : Env) (s : State) (off n : Nat) (s' : State) (bs : List Byte) : Prop :=
  v.busy false = none ∧ ∃ s1 bytes,
    v.check s { space := 1, n := n, align := 16, write := false, locks := false } (v.lanes.map (fun l => ⟨l, off⟩)) = .ok s1 bytes
      ∧ match bytes with
        | [] => s' = s1 ∧ bs = List.replicate n 0
        | b :: _ => s' = s1 ∧ b.2.map (s1.readOwn v.g) = bs.map some

/-- A view operation enters its cluster's view unit (16_view R329): false where the range-lock table or the queue is full;
else, every earlier access performed, it is queued with its ranges entered and its flag counted, and the answer is true. -/
def ViewQueued (i : Instr) (s : State) (v : Env) (w : TwoWord) (s' : State) (named : Bool)
    (ranges : List (LockSpace × Nat × Nat × Bool)) (work : ViewWork) : Prop :=
  let k := v.x.core / 4
  let uid := s'.sched.uid
  let locks := ranges.map (fun r => (⟨r.1, r.2.1, r.2.2.1, r.2.2.2, uid, []⟩ : Lock))
  let op : ViewOp :=
    { uid := uid, ctx := v.c, team := v.x.team, group := v.g, core := v.x.core, pc := v.cl.own, cbase := v.cl.base
      lanes := v.act, set := w.x.mod2.toNat % 64, hnum := if named then some (w.x.c.toNat % 64) else none, work := work }
  (((s'.core v.x.core).enterLocks locks = none ∨ 16 ≤ (s'.cluster k).viewq.length) →
    exec i s = .next (v.next (s'.setPred v false)))
  ∧ (∀ c1, (s'.core v.x.core).enterLocks locks = some c1 → (s'.cluster k).viewq.length < 16 → v.x.drained = true →
    ∃ t y, exec i s = .next t ∧ (t.cluster k).viewq = (s'.cluster k).viewq ++ [op] ∧ (t.core v.x.core).locks = c1.locks
      ∧ t.group v.g = some y ∧ y.regs = ((v.x.count v.flag).regs).setQ v.qd v.act v.act ∧ y.ctl = v.x.ctl
      ∧ y.stillIo = v.x.stillIo ∧ y.io = { v.x.io with pend := v.x.io.pend ++ [enginePend v uid []] }
      ∧ (∀ h, h ≠ v.g → t.group h = s'.group h) ∧ SameMemory s' t)

/-- A display word: column, row and frame field, inside a view (16_view R328). -/
def DisplayAt (r : ViewRec) (t : Word) (c j f : Nat) : Prop :=
  t.getLsbD 7 = false ∧ t.getLsbD 15 = false ∧ c = (t.extractLsb' 0 7).toNat ∧ j = (t.extractLsb' 8 7).toNat
    ∧ f = (t.extractLsb' 16 16).toNat ∧ c < r.dw / 32 ∧ j < r.dh / 32

/-- The frame that a 16-bit field names: the current one, or the one before (16_view R317, R318). -/
def NamedFrame (x : ViewSet) (f num : Nat) : Prop :=
  (∃ y, x.cur = some y ∧ y.num % 2 ^ 16 = f ∧ num = y.num)
  ∨ ((∀ y, x.cur = some y → y.num % 2 ^ 16 ≠ f) ∧ ∃ y, x.prev = some y ∧ y.num % 2 ^ 16 = f ∧ num = y.num)

/-- Six successive registers of a lane (17_ray R351). -/
def boxAt (v : Env) (reg l : Nat) : List Word := (List.range 6).map (fun i => v.x.regs.getV (reg + i) l)

/-- Several registers of each lane of Active written: register d + i of lane l with element i of `val l`. -/
def WroteRun (v : Env) (d n : Nat) (val : Nat → List Word) (r : Regs) : Prop :=
  (∀ k l, l < 64 → r.getV k l =
      if d ≤ k ∧ k < d + n ∧ v.act.has l = true then nth 0 (val l) (k - d) else v.x.regs.getV k l)
    ∧ r.s = v.x.regs.s ∧ r.q = v.x.regs.q ∧ r.f = v.x.regs.f

/-- A ray read enters flight (17_ray R346 to R348): with no lane in Active nothing happens; else its words, those of other
modules asked for and awaited, wait to be worked on when they return. -/
def RayReads (i : Instr) (s : State) (v : Env) (n align : Nat) (regs : List Reg) (addr : Nat → Nat) (work : RayWork) : Prop :=
  (v.act = 0 → ∃ t, exec i s = .next t ∧ v.Only s t (fun r => r = v.x.regs) 0)
  ∧ (v.act ≠ 0 → v.busy false = none → ∀ s' bytes,
    v.check (v.at_ s) { space := 0, n := n, align := align, write := false } (v.lanes.map (fun l => ⟨l, addr l⟩)) = .ok s' bytes →
    ∀ rd : Loc → Byte, MayRead v s' bytes rd →
      ∃ t, exec i s = .next t ∧ OnlyGroup v.g (s'.sendLoads false (bytes.map (·.2)).flatten) t (v.Enters { v.x.io with pend :=
        v.x.io.pend ++ [{ id := s'.sched.uid, regs := regs, flag := v.flag, pc := v.cl.own, lanes := v.act
                          addr := addr (v.lanes.headD 0)
                          kind := .ray work (bytes.map (fun b =>
                            if b.2.any Loc.isFar then none else some (wordsOf (b.2.map rd))))
                          homes := homesOf (bytes.map (·.2)).flatten }] }))

/-- The lanes of Active that meet a condition take PROT, with the address of the lowest of them (17_ray R339, 07_context
R146). -/
def RayStops (i : Instr) (s : State) (v : Env) (bad : Nat → Prop) (addr : Nat → Nat) : Prop :=
  Ready i s v → ∀ l ∈ v.lanes, bad l → (∀ k ∈ v.lanes, bad k → l ≤ k) → ∃ m, TrapsIn v bad m
    ∧ exec i s = .next ((v.at_ s).trapWord v { cause := .prot, tmask := m, addr := addr l }).tick

/-- A lane's ray slot after an instruction that changes ray slots alone: `f l` of it in Active, the others as they were. -/
def RaySlots (v : Env) (f : Nat → RaySlot → RaySlot) (y : Group) : Prop :=
  ∀ l < v.x.lanes.length, (y.lane l).ray = if v.act.has l = true then f l (v.x.lane l).ray else (v.x.lane l).ray

/-- Nothing of a group but its registers, its accesses and its lanes' rays has changed. -/
def ButRays (v : Env) (y : Group) : Prop :=
  y.ctl = v.x.ctl ∧ { y with regs := {}, ctl := {}, flow := {}, io := {}, lanes := [] }
    = { v.x with regs := {}, ctl := {}, flow := {}, io := {}, lanes := [] }

/-- An instruction has completed with its group's registers, its accesses and every byte of memory as they were, and q[QD]
written; the rest is said beside it. -/
def AnsweredLanes (v : Env) (m : Mask) (s t : State) : Prop :=
  (∃ y, t.group v.g = some y ∧ y.regs = v.x.regs.setQ v.qd v.act m ∧ y.ctl = v.x.ctl ∧ y.io = v.x.io)
    ∧ OthersRegs v.g s t ∧ SameMemory s t

/-- Sixteen s registers from B (08_queue R176). -/
def sixteen (v : Env) (b : BitVec 8) : List Word := (List.range 16).map (fun j => v.x.regs.getS (b.toNat - 0x80 + j))

/-- An event counter has its amount added, the others stay. -/
def Signalled (s t : State) (c k : Nat) (amount : Word) : Prop :=
  ∀ d j, t.counter d j = s.counter d j + if d = c ∧ j = k then amount else 0

/-- Every group of a side but the one that issues has arrived in the open phase (12_barrier R227). -/
def OthersArrived (s : State) (v : Env) (sd : Side) (k : Nat) : Prop :=
  ∀ e ∈ s.groups, e.1 ≠ v.g → e.2.team = v.x.team →
    (match sd with | .team => True | .full => e.2.gid < v.team.kern.prod | .empty => v.team.kern.prod ≤ e.2.gid) →
    e.2.bar.arrival sd k = (v.team.bar.count sd k + 1) % 2 ^ 32

/-- An arrival on a side (12_barrier R227, R230): the group's arrival number advances, and the phase completes where every
live group has arrived; nothing else of any barrier changes, and no register and no byte of memory. -/
def Arrives (s : State) (v : Env) (sd : Side) (k : Nat) (t : State) (y : Group) : Prop :=
  t.group v.g = some y ∧ y.regs = v.x.regs ∧ y.ctl = v.x.ctl ∧ y.io = v.x.io
    ∧ (∀ sd' j, y.bar.arrival sd' j =
        if sd' = sd ∧ j = k then (v.x.bar.arrival sd k + 1) % 2 ^ 32 else v.x.bar.arrival sd' j)
    ∧ (∃ tm, t.team v.x.team = some tm
        ∧ (OthersArrived s v sd k → tm.bar.count sd k = (v.team.bar.count sd k + 1) % 2 ^ 32)
        ∧ (¬ OthersArrived s v sd k → tm.bar.count sd k = v.team.bar.count sd k)
        ∧ ∀ sd' j, (sd' ≠ sd ∨ j ≠ k) → tm.bar.count sd' j = v.team.bar.count sd' j)
    ∧ (∀ h, h ≠ v.g → t.group h = s.group h) ∧ SameMemory s t

/-- The group may arrive now: it has not arrived in the open phase, and every earlier access is performed (12_barrier R229,
R230). The group's own arrival number is that of the phase count. -/
def MayArrive (v : Env) (sd : Side) (k : Nat) : Prop :=
  v.x.bar.arrival sd k = v.team.bar.count sd k ∧ v.team.bar.count sd k < 2 ^ 32 ∧ v.x.drained = true

/-- The side on which the group arrives, and the one that it waits for (12_barrier R232). -/
def mySide (v : Env) : Side := if v.x.gid < v.team.kern.prod then .full else .empty
def otherSide (v : Env) : Side := if v.x.gid < v.team.kern.prod then .empty else .full

/-- WF or WE of the group, for the side that it waits for. -/
def waits (v : Env) (b : GroupBar) (k : Nat) : Nat :=
  if v.x.gid < v.team.kern.prod then Tab.get 0 b.we k else Tab.get 0 b.wf k

/-- The barrier number in C. -/
def barOf (w : TwoWord) : Nat := (w.x.c.extractLsb' 0 4).toNat

/-- The flits of clusters after a message is placed in some of them. -/
def Delivered (s t : State) (cls : List Nat) (flit : List Word) : Prop :=
  ∀ k, (t.cluster k).flits = (s.cluster k).flits ++ List.replicate (cls.filter (fun c => c == k)).length flit

/-- The control registers of 07_context R149 and of the units, with their content in lane l (11_register R219; 15_net R300;
17_ray R339). -/
def csrTable : List (Nat × (State → Env → Nat → Word)) :=
  let n (i : Nat) : Word := BitVec.ofNat 32 i
  [(0x00, fun _ _ l => n l), (0x01, fun _ v _ => n v.x.gid), (0x02, fun _ v _ => n v.team.teamid),
   (0x03, fun _ v _ => n (v.x.core / 320 * 512 + v.x.core % 320 / 4 * 4 + v.x.core % 4)), (0x04, fun _ v _ => n v.x.w),
   (0x05, fun _ v _ => n v.x.slot), (0x06, fun _ v _ => n v.c), (0x07, fun _ v _ => n v.x.ctl.tdepth),
   (0x08, fun s _ _ => n s.sched.now), (0x09, fun _ v _ => n v.x.ctl.clockh), (0x0A, fun s v _ => n (v.x.wdog s.sched.now)),
   (0x10, fun _ v _ => n v.x.ctl.fmode), (0x11, fun _ v _ => n v.x.ctl.fstat.toNat), (0x12, fun s v _ => (s.core v.x.core).srseed)]
  ++ (List.range 8).map (fun k => (0x18 + k, fun s v _ => Tab.get 0 (s.core v.x.core).am k))
  ++ [(0x28, fun _ v _ => n v.x.ctl.sppriv), (0x29, fun _ v _ => n v.x.ctl.spteam), (0x2A, fun _ v _ => n v.x.ctl.stklim),
   (0x2B, fun _ v _ => n v.x.ctl.stkbase), (0x2C, fun _ v _ => n (v.x.ctl.stkbase / 2 ^ 32)),
   (0x2D, fun _ v _ => n v.x.ctl.tfbase), (0x2E, fun _ v _ => n (v.x.ctl.tfbase / 2 ^ 32)),
   (0x40, fun s v _ => (s.pool v.x.core).reuse), (0x41, fun s v _ => (s.pool v.x.core).collide),
   (0x42, fun s v _ => n (s.pool v.x.core).stitch.length), (0x43, fun _ v _ => n v.x.alloc),
   (0x44, fun s v _ => n (s.core v.x.core).window), (0x45, fun s v _ => (s.core v.x.core).nrows),
   (0x46, fun _ v _ => n v.x.ctl.rpbase), (0x47, fun _ v _ => n (v.x.ctl.rpbase / 2 ^ 32)),
   (0x48, fun _ v _ => n v.x.ctl.rpcap), (0x49, fun _ v _ => n v.x.ctl.bvhbase),
   (0x4A, fun _ v _ => n (v.x.ctl.bvhbase / 2 ^ 32))]

/-- The read-write control registers but %wdog and %stctl, with what a write of a leaves there (03_numbers R53, R57, R60;
11_register R219; 15_net R300; 17_ray R339). -/
def writeTable : List (Nat × (Word → Word)) :=
  [(0x10, fun a => a &&& 3), (0x12, fun a => if a = 0 then 1 else a), (0x40, fun a => a), (0x41, fun a => a),
   (0x44, fun a => if a &&& 0xFFFF = 0 then 1 else a &&& 0xFFFF), (0x45, fun a => a), (0x46, fun a => a &&& 0xFFFFFFC0),
   (0x47, fun a => a), (0x48, fun a => a), (0x49, fun a => a &&& 0xFFFFFF80), (0x4A, fun a => a)]
  ++ (List.range 8).map (fun k => (0x18 + k, fun a => a))

/-- The three writes to a read-write control register: the instruction, and the value it offers from the old one and sa
(07_context R151). -/
def writers : List ((TwoWord → Instr) × (Word → Word → Word)) :=
  [(.syCsrw, fun _ a => a), (.syCsrs, fun o a => o ||| a), (.syCsrc, fun o a => o &&& ~~~a)]

/-- After a write of control register n, before the register unit names what was written (11_register R211): it reads `x` in
the group as it now is, every other control register but the clocks reads as before, and no register and no byte of memory has
changed. -/
def WroteControl (s : State) (v : Env) (n : Nat) (x : Word) (t : State) : Prop :=
  ∃ y, t.group v.g = some y ∧ y.regs = v.x.regs ∧ y.io = v.x.io ∧ y.stillIo = v.x.stillIo
    ∧ (∀ p ∈ csrTable, ∀ l, p.2 t { v with x := y } l =
        if p.1 = n then x else if p.1 = 0x08 ∨ p.1 = 0x0A then p.2 t { v with x := y } l else p.2 s v l)
    ∧ (∀ h, h ≠ v.g → t.group h = s.group h) ∧ SameMemory s t

/-- The word of a trap frame at a byte offset (07_context R146). -/
def frameWord (fr : List Byte) (off : Nat) : Word := BitVec.ofNat 32 (ofBytes ((fr.drop off).take 4))


/-- The restored PC of a lane lies inside the clause of its clause base: from the word after the header to its last word. The
header is read as the group's core sees it; where it has no translation its COUNT is taken as 15 (R151). -/
def InsideClause (s : State) (v : Env) (pc cb : Word) : Prop :=
  cb ≠ clearWord ∧ cb.toNat + 4 ≤ pc.toNat
    ∧ pc.toNat ≤ cb.toNat + 4 * match s.peekWord (.core v.x.core) v.c cb with
      | some h => (h.extractLsb' 28 4).toNat
      | none => 15

/-- Lane l as tret leaves it before the meeting rules apply: one that had exited is as it was; one that the frame says has
exited exits; any other takes PC, MR, state and clause base from the frame, where `next` moves one that was issued past IPC to
NPC, and a clause base that its PC does not lie in is clear (R151). -/
def Restored (s : State) (v : Env) (fr : List Byte) (next : Bool) (l : Nat) (a : Lane) : Prop :=
  let st := ofBytes ((fr.drop (0x240 + l)).take 1)
  let imask : Mask := BitVec.ofNat 64 (ofBytes ((fr.drop 48).take 8))
  let pc := frameWord fr (0x40 + 4 * l) &&& 0xFFFFFFFC
  let pc := if next = true ∧ imask.has l = true ∧ pc = frameWord fr 36 then frameWord fr 32 else pc
  if l < 64 ∧ l < v.x.w ∧ (v.x.lane l).st ≠ .exited then
    if st = 3 then a.st = .exited
    else ∃ cb, (InsideClause s v pc (frameWord fr (0x280 + 4 * l)) → cb = frameWord fr (0x280 + 4 * l))
      ∧ (¬ InsideClause s v pc (frameWord fr (0x280 + 4 * l)) → cb = clearWord)
      ∧ a = { v.x.lane l with pc := pc, mr := frameWord fr (0x140 + 4 * l), cb := cb, bypass := 0
                              st := nth .exited [.ready, .held, .waiting] st }
  else a = v.x.lane l

/-- After the meeting rules, lanes that all wait at one word are ready there if no other lane is left (10_group R194). -/
def WakesAt (x y : Group) : Prop :=
  y.lanes.length = x.lanes.length ∧ ∀ l < x.lanes.length,
    let woken : Prop := (x.lane l).st = .waiting ∧ ∀ o ∈ x.lanes, o.st ≠ .exited → o.st = .waiting ∧ o.pc = (x.lane l).pc
    (woken → y.lane l = { x.lane l with st := .ready }) ∧ (¬ woken → y.lane l = x.lane l)

/-- CTXCMD or CTXDESC refused (07_context R140): ERR is set and ECODE written. -/
def refused (s : State) (k code : Nat) : State := s.modCtx k (fun c => { c with err := true, ecode := code })

/-- A context changed by an accepted command that is complete: BUSY reads 0 (R140), and INTSTAT bit 2 is set (18_link R369). -/
def accepted (s : State) (k : Nat) (f : Ctx → Ctx) : State := (s.modCtx k (fun c => { f c with busy := false })).interrupt 2

/-- A context as INSTALL and RESUME leave it: Resident, in the next generation (R142, R143). -/
def madeResident (c : Ctx) : Ctx :=
  { c with st := .resident, gen := c.gen + 1, moveStopped := false, fatal := false, quantumOut := false }

/-- i is a command of CTXCMD for slot k, allowed in the states `ok` (R142). -/
def IsCommand (k : Nat) (i : Instr) (ok : List CtxSt) : Prop :=
  (i = .evInstall k ∧ ok = [.built]) ∨ (i = .evSuspend k ∧ ok = [.resident, .running])
    ∨ ((∃ r, i = .evResume k r) ∧ ok = [.saved])
    ∨ (i = .evRetire k ∧ ok = [.built, .resident, .running, .draining, .saved, .faulted])

/-- The registers that a host write reaches are there: READY is 1 (19_device R376), in the state with the module awake
(R378). -/
def Awake (s u : State) : Prop := s.pwr.ready = true ∧ u = s.wakeModule

/-- No queued store of a group, no tdrain and no present that is not complete uses a translation that the invalidation names
(06_page R132). -/
def NoUser (s : State) : Prop :=
  (∀ e ∈ s.groups, ∀ q ∈ e.2.io.sq, ∀ l ∈ q.via, s.pginv.names l = false)
    ∧ (∀ c ∈ s.cores, ∀ o ∈ c.2.tileq, ∀ x, o.work = .drain x → ∀ l ∈ x.via, s.pginv.names l = false)
    ∧ (∀ c ∈ s.clusters, ∀ o ∈ c.2.viewq, ∀ l ∈ o.via, s.pginv.names l = false)

/-- The entry-queue header of a context as an append and a move see it (08_queue R162): the places of its 64 bytes in the state
that the translation leaves, with CAPLOG, TAIL and HEAD. -/
def HeaderAt (s : State) (c : Nat) (s' : State) (h : List Loc) (cap tail head : Nat) : Prop :=
  s.virt c (s.ctx c).d.entryq 64 true = (s', some h) ∧ cap = ofBytes ((s'.readLocs h).take 1) % 32
    ∧ tail = ofBytes (((s'.readLocs h).drop 8).take 4) ∧ head = ofBytes (((s'.readLocs h).drop 12).take 4)

/-- The address of slot n of a context's entry queue (R162). -/
def slotAddr (s : State) (c cap n : Nat) : Nat := (s.ctx c).d.entryq + 64 + 64 * (n % 2 ^ cap)

/-- An append writes its record to slot TAIL and then increments TAIL (R163). -/
def appended (s : State) (slot h : List Loc) (tail : Nat) (r : RecordWords) : State :=
  (s.writeCells 0 (slot.zip ((r.map (fun w => toBytes 4 w.toNat)).flatten))).writeCells 0
    (((h.drop 8).take 4).zip (toBytes 4 (tail + 1)))

/-- The context takes appends: it is Resident, Running, Draining or Saved (R163). -/
def takesAppends (s : State) (c : Nat) : Prop := (s.ctx c).st ∈ [CtxSt.resident, .running, .draining, .saved]

/-- An append to a context's entry queue ends in `t`, accepted or not; a refused one has changed nothing (R163). -/
def Appends (s : State) (c : Nat) (r : RecordWords) (t : State) (ok : Bool) : Prop :=
  let refused : Prop := t = s ∧ ok = false
  (¬ takesAppends s c → refused)
  ∧ (takesAppends s c → ∀ s', s.virt c (s.ctx c).d.entryq 64 true = (s', none) → refused)
  ∧ (takesAppends s c → ∀ s' h cap tail head, HeaderAt s c s' h cap tail head →
    let fits : Prop := 4 ≤ cap ∧ cap ≤ 16 ∧ (tail + 2 ^ 32 - head) % 2 ^ 32 < 2 ^ cap
    (¬ fits → refused)
    ∧ (fits → ∀ u, s'.virtD c (slotAddr s c cap tail) 64 false = (u, none) → refused)
    ∧ (fits → ∀ u sl u', s'.virtD c (slotAddr s c cap tail) 64 false = (u, some sl) →
      u.virtD c (s.ctx c).d.entryq 64 false = (u', none) → refused)
    ∧ (fits → ∀ u sl u' h', s'.virtD c (slotAddr s c cap tail) 64 false = (u, some sl) →
      u.virtD c (s.ctx c).d.entryq 64 false = (u', some h') → t = appended u' sl h' tail r ∧ ok = true))

/-- A launch record may become Ready: its waits are met and its context is Resident or Running (08_queue R165). -/
def MayReady (s : State) (r : Record) : Prop :=
  r.st = .waiting ∧ r.met0 = true ∧ r.met1 = true ∧ ((s.ctx r.ctx).st = .resident ∨ (s.ctx r.ctx).st = .running)

/-- A record leaves its launch queue discarded, with an ERRCODE (R164). -/
def discarded (s : State) (n : Nat) (r : Record) (code : Nat) : State :=
  ({ s with records := Tab.del s.records n }).discard r.ctx code (recTag r.words)

/-- The context's own queues are as they were but for one task queue. -/
def withQueue (s : State) (c q : Nat) (t : TaskQ) : State := s.modCtx c (fun x => x.setQueue q t)

/-- A candidate stands before another in the order of R166: the higher class, the older age, the lower context number. -/
def before (a b : Cand) : Prop :=
  a.cls < b.cls ∨ (a.cls = b.cls ∧ (a.age < b.age ∨ (a.age = b.age ∧ a.ctx ≤ b.ctx)))

/-- The candidates that a decision tries before it places one: those that no blocking candidate of their class stands before
(R166). -/
def passedOver (pre : List Cand) : List Cand :=
  ((List.range pre.length).filter (fun i => match pre[i]? with
    | some c => !(pre.take i).any (fun b => b.blocks && b.cls = c.cls)
    | none => false)).filterMap (fun i => pre[i]?)

/-- The placed teams that have been asked already to give way. -/
def askedTeams (s : State) : List Nat := (s.teams.filter (fun t => t.2.preempt && t.2.st = .placed)).map (·.1)

/-- A team that context k, its quantum at an end, may give up for a candidate: placed, outside the display class, of the
candidate's class or a lower one, and not yet asked (R167, R168; log 74). -/
def MayGive (s : State) (k : Nat) (c : Cand) (w : Nat) : Prop :=
  ∃ t, (w, t) ∈ s.teams ∧ t.st = .placed ∧ t.preempt = false ∧ t.cls ≠ 0 ∧ t.ctx = k ∧ c.cls ≤ t.cls

/-- The teams ws of context k give way to a candidate: the youngest first, until it fits (R168). -/
def GivesWay (s : State) (k : Nat) (c : Cand) (ws : List Nat) : Prop :=
  (∀ w ∈ ws, MayGive s k c w) ∧ s.fits (askedTeams s ++ ws) c = true
    ∧ (∀ n < ws.length, s.fits (askedTeams s ++ ws.take n) c = false)
    ∧ ∀ w ∈ ws, ∃ m, (w, m) ∈ s.teams ∧ ∀ u, MayGive s k c u → u ∉ ws → ∃ n, (u, n) ∈ s.teams ∧ n.age ≤ m.age

/-- A lane of a group that starts for a grid (09_kernel R187). -/
def freshLane (k : Kernel) : Lane := { pc := k.entry }

/-- The home of a byte: which memory, and where in it; stack bytes by the memory that backs them (05_memory R89, R94). -/
def homeOf : Loc → Nat × Nat
  | .sp c o => (0, c * 2 ^ 19 + o)
  | .csp d o => (1, d * 2 ^ 28 + o)
  | .mem p _ => if p / 2 ^ 40 = 0 then (2, p) else (3, p % 2 ^ 40)
  | .stk p _ => if p / 2 ^ 40 = 0 then (2, p) else (3, p % 2 ^ 40)
  | .far m r _ a => (4, (m * 64 + r) * 2 ^ 52 + a)

/-- Of memory, A of these page-table entries has been set, and nothing else, as the context's key reads it; no byte outside
their granules has changed under any key (05_memory R105, 06_page R128, R136). -/
def OnlyAccessed (key : Nat) (entries : List Nat) (s t : State) : Prop :=
    (∀ pa k, (∀ e ∈ entries, ∀ i < 256, homeOf (.mem (e / 256 * 256 + i) 0) ≠ homeOf (.mem pa 0)) → t.readPa pa k = s.readPa pa k)
    ∧ ∀ pa, ((∃ e ∈ entries, homeOf (.mem e 0) = homeOf (.mem pa 0)) → t.readPa pa key = s.readPa pa key ||| 32)
      ∧ ((∀ e ∈ entries, homeOf (.mem e 0) ≠ homeOf (.mem pa 0)) → t.readPa pa key = s.readPa pa key)

/-- The lines of a pref in turn: the entries of the leaves that their walks find, and the lines that are not dropped (05_memory
R105). A line outside the space of the context, or that a range lock meets, is dropped at once; one of this module's global
memory is translated, by a walk where no cache holds its leaf, and is dropped where there is no leaf or C is set. -/
def prefLines (v : Env) (space : Nat) : List Nat → State → List Nat × List Nat
  | [], _ => ([], [])
  | a :: as, s =>
    if v.outside s space 128 false false false ⟨0, a⟩ || !(v.locked s space 128 true ⟨0, a⟩).isEmpty then prefLines v space as s
    else if space = 0 ∧ moduleOf a = 0 then
      let va := a % 2 ^ 52
      let rest := prefLines v space as (s.look v.site v.c va (fun _ => true)).1
      let keep (l : Leaf) : List Nat := if pteC l.pte then rest.2 else a :: rest.2
      match v.leaf s va, s.walk v.die v.c va with
      | some l, _ => (rest.1, keep l)
      | none, .leaf l => (l.entry :: rest.1, keep l)
      | none, _ => rest
    else
      let rest := prefLines v space as s
      (rest.1, a :: rest.2)

/-- The physical address and the key of a byte of memory. -/
def paKey : Loc → Option (Nat × Nat)
  | .mem p k => some (p, k)
  | .stk p k => some (p, k)
  | _ => none

/-- A write of one byte leaves the other, which has another home, as it reads: they lie in different granules, or are named
under one key. A write under another key changes how the rest of a granule reads (06_page R136; log 7). -/
def apart (a b : Loc) : Prop :=
  homeOf a ≠ homeOf b ∧ ∀ p q, paKey a = some p → paKey b = some q → p.1 / 256 = q.1 / 256 → p.2 = q.2

/-- Bytes performed in order: each place holds the last byte written there, and every other byte reads as before. -/
def Performed (g : Nat) (cells : List (Loc × Byte)) (s t : State) : Prop :=
  (∀ (i : Nat) (l : Loc) (b : Byte), cells[i]? = some (l, b) → (∀ (j : Nat) (c : Loc × Byte), i < j → cells[j]? = some c → apart c.1 l) →
      t.readLoc g l = b)
  ∧ (∀ l, (∀ c ∈ cells, apart c.1 l) → t.readLoc g l = s.readLoc g l)

/-- A group is as it was but for its accesses in flight, its flags, its issue state and where its lanes stand. -/
def RegsBut (x y : Group) : Prop :=
  y.regs.v = x.regs.v ∧ y.regs.s = x.regs.s ∧ y.regs.q = x.regs.q ∧ y.ctl = x.ctl ∧ y.stillIo = x.stillIo

/-- Loads of a group are in flight: a release waits for them (05_memory R114). -/
def loadsInFlight (x : Group) : Prop :=
  ∃ p ∈ x.io.pend, match p.kind with
    | .load | .far _ | .ray .. | .pref | .ret _ | .block _ none => True
    | _ => False

/-- A flag after the operation that it counts is performed. -/
def flagDown (x : Group) (f : Option Nat) (k : Nat) : Nat :=
  if f = some k then x.regs.getF k - 1 else x.regs.getF k

/-- The new value of an atomic: of f32 the rounded sum and the order of min and max, with no flush; min and max of integers
under their sign (05_memory R109). -/
def AtomGives (op : AtomOp) (ty : Ty) (old b c new : Word) : Prop :=
  let float (R : FloatRel) : Prop := ∃ e, R .f32 {} .rne old.toNat b.toNat e ∧ new = BitVec.ofNat 32 e.1
  match op with
  | .add => if ty = .f32 then float SumOf else new = old + b
  | .min => if ty = .f32 then float LeastOf else new = if ty = .i32 then opMin .i32 32 old b else opMin .n32 32 old b
  | .max => if ty = .f32 then float GreatestOf else new = if ty = .i32 then opMax .i32 32 old b else opMax .n32 32 old b
  | .and => new = old &&& b
  | .or => new = old ||| b
  | .xor => new = old ^^^ b
  | .xchg => new = b
  | .cas => new = if old = c then b else old

/-- Lanes that act on one word in ascending order: what each reads, and the word at the end (05_memory R108, R109). -/
def InTurn (op : AtomOp) (ty : Ty) (w : Word) : List AtomLane → List Word → Word → Prop
  | [], olds, last => olds = [] ∧ last = w
  | a :: as, olds, last => ∃ new rest, AtomGives op ty w a.b a.c new ∧ olds = w :: rest ∧ InTurn op ty new as rest last

/-- A die has a path to every home, or to one of them none without links (01_module R13, 18_link R358, R362). -/
def ReachesAll (s : State) (core : Nat) (homes : List Nat) : Prop := ∀ h ∈ homes, s.reaches (core / 320) h = true
def MayFail (s : State) (core : Nat) (homes : List Nat) : Prop := ∃ h ∈ homes, s.mayLink (core / 320) h = true

/-- The cells of a store that ends with LINK which are performed: those at a home that no missing path and no link stands before
(01_module R13; log 69). -/
def landedCells (s : State) (core : Nat) (cells : List (Loc × Byte)) : List (Loc × Byte) :=
  cells.filter (fun c => match c.1.home with
    | some h => !s.mayLink (core / 320) h
    | none => true)

/-- The oldest entry of a store queue waits: for the loads of other modules that were in flight when it was issued, or, a
release, for every load (05_memory R113, R114). -/
def EntryWaits (x : Group) (e : SqEnt) : Prop :=
  (∃ p ∈ x.io.pend, p.id ∈ e.after) ∨ (e.rel = true ∧ loadsInFlight x)

/-- The lanes and the PC of a pick: all ready, all at one PC. -/
def OnePc (x : Group) (p : Pick) : Prop :=
  ∀ l < 64, p.lanes.has l = true → (x.lane l).st = .ready ∧ (x.lane l).pc = p.pc

/-- %wdog of a group has reached WATCH of its context (07_context R148). -/
def WatchIsDue (s : State) (x : Group) : Prop :=
  ∃ c, s.ctxOf x = some c ∧ (s.ctx c).d.watch ≠ 0 ∧ 1024 * (s.ctx c).d.watch ≤ x.wdog s.sched.now

/-- The port that a clause holds while it is open: that of its class; a mixed clause takes one for each word (02_encoding
R26). -/
def openedPort (hdr first : Word) : Option Nat := if hdrClass hdr < 4 then some (clausePort hdr first) else none

/-- The group's clause issue goes on at a word inside a clause: the header is read again for its class, flags and yield, the
words are fetched and checked from there on, WAIT is not tested again, and the lanes stand there (02_encoding R27, R29, R46).
-/
def ResumesAt (i : Instr) (s : State) (g : Nat) (x : Group) (base pc : Word) (lanes : Mask) (aside : Bool) : Prop :=
  let n := (pc.toNat - base.toNat) / 4
  ∀ c s' hdr s'' ws, s.ctxOf x = some c → s.fetchWord (.core x.core) c base = .ok s' hdr → hdrOk hdr = true → n ≤ hdrCount hdr →
    s'.fetchWords (.core x.core) c (base + BitVec.ofNat 32 (4 * n)) (hdrCount hdr + 1 - n) [] = (s'', .inl ws) →
    structOk ws.length ws = true →
    ∃ u y, exec i s = .next u ∧ u.group g = some y ∧ u.sched.turn = some g ∧ y.flow.park = none ∧ y.regs = x.regs
      ∧ y.ctl = x.ctl ∧ y.io = x.io ∧ (∀ h, h ≠ g → u.group h = s''.group h)
      ∧ ∃ port, y.flow.clause = some { base := base, hdr := hdr, words := List.replicate (n - 1) 0 ++ ws, pos := n, lanes := lanes
                                       port := port, aside := aside }
        ∧ (1 ≤ n → port = openedPort hdr (nth 0 ws 0))

/-- No other group stands on the group's core. -/
def AloneOn (s : State) (g : Nat) (x : Group) : Prop := ∀ e ∈ s.groups, e.1 ≠ g → e.2.core ≠ x.core

/-- An engine operation of a group has left flight: no pending entry of it is left, and its flag has gone down; where the group
has ended, nothing is owed to it. -/
def OpDone (s u : State) (g uid : Nat) : Prop :=
  ∀ x p, s.group g = some x → x.io.pend.find? (fun q => q.id = uid) = some p →
    ∃ y, u.group g = some y ∧ (∀ q ∈ y.io.pend, q.id ≠ uid) ∧ ∀ k, y.regs.getF k = flagDown x p.flag k

/-- A group has an error of an engine operation waiting (05_memory R106, 13_transfer R253). -/
def Owes (u : State) (g : Nat) (c : Cause) (lanes : Mask) (info : Nat) : Prop :=
  ∃ y, u.group g = some y ∧ ∃ l ∈ y.io.late, l.trap.cause = c ∧ l.trap.tmask = lanes ∧ l.trap.info = info

/-- A handle after a transfer into it (`fill`) or out of it has completed; `err`: with an error; `full`: every line of its
range is present (13_transfer R250, R252). -/
def handleAfter (a : Handle) (fill err full : Bool) : Handle :=
  let a := { a with err := a.err || err }
  if fill then
    { a with fills := a.fills - 1, st := if a.st = .filling ∧ a.fills ≤ 1 ∧ full = true then .full else a.st }
  else if a.drains = 1 ∧ a.st = .draining then
    (if a.keep then { a with drains := 0, st := .full, keep := false } else { a with drains := 0, st := .free, keep := false, sig := none })
  else { a with drains := a.drains - 1 }

/-- A transfer has left its engine: its place in the queue, its ranges, its pending entry; its handle has one fill or drain
less, and its ERR where `err`; a handle that becomes Free fires its signal; and the codebook slot that it pinned takes its
pending contents once no transfer of the live generation is left (13_transfer R245, R250, R252, R253). -/
def TransferGone (s u : State) (d e : Nat) (t : Transfer) (err : Bool) : Prop :=
  (∀ q ∈ (u.engine d e).queue, q.uid ≠ t.uid) ∧ OpDone s u t.group t.uid
    ∧ (∀ l ∈ (u.core t.core).locks, ∀ k, l.2 = some k → k.owner ≠ t.uid)
    ∧ (∀ h < 64, t.handle = some h →
      let a := (s.core t.core).handle h
      let fill : Bool := t.op ≠ .bin && t.ti.kind = 0
      (u.core t.core).handle h = handleAfter a fill err (u.rangePresent t.core a)
        ∧ (∀ c k, a.sig = some (c, k) → fill = false → a.drains = 1 → a.st = .draining → a.keep = false → Signalled s u c k 1))
    ∧ (∀ k g, t.pin = some (k, g) →
      let b := s.book d k
      let last : Prop := ∀ j < 8, ∀ q ∈ (u.engine d j).queue, q.pin ≠ some (k, b.gen)
      (∀ x f, b.shadow = some (x, f) → last →
          u.book d k = { b with live := x, fmt := f, shadow := none, gen := (b.gen + 1) % 4096 })
        ∧ ((b.shadow = none ∨ ¬ last) → u.book d k = b))

/-- The elements of a transfer processed in order: from a state and the transfer as it stands there to others, the engine's
generator carried on (13_transfer R241, R252). -/
inductive Runs (d e : Nat) : State → Transfer → State → Transfer → Prop where
  | here (s : State) (t : Transfer) : Runs d e s t s t
  | elem (s s' z : State) (t v : Transfer) (seed : Word) : t.next < t.count →
      s.transferElem d t (s.engine d e).seed = .ok s' seed →
      Runs d e (s'.setEngine d e { s'.engine d e with seed := seed }) { t with next := t.next + t.unit, place := none } z v →
      Runs d e s t z v
  | row (s s' z : State) (t v : Transfer) (p : Bool × Nat) : t.next < t.count →
      s.transferElem d t (s.engine d e).seed = .placed s' p → Runs d e s' { t with place := some p } z v → Runs d e s t z v

/-- The address of the element in which an address lies at which a transfer has stopped (13_transfer R255). -/
def ElementOf (s : State) (d : Nat) (t : Transfer) (va a : Nat) : Prop :=
  (∃ r ∈ s.nextRanges d t, r.2.1 ≤ va ∧ va < r.2.1 + r.2.2) → ∃ r ∈ s.nextRanges d t, r.2.1 = a ∧ a ≤ va ∧ va < a + r.2.2

/-- CEERR latches a stop where it is not valid, with its interrupt, and keeps what it holds where it is (13_transfer R255). -/
def Latched (s u : State) (d e : Nat) (t : Transfer) (c : Cause) (a : Nat) : Prop :=
  ((s.engine d e).err.valid = true → (u.engine d e).err = (s.engine d e).err)
    ∧ ((s.engine d e).err.valid = false →
        (u.engine d e).err = ⟨true, c.code, t.ctx, a % 2 ^ 52⟩ ∧ (u.ints.stat).testBit 5 = true)

/-- Tile t of a core holds `f`; every other tile is as it was (14_tile R259). -/
def TileHolds (s u : State) (core t : Nat) (f : Nat → Nat → Word) : Prop :=
  ∀ n i j, i < 32 → j < 32 → (u.core core).elem n i j = if n = t then f i j else (s.core core).elem n i j

/-- A tile operation has left its core's queue (14_tile R264). -/
def TileDone (s u : State) (core : Nat) (o : TileOp) : Prop :=
  (∀ q ∈ (u.core core).tileq, q.uid ≠ o.uid) ∧ OpDone s u o.group o.uid

/-- A byte of the module's own memory, not reached through a stack cache. -/
def plainLoc : Loc → Prop
  | .sp .. | .csp .. | .mem .. => True
  | .stk .. | .far .. => False

/-- A real number rounded once to a format in a mode (03_numbers R54). -/
def RoundsTo (t : Ty) (fm : FMode) (rnd : Rnd) (y : ℝ) (n : Nat) : Prop :=
  (y = 0 → n = (roundTo t fm rnd (.zero false)).1) ∧ (y ≠ 0 → ∃ r, RoundsReal t fm rnd 0 True y r ∧ n = r.1)

/-- A real number rounded once to the nearest binary32, flushing nothing; a zero has the sign that its operands give it. -/
def Nearest32 (y : ℝ) (w : Word) : Prop := (y = 0 → w.toNat % 2 ^ 31 = 0) ∧ (y ≠ 0 → RoundsTo .f32 {} .rne y w.toNat)

/-- An exact rational as a real number. -/
noncomputable def quot (a : Rat2) : ℝ := a.n / a.d

/-- The number that a binary32 pattern stands for. -/
noncomputable def num (w : Word) : ℝ := realOf (decodeRaw .f32 w.toNat)

/-- A binary32 pattern is finite. -/
def Fin32 (w : Word) : Prop := (w.extractLsb' 23 8).toNat ≠ 255

/-- The value of a memory element as a transfer reads it: a subnormal is the zero of its sign under FTZN, and a binary32 or
.bf16 one under FTZ32 (13_transfer R243, 03_numbers R56). -/
def ElementRead (t : Ty) (fm : FMode) (x : Nat) (y : Val) : Prop :=
  if isSubnormal t x = true ∧ (t.flushed fm = true ∨ (t = .bf16 ∧ fm.ftz32 = true)) then y = .zero (x.testBit (t.width - 1))
  else y = decodeRaw t x

/-- The bytes of the scratchpad that element n of a transfer stands in (13_transfer R240). -/
def spElement (t : Transfer) (n : Nat) : List Loc :=
  (List.range t.ti.spSize).map (fun i => .sp t.core (t.base + t.ti.pos n * t.ti.spSize + i))

/-- The indices by which the memory side of the next element is addressed: those of the element, the outermost one of a gather
taken from its list (13_transfer R240, R257). -/
def SourceIndices (s : State) (t : Transfer) (is : List Nat) : Prop :=
  let own := indices t.ti.dims t.next
  let at_ := t.list + 4 * nth 0 own (own.length - 1)
  (t.op = .copy ∧ is = own)
    ∨ (t.op = .gather ∧ s.present t.core (at_ / 128) = true ∧ s.readSpNat t.core at_ 4 ≠ 2 ^ 32 - 1
        ∧ is = setAt own (own.length - 1) (s.readSpNat t.core at_ 4))

/-- The next element of a transfer is done: bytes have been performed, and the engine's generator stands at a seed. -/
def ElementDone (s : State) (d : Nat) (t : Transfer) (seed after : Word) (s1 : State) (cells : List (Loc × Byte)) : Prop :=
  ∃ u, s.transferElem d t seed = .ok u after ∧ Performed 0 cells s1 u

/-- The scale byte of a block of values (03_numbers R51). -/
def ScaleOf (t : Ty) (xs : List Val) (b : Nat) : Prop :=
  let emax : Int := if t = .mx4 then 2 else if t = .e4m3 then 8 else if t = .e5m2 then 15 else 3
  let wild : Prop := ∃ x ∈ xs, ∀ n m e, x ≠ .fin n m e
  (wild → b = 255) ∧ (¬ wild → (∀ x ∈ xs, realOf x = 0) → b = 0)
    ∧ (¬ wild → ∀ k : Int, (∃ x ∈ xs, (2 : ℝ) ^ k ≤ |realOf x|) → (∀ x ∈ xs, |realOf x| < 2 ^ (k + 1)) →
        (b : Int) = max (-127) (min 127 (k - emax)) + 127)

/-- The code of an element of a block under its scale byte (03_numbers R51). -/
def blockCode (t : Ty) (fm : FMode) (rnd : Rnd) (b : Nat) (y : Val) : Nat :=
  if b = 255 then 0 else (roundTo t fm rnd (y.scale (127 - b))).1

/-- Entry j of a codebook is the nearest to a value: the lowest of several; a NaN takes the lowest NaN entry, else 0
(13_transfer R246). -/
def NearestEntry (f : Ty) (entries : List Nat) (x : Val) (j : Nat) : Prop :=
  let at_ (k : Nat) : Val := decodeRaw f (nth 0 entries k % 2 ^ f.width)
  let finite (y : Val) : Prop := ∃ n m e, y = .fin n m e
  (x = .nan → (∃ k < entries.length, at_ k = .nan) → j < entries.length ∧ at_ j = .nan ∧ ∀ k < j, at_ k ≠ .nan)
    ∧ (x = .nan → (∀ k < entries.length, at_ k ≠ .nan) → j = 0)
    ∧ (∀ n, x = .inf n → (∃ k < entries.length, at_ k = .inf n) → j < entries.length ∧ at_ j = .inf n ∧ ∀ k < j, at_ k ≠ .inf n)
    ∧ (finite x → (∃ k < entries.length, finite (at_ k)) → j < entries.length ∧ finite (at_ j)
        ∧ ∀ k < entries.length, finite (at_ k) → |realOf x - realOf (at_ j)| ≤ |realOf x - realOf (at_ k)|
          ∧ (k < j → |realOf x - realOf (at_ j)| < |realOf x - realOf (at_ k)|))

/-- Where the elements of a transfer stand: the indices of element n, and the memory address that they give (13_transfer
R240). -/
def ElementPlaces : Prop :=
  (∀ (dims : List TDim) (n : Nat), (indices dims n).length = dims.length
    ∧ ∀ k < dims.length, nth 0 (indices dims n) k =
        n / ((dims.take k).map (·.ext)).prod % (nth ⟨1, false, 0, 0⟩ dims k).ext)
  ∧ (∀ (r : TRec) (is : List Nat), is.length = r.dims.length → r.dims ≠ [] →
    let part (k : Nat) : Int :=
      let d := nth ⟨1, false, 0, 0⟩ r.dims k
      if d.bcast = true then 0 else d.mstr * (nth 0 is k : Int)
    let i0 := nth 0 is 0
    let inner : Int :=
      if r.blk = 1 then (if r.nibble = true then ((i0 / 32 * 17 + i0 % 32 / 2 : Nat) : Int) else ((i0 / 32 * 33 + i0 % 32 : Nat) : Int))
      else if r.nibble = true then ((i0 / 2 : Nat) : Int) else part 0
    let off := inner + (((List.range r.dims.length).drop 1).map part).sum
    r.memAddr is / 2 ^ 52 = r.mbase / 2 ^ 52 ∧ ((r.memAddr is : Nat) : Int) % 2 ^ 52 = ((r.mbase : Nat) + off) % 2 ^ 52)

/-- KIND 0: the element that memory holds is moved unchanged, or expanded and dequantised, and written to its scratchpad bytes
(13_transfer R241, R243, R246). -/
def FillValues : Prop :=
  ∀ (s : State) (d : Nat) (t : Transfer) (seed : Word) (is : List Nat), t.op ≠ .bin → t.ti.kind = 0 → SourceIndices s t is →
    let done (s1 : State) (code : Nat) : Prop :=
      ElementDone s d t seed seed s1 ((spElement t t.next).zip (toBytes t.ti.spSize code))
    ∀ s1 ls, s.engBytes d t.ctx t.ti.mcsp false true (t.ti.memAddr is) t.ti.memSize = (s1, .ok ls) → (∀ l ∈ ls, plainLoc l) →
      let read := ofBytes (ls.map (s1.readLoc 0))
      let x := if t.ti.nibble = true then read / 16 ^ (nth 0 is 0 % 2) % 16 else read
      (t.ti.raw = true → done s1 x)
      ∧ (t.ti.raw = false → t.ti.expand = false → t.ti.blk = 0 → ∀ y, ElementRead t.ti.fs t.ti.fm x y →
        done s1 (roundTo t.ti.fd t.ti.fm .rne y).1)
      ∧ (t.ti.raw = false → t.ti.expand = false → t.ti.blk ≠ 0 → ∀ y s2 l, ElementRead t.ti.fs t.ti.fm x y → plainLoc l →
        s1.engBytes d t.ctx (t.ti.blk = 1 && t.ti.mcsp) false true (t.ti.scaleAddr is t.next) 1 = (s2, .ok [l]) →
        let b := (s2.readLoc 0 l).toNat
        done s2 (roundTo t.ti.fd t.ti.fm .rne (if b = 255 then .nan else y.scale (b - 127))).1)
      ∧ (t.ti.expand = true → t.ti.blk = 0 → ∀ k g ws f, t.pin = some (k, g) → (s1.book d k).at g = (ws, f) →
        let entry := nth 0 ws x % 2 ^ f.width
        (t.ti.fd = f → done s1 entry)
        ∧ (t.ti.fd ≠ f → ∀ y, ElementRead f t.ti.fm entry y → done s1 (roundTo t.ti.fd t.ti.fm .rne y).1))

/-- KIND 1: the element of the scratchpad is moved unchanged, or reduced, rounded and compressed, and written to memory; the
word at AMAXADDR takes the maximum; a block of 32 takes one scale (13_transfer R241, R243, R246; 03_numbers R51, R58, R60). -/
def DrainValues : Prop :=
  ∀ (s : State) (d : Nat) (t : Transfer) (seed : Word), t.op = .copy → t.ti.kind = 1 →
    let r := t.ti
    let n := t.next
    let w := if r.rnd = 4 ∧ n % 32 = 0 then rngNext seed else seed
    let rnd (k : Nat) : Rnd :=
      if r.rnd = 4 then .sr (rngU w (7 * (k % 32))) else nth .rne [.rne, .rz, .ru, .rd] r.rnd
    let place (k : Nat) : Bool × Nat × Nat := (r.mcsp, r.memAddr (indices r.dims k), r.memSize)
    let raw (u : State) (k : Nat) : Nat := ofBytes ((spElement t k).map (u.readLoc 0))
    (r.blk = 0 → s.allPresent (spElement t n) = true → ∀ s1 ls am,
      s.engBytesAll d t.ctx true true (place n :: if r.amaxen = true then [(false, r.amax, 4)] else []) = (s1, .ok (ls ++ am)) →
      ls.length = r.memSize → am.length = (if r.amaxen = true then 4 else 0) → (∀ l ∈ ls ++ am, plainLoc l) → (∀ a ∈ am, ∀ l ∈ ls, apart a l ∧ apart l a) →
      let old := ofBytes (ls.map (s1.readLoc 0))
      let bytes (code : Nat) : List Byte :=
        if r.nibble = true then [BitVec.ofNat 8 (if nth 0 (indices r.dims n) 0 % 2 = 0 then old / 16 * 16 + code % 16
          else old % 16 + code % 16 * 16)] else toBytes r.memSize code
      (r.raw = true → ElementDone s d t seed w s1 (ls.zip (bytes (raw s1 n))))
      ∧ (r.raw = false → ∃ (y entered : Val) (code : Nat),
          (r.reduce = false → ElementRead r.fs r.fm (raw s1 n) y ∧ entered = decodeRaw r.fs (raw s1 n))
          ∧ (r.reduce = true → entered = y ∧ ∃ x o z f, ElementRead r.fs r.fm (raw s1 n) x ∧ ElementRead r.fd r.fm old o
              ∧ IsSum .rne o x z f ∧ y = decodeRaw .f32 (roundTo .f32 r.fm .rne z).1)
          ∧ (r.compress = false → code = (roundTo r.fd r.fm (rnd n) y).1)
          ∧ (r.compress = true → ∀ k g ws f, t.pin = some (k, g) → (s1.book d k).at g = (ws, f) →
              NearestEntry f (ws.take (if r.idx4 = true then 16 else 256)) (decodeRaw f (roundTo r.fd r.fm (rnd n) y).1) code)
          ∧ ElementDone s d t seed w s1 ((if r.amaxen = true then am.zip (toBytes 4 (max (ofBytes (am.map (s1.readLoc 0)))
              (if entered = .nan then 0x7FC00000 else (roundTo .f32 {} .rne entered.abs).1))) else []) ++ ls.zip (bytes code))))
    ∧ (r.blk ≠ 0 → r.raw = false → r.nibble = false → r.reduce = false → r.compress = false → r.amaxen = false →
      s.allPresent ((List.range 32).map (fun j => spElement t (n + j))).flatten = true → ∀ s1 ls l,
      s.engBytesAll d t.ctx true true ((List.range 32).map (fun j => place (n + j))
        ++ [(r.blk = 1 && r.mcsp, r.scaleAddr (indices r.dims n) n, 1)]) = (s1, .ok (ls ++ [l])) →
      ls.length = 32 * r.memSize → (∀ k ∈ ls ++ [l], plainLoc k) →
      ∀ ys : Nat → Val, (∀ j < 32, ElementRead r.fs r.fm (raw s1 (n + j)) (ys j)) →
      ∃ b, b < 256 ∧ ScaleOf r.fd ((List.range 32).map ys) b ∧ ElementDone s d t seed w s1
        (ls.zip (((List.range 32).map (fun j => toBytes r.memSize (blockCode r.fd r.fm (rnd (n + j)) b (ys j)))).flatten)
          ++ [(l, BitVec.ofNat 8 b)]))

/-- KIND 2 moves bytes from memory to memory; a row of a tbin is given its place in its bin, or in the overflow, or is dropped
and counted (13_transfer R241, R248). -/
def MoveAndBinValues : Prop :=
  (∀ (s : State) (d : Nat) (t : Transfer) (seed : Word) (is : List Nat) (s1 s2 : State) (ls out : List Loc),
    t.op ≠ .bin → t.ti.kind = 2 → SourceIndices s t is →
    s.engBytes d t.ctx t.ti.mcsp false true (t.ti.memAddr is) (t.ti.fs.width / 8) = (s1, .ok ls) → (∀ l ∈ ls, plainLoc l) →
    s1.engBytes d t.ctx t.ti.dcsp true true (t.ti.dstAddr (indices t.ti.dims t.next)) (t.ti.fs.width / 8) = (s2, .ok out) →
    (∀ l ∈ out, plainLoc l) → ElementDone s d t seed seed s2 (out.zip (ls.map (s1.readLoc 0))))
  ∧ (∀ (s : State) (d : Nat) (t : Transfer) (seed : Word), t.op = .bin →
    let at_ := t.list + 4 * t.next
    let e := s.readSpNat t.core at_ 4
    let b := (s.ctx t.ctx).bin d t.table
    s.present t.core (at_ / 128) = true →
      (256 ≤ e → s.transferElem d t seed = .ok s seed)
      ∧ (e < 256 → t.place = none → ∀ base cap cnt, Tab.get (0, 0, 0) b.entries e = (base, cap, cnt) →
        let counted : BinTable := { b with entries := Tab.set (0, 0, 0) b.entries e (base, cap, (cnt + 1) % 2 ^ 32) }
        let ovf : BinTable := { counted with ovf := (b.ovf.1, b.ovf.2.1, (b.ovf.2.2 + 1) % 2 ^ 32) }
        (cnt < cap → ∃ u, s.transferElem d t seed = .placed u (false, cnt) ∧ (u.ctx t.ctx).bin d t.table = counted
          ∧ SameMemory s u)
        ∧ (cap ≤ cnt → b.ovf.2.2 < b.ovf.2.1 → ∃ u, s.transferElem d t seed = .placed u (true, b.ovf.2.2)
          ∧ (u.ctx t.ctx).bin d t.table = ovf ∧ SameMemory s u)
        ∧ (cap ≤ cnt → b.ovf.2.1 ≤ b.ovf.2.2 → ∃ u, s.transferElem d t seed = .ok u seed
          ∧ (u.ctx t.ctx).bin d t.table = { ovf with drops := (b.drops + 1) % 2 ^ 32 } ∧ SameMemory s u))
      ∧ (e < 256 → ∀ ov c, t.place = some (ov, c) →
        let row : List Loc := (List.range b.rowb).map (fun i => .sp t.core (t.base + t.next * b.rowb + i))
        let out := (if ov = true then toBytes 4 e ++ toBytes 4 t.next ++ List.replicate 8 0 else []) ++ row.map (s.readLoc 0)
        s.allPresent row = true → ∀ s1 ls, s.engBytes d t.ctx false true true
          (if ov = true then addOff b.ovf.1 (c * (16 + b.rowb) : Nat) else addOff (Tab.get (0, 0, 0) b.entries e).1 (c * b.rowb : Nat))
          (if ov = true then 16 + b.rowb else b.rowb) = (s1, .ok ls) → (∀ l ∈ ls, plainLoc l) →
        ElementDone s d t seed seed s1 (ls.zip out)))

/-- The rounded sum of a native block of products, scaled by 2^k where no scale is a NaN: the canonical NaN where a product is
one, a scale is one or infinities of both signs meet (03_numbers R61). -/
def BlockSum (fm : FMode) (ps : List (Val × Val)) (k : Option Int) (p : Nat) : Prop :=
  ∃ zs : List Val, zs.length = ps.length ∧ (∀ (i : Nat) (x y : Val), ps[i]? = some (x, y) → ∃ z f, zs[i]? = some z ∧ IsProduct x y z f)
    ∧ let bad : Prop := .nan ∈ zs ∨ k = none ∨ (Val.inf true ∈ zs ∧ Val.inf false ∈ zs)
      (bad → p = 0x7FC00000)
      ∧ (¬ bad → ∀ n, Val.inf n ∈ zs → p = if n = true then 0xFF800000 else 0x7F800000)
      ∧ (¬ bad → (∀ n, Val.inf n ∉ zs) → ∀ e, k = some e → RoundsTo .f32 fm .rne ((zs.map realOf).sum * 2 ^ e) p)

/-- One rounded block after another added to an accumulator, each sum rounded (03_numbers R61). -/
def Accumulates (fm : FMode) (blocks : Nat) (ps : Nat → List (Val × Val)) (k : Nat → Option Int) (first last : Word) : Prop :=
  ∃ acc : Nat → Word, acc 0 = first ∧ acc blocks = last ∧ ∀ b < blocks, ∃ p f, BlockSum fm (ps b) (k b) p
    ∧ SumOf .f32 fm .rne (acc b).toNat p ((acc (b + 1)).toNat, f)

/-- The matrix engine of a core has no holder (14_tile R262). -/
def engineFree (s : State) (core : Nat) : Prop := (s.core core).holder = none

/-- A group that waits for the matrix engine of a core (R262). -/
def engineWaits (s : State) (core g : Nat) : Prop := ∃ x, EngineWaiter s core g x

/-- A core with its matrix engine held anew; a group that takes it starts a lease (R262). -/
def heldBy (c : Core) (h : Holder) : Core :=
  { c with holder := some h, leaseUsed := 0, leased := match h with
      | .group g => some g
      | .skein _ => c.leased }

/-- The engine of core k, free in z, has gone to a group that waited for it; its wait at a tile instruction is over, but for a
group whose issue is stopped (R262, R281). -/
def GrantedTo (i : Instr) (s z : State) (k g : Nat) (x : Group) : Prop :=
  ∃ u y, exec i s = .next u ∧ engineWaits z k g ∧ u.core k = { heldBy (z.core k) (.group g) with lastTile := s.sched.now }
    ∧ u.group g = some y
    ∧ y = (if x.flow.park = some .tile ∧ x.flow.stop = false then x.modFlow (fun f => { f with park := none }) else x)
    ∧ (∀ h, h ≠ g → u.group h = s.group h) ∧ (∀ j, j ≠ k → u.core j = s.core j) ∧ SameMemory s u

/-- The arbiter chooses who takes the engine of core k, free in z: a display-class group, else the skein unit's first closed
window, else another group; where nothing waits, `idle` (R262). -/
def Chooses (i : Instr) (s z : State) (k : Nat) (idle : Prop) : Prop :=
  (∀ g x, z.firstWaiter k ((z.engineWaiters k).filter (fun g => z.isDisplay g.2)) = some (g, x) → z.group g = some x →
    GrantedTo i s z k g x)
  ∧ ((∀ g ∈ z.engineWaiters k, z.isDisplay g.2 = false) →
    (∀ w, (z.core k).closedWin = some w → ∃ u, exec i s = .next u
      ∧ ((z.core k).win w).st = .closed ∧ ((z.core k).win w).locked = true
      ∧ (u.core k).win w = { (z.core k).win w with st := .running } ∧ (u.core k).holder = some (.skein w)
      ∧ (u.core k).leaseUsed = 0 ∧ (∀ j, j ≠ w → (u.core k).win j = (z.core k).win j) ∧ u.groups = s.groups)
    ∧ ((z.core k).closedWin = none → ∀ g x, z.firstWaiter k (z.engineWaiters k) = some (g, x) → z.group g = some x →
      GrantedTo i s z k g x)
    ∧ ((z.core k).closedWin = none → z.engineWaiters k = [] → idle))

/-- The lease of the group that holds the engine of core k ends: the engine has no holder, and the arbiter chooses; where
nothing waits it stays free (R262). -/
def LeaseEnds (i : Instr) (s : State) (k : Nat) : Prop :=
  let z : State := s.setCore k { s.core k with holder := none }
  Chooses i s z k (exec i s = .next z.tick)

/-- A view operation has left its view unit: its place in the queue, its ranges, its pending entry (16_view R329, R335). -/
def ViewGone (s u : State) (cl : Nat) (o : ViewOp) : Prop :=
  (∀ q ∈ (u.cluster cl).viewq, q.uid ≠ o.uid) ∧ OpDone s u o.group o.uid
    ∧ ∀ l ∈ (u.core o.core).locks, ∀ k, l.2 = some k → k.owner ≠ o.uid

/-- z has come about, and every output of s whose active area or whose coverage by bound views z changes sends zeros outside the
rectangles of the bound views (16_view R314, R320). -/
def Reshown (s z t : State) : Prop :=
  let area (u : State) (out : Nat) : Nat × Nat := Tab.get (0, 0) u.dpout out
  let zeros (out : Nat) : Sent := .zero out (area z out).1 (area z out).2 (z.shown out)
  { t with sent := z.sent, sched := z.sched, pools := z.pools, tmax := z.tmax, gauge := z.gauge } = z
    ∧ (∀ out < 4, area z out ≠ (0, 0) → (area s out ≠ area z out ∨ s.shown out ≠ z.shown out) → zeros out ∈ t.sent)
    ∧ (∀ e ∈ t.sent, e ∈ z.sent ∨ ∃ out < 4, area z out ≠ (0, 0) ∧ e = zeros out)

/-- What the view controller has to do for a view at a moment: latch its strips, or emit its next row (16_view R312, R315). -/
def ControllerMoment (s : State) (d : Due) (n : Nat) : Prop :=
  ∃ k x v, (k, x) ∈ s.vsets ∧ v < x.views.length ∧
    ((∃ f, x.latchDue v = some (f, n) ∧ d = execEvBoundLatchExpiry k v)
      ∨ ∃ r f j, x.nextRow v = some (r, f, j, n) ∧ d = execEvRowEmit k v)

/-- Something that reaches the module from outside, or that firmware makes it do (19_device R380). -/
def Outer (i : Instr) : Prop :=
  (∃ p, i = .evLinkEnable p ∨ i = .evBridgeDown p ∨ i = .evKeyLoad p ∨ i = .evKeyClear p ∨ i = .evUnitGate false p ∨ i = .evThrottleOn p)
    ∨ (∃ a b c d e, i = .evLinkTrainingDone a b c d e) ∨ (∃ c r, i = .evEntryAppend c r) ∨ (∃ a b c d e, i = .evRemoteAccess a b c d e)
    ∨ (∃ k n, i = .evTileCreditGrant k n) ∨ ∃ o w h, i = .evDpOutputChange o w h

/-- Link traffic and the work of firmware that the recovery loader, which accepts only a new image, does not serve (19_device
R377; log 80). -/
def Loaders (i : Instr) : Prop :=
  (∃ p, i = .evLinkEnable p ∨ i = .evLinkFence p ∨ i = .evLinkDrain p ∨ i = .evLinkDisable p ∨ i = .evKeyLoad p ∨ i = .evKeyClear p
      ∨ i = .evUnitGate false p ∨ i = .evUnitGate true p)
    ∨ (∃ a b c d e, i = .evLinkTrainingDone a b c d e) ∨ ∃ k n, i = .evTileCreditGrant k n

/-- Byte j of a number. -/
def byteOf (x j : Nat) : Byte := BitVec.ofNat 8 (x / 2 ^ (8 * j))

/-- Byte j of a register after `size` bytes of data are written at `off` (19_device R397). -/
def byteAfter (old : Nat → Byte) (off size data j : Nat) : Byte :=
  if off ≤ j ∧ j < off + size then byteOf data (j - off) else old j

/-- The sizes of a host write, aligned to themselves. -/
def writeSize (off size : Nat) : Prop := (size = 1 ∨ size = 2 ∨ size = 4 ∨ size = 8) ∧ off % size = 0

/-- Nothing but one link port, and what a change of state sets, has changed (18_link R360, R369). -/
def PortOnly (s t : State) (p : Nat) : Prop :=
  (∀ q, q ≠ p → t.port q = s.port q) ∧ ((t.port p).st ≠ (s.port p).st → (t.ints.stat).testBit 7 = true)
    ∧ ((t.port p).st = (s.port p).st → t.ints = s.ints) ∧ { t with ports := s.ports, ints := s.ints, sent := s.sent, sched := s.sched, pools := s.pools, tmax := s.tmax, gauge := s.gauge } = s

/-- A port changes to `x` (R360). -/
def PortBecomes (i : Instr) (s : State) (p : Nat) (x : Port) : Prop := ∃ t, exec i s = .next t ∧ t.port p = x ∧ PortOnly s t p

/-- A command of LINKCTL takes a port from some states to another; elsewhere it is ignored (R360). -/
def Commands (i : Instr) (s : State) (p : Nat) (ok : List PortSt) (f : Port → Port) : Prop :=
  PortBecomes i s p (if (s.port p).st ∈ ok then f (s.port p) else s.port p)

/-- A port with traffic (R360). -/
def carrying : List PortSt := [.up, .degraded]

/-- The module map of the home context names the requester: its module, and its context there (18_link R363, R364). -/
def mapNames (c : Ctx) (src fctx : Nat) : Prop :=
  ∃ e ∈ c.map, e.2.getLsbD 31 = true ∧ (e.2.extractLsb' 0 12).toNat = src ∧ (e.2.extractLsb' 18 6).toNat = fctx

/-- A module just reset keeps nothing but its host's memory, what has left it, its code, and the model's schedule (19_device
R376). -/
def resetOf (s : State) : State :=
  { State.reset with code := s.code, hostMem := s.hostMem, sent := s.sent, sched := { s.sched with turn := none, now := 0 } }

/-- PWRSTAT changes, and nothing else (19_device R378). -/
def withPower (s : State) (p : Power) : State := { s with pwr := p }

/-- R203, R204: call and callx push the next header's address of every lane of Active as one store and branch; a lane without
depth or room takes STACK, and a callx target that is no multiple of 4 ALIGN. -/
def CallClaim : Prop :=
  (∀ (w : CfWord) (s : State) (v : Env), Ready (.cfCall w) s v → Calls (.cfCall w) s v (fun _ => nearTarget v 19 w.pay))
  ∧ (∀ (w : CfWord) (s : State) (v : Env), Ready (.cfCallx w) s v →
    (∀ l ∈ v.lanes, (v.read (w.pay.extractLsb' 11 8) .b32 l).toNat % 4 = 0) →
    Calls (.cfCallx w) s v (fun l => v.read (w.pay.extractLsb' 11 8) .b32 l))
  ∧ (∀ (w : CfWord) (s : State) (v : Env), Ready (.cfCallx w) s v →
    (∃ l ∈ v.lanes, (v.read (w.pay.extractLsb' 11 8) .b32 l).toNat % 4 ≠ 0) →
    ∃ m, TrapsIn v (fun l => (v.read (w.pay.extractLsb' 11 8) .b32 l).toNat % 4 ≠ 0) m
      ∧ exec (.cfCallx w) s = .next ((v.at_ s).trapWord v { cause := .align, tmask := m }).tick)

/-- R202 to R204: ret reads the address of every lane of Active, the group parked until its stack load returns; a lane at
depth 0 takes STACK. When the load returns, every lane pops its address and goes there; a popped address that is no multiple
of 4 takes ALIGN, and an error of the load MEMERR, at the ret (the model's choice, log 63). -/
def ReturnClaim : Prop :=
  (∀ (w : CfWord) (s : State) (v : Env), Ready (.cfRet w) s v →
    ((∃ l ∈ v.lanes, (v.x.lane l).depth = 0) → ∃ m, TrapsIn v (fun l => (v.x.lane l).depth = 0) m
      ∧ exec (.cfRet w) s = .next ((v.at_ s).trapWord v { cause := .stack, tmask := m }).tick)
    ∧ ((∀ l ∈ v.lanes, (v.x.lane l).depth ≠ 0) → v.busy false = none → v.x.io.pend.any Pend.isFar = false →
      ∀ s' bytes (rd : Loc → Byte),
      v.check (v.at_ s) { space := 4, n := 4, align := 4, write := false } (popAccs v) = .ok s' bytes →
      (∀ b ∈ bytes, ∀ l ∈ b.2, s'.readOwn v.g l = some (rd l)) →
      ∃ t, exec (.cfRet w) s = .next t ∧ OnlyGroup v.g s' t (fun y =>
        y.regs = v.x.regs ∧ y.ctl = v.x.ctl ∧ y.stillIo = v.x.stillIo ∧ y.flow = { v.x.flow with park := some (.ret s'.sched.uid) }
          ∧ y.io = { v.x.io with pend := v.x.io.pend ++
              [{ id := s'.sched.uid, regs := [], flag := none, pc := v.cl.own, lanes := v.act
                 addr := ((popAccs v).map (·.addr)).headD 0
                 kind := .ret (bytes.map (fun b => (b.1, BitVec.ofNat 32 (ofBytes (b.2.map rd)))))
                 homes := homesOf (bytes.map (·.2)).flatten }] })))
  ∧ (∀ (s : State) (g : Nat) (x : Group) (c : Clause) (p : Pend) (ws : List (Nat × Word)) (data : List Nat),
    s.group g = some x → x.flow.park = some (.ret p.id) → x.flow.clause = some c →
    x.io.pend.find? (fun q => q.id = p.id) = some p → p.kind = .ret ws → p.flag = none →
    (∀ h ∈ p.homes, s.reaches (x.core / 320) h = true) →
    let popped (l : Nat) : Word := ((ws.find? (fun q => q.1 = l)).map (·.2)).getD c.next
    let at_ := s.setGroup g ((x.dropPend p.id).stand c .ready)
    ((∀ q ∈ ws, q.2.toNat % 4 = 0) → ∃ t y, exec (.evLoadReturn g p.id .ok data) s = .next t ∧ t.group g = some y
      ∧ y.regs = x.regs ∧ y.ctl = x.ctl ∧ y.io = (x.dropPend p.id).io ∧ y.flow.clause = none ∧ y.flow.park = none
      ∧ (∀ l < x.lanes.length, (y.lane l).pc =
          if c.lanes.has l = true ∧ (x.lane l).st ≠ .exited then popped l else (x.lane l).pc)
      ∧ (∀ l < x.lanes.length, (y.lane l).depth =
          if p.lanes.has l = true then (x.lane l).depth - 1 else (x.lane l).depth)
      ∧ (∀ h, h ≠ g → t.group h = s.group h) ∧ SameMemory s t)
    ∧ ((∃ q ∈ ws, q.1 < 64 ∧ q.2.toNat % 4 ≠ 0) →
      ∃ m : Mask, (∀ l < 64, m.has l = true ↔ ∃ q ∈ ws, q.1 = l ∧ q.2.toNat % 4 ≠ 0)
        ∧ exec (.evLoadReturn g p.id .ok data) s =
            .next (at_.takeTrap g { cause := .align, tmask := m } c.own (c.npc true) c.base c.lanes).tick)
    ∧ exec (.evLoadReturn g p.id .memerr data) s =
        .next (at_.takeTrap g { cause := .memerr, tmask := p.lanes, addr := p.addr, info := p.pc.toNat }
          c.own (c.npc true) c.base c.lanes).tick)

/-- R206: the lane pulls, bcast, lpeek and lpoke. -/
def LaneMoveClaim : Prop :=
  (∀ p ∈ pullTable, ∀ (w : TwoWord) (s : State) (v : Env), Ready (p.1 w) s v →
    WritesLanes (p.1 w) s v w.d.toNat (fun l =>
      match p.2 l (v.read w.x.c .b32 l).toNat with
      | some j => if j < v.x.w ∧ v.act.has j = true then v.read w.a .b32 j else v.read w.a .b32 l
      | none => v.read w.a .b32 l) 0)
  ∧ (∀ (w : TwoWord) (s : State) (v : Env), Ready (.xlBcast w) s v →
    WritesLanes (.xlBcast w) s v w.d.toNat (fun _ => v.read w.a .b32 ((v.uni w.x.c).toNat % v.x.w)) 0)
  ∧ (∀ (w : TwoWord) (s : State) (v : Env), Ready (.xlLpeek w) s v →
    WritesScalar (.xlLpeek w) s v w.d.toNat (v.read w.a .b32 ((v.uni w.x.c).toNat % v.x.w)) 0)
  ∧ (∀ (w : TwoWord) (s : State) (v : Env), Ready (.xlLpoke w) s v →
    ∃ t, exec (.xlLpoke w) s = .next t
      ∧ v.Only s t (fun r => r = v.x.regs.setV w.d.toNat ((v.uni w.x.c).toNat % v.x.w) (v.uni w.a)) 0)

/-- R207: votes, ballot and match over Active. -/
def VoteClaim : Prop :=
  (∀ p ∈ voteTable, ∀ (w : TwoWord) (s : State) (v : Env), Ready (p.1 w) s v →
    WritesPred (p.1 w) s v (w.d.extractLsb' 0 3).toNat (fun _ => p.2 (v.lanes.map (selected v w.a))))
  ∧ (∀ (w : TwoWord) (s : State) (v : Env), Ready (.xlBallot w) s v →
    ∃ t m, exec (.xlBallot w) s = .next t ∧ IsMask v (selected v w.a) m
      ∧ v.Only s t (WroteMasks v w.d.toNat (fun _ => m)) 0)
  ∧ (∀ (w : TwoWord) (s : State) (v : Env), Ready (.xlMatch w) s v →
    ∃ t m, exec (.xlMatch w) s = .next t
      ∧ (∀ l, IsMask v (fun k => v.read w.a .b32 k = v.read w.a .b32 l) (m l))
      ∧ v.Only s t (WroteMasks v w.d.toNat m) 0)

/-- R142, R152, R153: when every team of a Draining context has stopped the sequence ends: Retired after a RETIRE, else Faulted
after a fatal trap, else Saved, with no team of it left on a core. -/
def DrainingClaim : Prop :=
  ∀ (s : State) (k : Nat), (s.ctx k).st = .draining → (∀ e ∈ s.teams, e.2.ctx = k → e.2.st ≠ .saved →
      s.canSave e.1 (s.ctx k).retire = true) →
    ∃ t, exec (.evDrainingEnd k) s = .next t
      ∧ ((s.ctx k).retire = true → (t.ctx k).st = .retired ∧ (∀ e ∈ t.teams, e.2.ctx ≠ k) ∧ (∀ r ∈ t.records, r.2.ctx ≠ k)
          ∧ (∀ die off, (s.ctx k).d.grants (die * 2 ^ 28 + off) = true → t.readCsp die off = 0))
      ∧ ((s.ctx k).retire = false → (t.ctx k).st = (if (s.ctx k).fatal = true then .faulted else .saved)
          ∧ (∀ e ∈ t.teams, e.2.ctx = k → e.2.st = .saved)
          ∧ ((s.ctx k).fatal = true → (t.ints.stat).testBit 1 = true))
      ∧ ((s.ctx k).busy = true → (t.ctx k).busy = false ∧ (t.ints.stat).testBit 2 = true)

/-- R132: 1 in BUSY starts an invalidation where BUSY reads 0, and sets ERR and changes nothing else where it reads 1; when no
access that used a named leaf is left, every named leaf leaves every cache, the upper-level entries on the walk to the range
leave the walkers, and BUSY falls. -/
def InvalidationClaim : Prop :=
  (∀ (s u : State) (ctl : Word), Awake s u →
    (u.pginv.busy = false → ∃ t, exec (.evPginvStart ctl) s = .next t ∧ t.pginv.busy = true
      ∧ t.pginv.kind = (ctl.extractLsb' 10 2).toNat ∧ t.pginv.ctx = (ctl.extractLsb' 0 6).toNat ∧ t.pginv.va = u.pginv.va
      ∧ t.pginv.err = (u.pginv.err && !ctl.getLsbD 30)
      ∧ { t with pginv := u.pginv, sched := u.sched, pools := u.pools, tmax := u.tmax, gauge := u.gauge } = u)
    ∧ (u.pginv.busy = true →
      exec (.evPginvStart ctl) s = .next ({ u with pginv := { u.pginv with err := true } } : State).tick))
  ∧ (∀ (s : State), (s.pginv.busy = false ∨ ¬ NoUser s) → exec .evPginvComplete s = .refused .notEnabled)
  ∧ (∀ (s : State), s.pginv.busy = true → NoUser s →
    ∃ t, exec .evPginvComplete s = .next t ∧ t.pginv = { s.pginv with busy := false }
      ∧ (∀ k, Tab.get [] t.tlb k = (Tab.get [] s.tlb k).filter (fun l => !s.pginv.names l))
      ∧ (∀ d, Tab.get [] t.uppers d = (Tab.get [] s.uppers d).filter (fun u => !s.pginv.above u))
      ∧ (t.ints.stat).testBit 3 = true
      ∧ ∀ g x, s.group g = some x → ∃ y, t.group g = some y ∧ y.regs = x.regs ∧ y.ctl = x.ctl ∧ y.lanes = x.lanes)

/-- The bytes of a group's stack cache that have not been written back (05_memory R94). -/
def stackCells (x : Group) : List (Loc × Byte) := x.io.stk.map (fun e => (Loc.mem e.1 e.2.2, BitVec.ofNat 8 e.2.1))

/-- R188, R201, R228: a group whose last lane has exited and whose accesses are performed is gone, its stack lines written
back, its arrivals at cluster barriers still counted; with the last of its groups the team is Ending, and when its engine work
is done it is gone, its pending signals fired, and the last team of a record makes it Done. -/
def EndClaim : Prop :=
  (∀ (s : State) (g : Nat) (x : Group) (t : Team), s.group g = some x → s.team x.team = some t → x.on = true →
    x.flow.ended = true → x.quiet = true → ∃ u, exec (.evGroupEnd g) s = .next u ∧ u.group g = none
      ∧ (∀ h y, h ≠ g → s.group h = some y → ∃ z, u.group h = some z ∧ z.regs = y.regs ∧ z.ctl = y.ctl)
      ∧ (∃ m, u.team x.team = some m ∧ (m.st = .ending ↔ t.st = .ending ∨ ∀ e ∈ s.groups, e.2.team = x.team → e.1 = g))
      ∧ (∀ c k, (u.cluster c).bar k = (s.cluster c).bar k)
      ∧ (x.io.stk = [] → SameMemory s u) ∧ Performed g (stackCells x) s u)
  ∧ (∀ (s : State) (n : Nat) (t : Team), s.team n = some t → t.st = .ending → s.workDone n = true →
    ∃ u, exec (.evTeamEnded n) s = .next u ∧ u.team n = none ∧ (∀ e ∈ u.groups, e.2.team ≠ n)
      ∧ (∀ m, m ≠ n → u.team m = s.team m)
      ∧ (∀ a ∈ (u.ctx t.ctx).areas, a.1 = t.kern.stkArena → a.2 ∉ t.areas)
      ∧ (∀ r x, t.record = some r → Tab.find s.records r = some x →
        (x.ended + 1 < x.total → ∃ y, Tab.find u.records r = some y ∧ y.ended = x.ended + 1)
        ∧ (x.total ≤ x.ended + 1 → Tab.find u.records r = none ∧ ∀ k, recDone x.words = some k → t.cores = [] →
            Signalled s u x.ctx k 1)))

/-- R210, R211, R213: a content that is produced is held under the name that answers: that of the live indexed cell that matches
it, else of a new cell under the lowest way of its signature that no live cell of its width uses, and under none where all eight
are used; a compare that fails counts in %collide. Name 0 is that of the zero cell, the first all-zero one of its width. Entries
of the stitch table go, the least recently used first, only where the pool has no room, the room of the old cell of the register
that is written, where nothing else names it, counted in. A cell that nothing names is freed, and no other. -/
def RegisterUnitClaim : Prop :=
  (∀ (p : Pool) (w : Nat) (ws : Tab Word) (old : Option Nat), (p.cells.map (·.1)).Nodup → ∀ q n, p.place w ws old = (q, n) →
    q.words w n = ws
    ∧ ((∃ c ∈ p.cells, c.2.w = w ∧ c.2.words = ws ∧ c.2.way ≠ none) → q = p)
    ∧ ((∀ c ∈ p.cells, c.2.w = w → c.2.words = ws → c.2.way = none) → p.hasRoom w (p.spare old) = true →
        let used (k : Nat) : Prop := k ∈ p.ways w ws
        (∃ id c, Tab.find p.cells id = none ∧ Tab.find q.cells id = some c ∧ c.w = w ∧ c.words = ws
          ∧ (∀ k, c.way = some k → k < 8 ∧ ¬ used k ∧ ∀ j < k, used j) ∧ (c.way = none → ∀ k < 8, used k)
          ∧ (∀ m, m ≠ id → Tab.find q.cells m = Tab.find p.cells m)
          ∧ (ws ≠ [] → n = id + 1 ∧ q.zero = p.zero)
          ∧ (ws = [] → p.cellOf w 0 = none → n = 0 ∧ q.cellOf w 0 = some id))
        ∧ q.collide = p.collide + (if p.ways w ws = [] then 0 else 1)
        ∧ q.names = p.names ∧ q.stitch = p.stitch ∧ q.reuse = p.reuse)
    ∧ (p.hasRoom w (p.spare old) = false → q.stitch <+: p.stitch))
  ∧ (∀ (p : Pool) (id : Nat),
    let named : Prop := (∃ e ∈ p.names, e.2 = id + 1) ∨ (∃ e ∈ p.zero, e.2 = id + 1 ∧ 0 < Tab.get 0 p.zeros e.1)
      ∨ ∃ e ∈ p.stitch, id ∈ e.cells ∨ id ∈ e.res
    (named → p.freeCell id = p)
    ∧ (¬ named → Tab.find (p.freeCell id).cells id = none ∧ (∀ m, m ≠ id → Tab.find (p.freeCell id).cells m = Tab.find p.cells m)
        ∧ (p.freeCell id).names = p.names ∧ (p.freeCell id).stitch = p.stitch))

/-- R224: the oldest waiting vgrow that fits is granted: its group has the granules, q[QD] is true in the lanes that issue, and
every register below the old allocation stays; where every resident group of the core waits and no request fits, the youngest
fails. -/
def GrowthClaim : Prop :=
  (∀ (s : State) (g n : Nat) (x : Group), s.group g = some x →
    (s.core x.core).vgrowq.find? (s.growFits x.core) = some (g, n) → ∃ t y, exec (.evVgrowGrant g) s = .next t
      ∧ t.group g = some y ∧ y.alloc = x.alloc + 8 * n ∧ (∀ h ∈ (t.core x.core).vgrowq, h.1 ≠ g)
      ∧ y.regs.v = x.regs.v ∧ y.regs.s = x.regs.s ∧ y.regs.f = x.regs.f ∧ y.ctl = x.ctl ∧ y.io = x.io
      ∧ (∀ c e, x.flow.clause = some c → x.ownEnc = some e →
          y.regs = x.regs.setQ (e.t.d.toNat % 8) c.lanes c.lanes)
      ∧ (∀ h, h ≠ g → t.group h = s.group h) ∧ SameMemory s t)
  ∧ (∀ (s : State) (g n : Nat) (x : Group), s.group g = some x →
    (∀ e ∈ s.groups, e.2.on = true → e.2.core = x.core → ∃ r ∈ (s.core x.core).vgrowq, r.1 = e.1) →
    (∀ r ∈ (s.core x.core).vgrowq, s.growFits x.core r = false) → (s.core x.core).vgrowq.getLast? = some (g, n) →
    ∃ t y, exec (.evVgrowDeadlockFail g) s = .next t ∧ t.group g = some y ∧ y.alloc = x.alloc ∧ y.grans = x.grans
      ∧ (∀ h ∈ (t.core x.core).vgrowq, h.1 ≠ g)
      ∧ (∀ c e, x.flow.clause = some c → x.ownEnc = some e → y.regs = x.regs.setQ (e.t.d.toNat % 8) c.lanes 0)
      ∧ (∀ h, h ≠ g → t.group h = s.group h) ∧ SameMemory s t)

/-- R24, R25, R27, R28, R37, R191, R192: a group at a clause boundary picks ready lanes at one PC, the lowest where no round
and no step aside counts; its header is fetched and checked, its WAIT flags are tested, its words are fetched, and the clause
opens with the lanes of the pick; a fetch without a translation parks, and an illegal header raises ILL. -/
def ClauseIssueClaim : Prop :=
  (∀ (s : State) (x : Group) (p : Pick), s.preview x = some p → OnePc x p ∧ ∃ l < 64, p.lanes.has l = true)
  ∧ (∀ (s : State) (x : Group) (p : Pick) (t : Team), s.preview x = some p → s.team x.team = some t → t.kern.promise = false →
    x.flow.round = 0 → x.flow.stepAside = 0 → ∀ l < 64, l < x.w → (x.lane l).st = .ready → p.pc.toNat ≤ (x.lane l).pc.toNat)
  ∧ (∀ (s : State) (g : Nat) (x : Group) (t : Team) (p : Pick), s.group g = some x → s.team x.team = some t →
    s.preview x = some p → p.inside = false → x.mayOpen = true → x.flow.abort = none → AloneOn s g x →
    (WatchIsDue s x → exec (.evClauseIssue g) s = .refused .notEnabled)
    ∧ (¬ WatchIsDue s x →
      (∀ va, s.fetchWord (.core x.core) t.ctx p.pc = .walk va → ∃ u y, exec (.evClauseIssue g) s = .next u ∧ u.group g = some y
        ∧ y.flow.park = some (.walk va false true) ∧ y.flow.clause = none ∧ y.regs = x.regs ∧ y.lanes = x.lanes)
      ∧ (∀ s' hdr, s.fetchWord (.core x.core) t.ctx p.pc = .ok s' hdr → hdrOk hdr = false →
        exec (.evClauseIssue g) s = .next ((s'.setGroup g x).trapStart g p { cause := .ill } p.pc
          (p.pc + BitVec.ofNat 32 (4 * (hdrCount hdr + 1))) p.pc).tick)
      ∧ (∀ s' hdr, s.fetchWord (.core x.core) t.ctx p.pc = .ok s' hdr → hdrOk hdr = true →
        (x.waitMet hdr = false → exec (.evClauseIssue g) s = .refused .notEnabled)
        ∧ (∀ s'' ws, x.waitMet hdr = true →
          s'.fetchWords (.core x.core) t.ctx (p.pc + 4) (hdrCount hdr) [] = (s'', .inl ws) → structOk ws.length ws = true →
          ∃ u y, exec (.evClauseIssue g) s = .next u ∧ u.group g = some y ∧ u.sched.turn = some g
            ∧ y.flow.clause = some { base := p.pc, hdr := hdr, words := ws, pos := 1, lanes := p.lanes, port := openedPort hdr (nth 0 ws 0) }
            ∧ y.flow.park = none ∧ y.regs = x.regs ∧ y.ctl = x.ctl
            ∧ y.io = { x.io with pend := x.io.pend.filter (fun q => !(q.isBlock && (decide (p.pc.toNat < q.pc.toNat)
                && decide (q.pc.toNat ≤ p.pc.toNat + 4 * hdrCount hdr)))) }
            ∧ (∀ l < x.lanes.length, p.lanes.has l = true → (y.lane l).pc = p.pc ∧ (y.lane l).cb = p.pc ∧ (y.lane l).bypass = 0)
            ∧ (∀ h, h ≠ g → u.group h = s''.group h)))))
  ∧ (∀ (s : State) (g : Nat) (x : Group) (p : Pick), s.group g = some x → s.preview x = some p → p.inside = true →
    x.mayOpen = true → x.flow.abort = none → AloneOn s g x → ¬ WatchIsDue s x →
    ResumesAt (.evClauseIssue g) s g x p.base p.pc p.lanes false)

/-- R148, R195, R199, R200: a parked group goes on when the cause of its park has cleared and not before; a tension round
starts; a group passed over 1,024 times ranks ahead; a group whose %wdog has reached WATCH takes WATCH. -/
def GroupEventClaim : Prop :=
  (∀ (s : State) (g : Nat) (x : Group) (p : Park), s.group g = some x → x.on = true → x.flow.stop = false →
    x.io.rows = [] → x.flow.park = some p →
    let goes : Prop :=
      (x.flow.clause = none → exec (.evGroupResume g) s = .next (s.setGroup g (x.modFlow (fun f => { f with park := none }))).tick)
      ∧ (∀ cl, x.flow.clause = some cl → WatchIsDue s x → x.flow.ended = false → exec (.evGroupResume g) s = .refused .notEnabled)
      ∧ (∀ cl, x.flow.clause = some cl → ¬ WatchIsDue s x → x.flow.abort = none → AloneOn s g x →
          ResumesAt (.evGroupResume g) s g x cl.base cl.own cl.lanes cl.aside)
    let waits : Prop := exec (.evGroupResume g) s = .refused .notEnabled
    (∀ k, p = .flag k → (x.regs.getF k < 63 → goes) ∧ (63 ≤ x.regs.getF k → waits))
    ∧ (p = .storeFull → (x.io.sq.length < 32 → goes) ∧ (32 ≤ x.io.sq.length → waits))
    ∧ (p = .drain → (x.drained = true → goes) ∧ (x.drained = false → waits))
    ∧ (p = .earlierLoad → ((∀ q ∈ x.io.pend, q.isFar = false) → goes) ∧ ((∃ q ∈ x.io.pend, q.isFar = true) → waits))
    ∧ (p = .tile → ∀ cl c, x.flow.clause = some cl → s.ctxOf x = some c →
      let may : Prop := (s.acquire x.core g).isSome = true ∧ (s.core x.core).waitingOps g < 4
      (may → exec (.evGroupResume g) s = .next ((s.setGroup g (x.modFlow (fun f => { f with park := none }))).giveTurn g).tick)
      ∧ (¬ may → waits))
    ∧ (∀ ls, p = .absent ls → ((∀ l ∈ ls, s.present l.1 l.2 = true) → goes) ∧ ((∃ l ∈ ls, s.present l.1 l.2 = false) → waits))
    ∧ (∀ h n, p = .handle h n → (((s.core x.core).handle h).st.code = n → goes) ∧ (((s.core x.core).handle h).st.code ≠ n → waits))
    ∧ (∀ rs c, p = .reg rs → x.flow.clause = some c → (x.blockedBy c.own rs = [] → goes) ∧ (x.blockedBy c.own rs ≠ [] → waits))
    ∧ (∀ k c t, p = .event k t → s.ctxOf x = some c →
      ((s.counter c k - t).toNat < 2 ^ 31 → goes) ∧ (2 ^ 31 ≤ (s.counter c k - t).toNat → waits)))
  ∧ (∀ (s : State) (g : Nat) (x : Group) (t : Team), s.group g = some x → s.team x.team = some t →
    let ready := x.maskWhere (fun l => l.st = .ready)
    let due := x.maskWhere (fun l => l.st = .ready && decide (t.kern.tension ≤ l.bypass))
    t.kern.promise = true → x.mayOpen = true → x.flow.round &&& ready = 0 → due ≠ 0 → x.flow.round ≠ due →
    exec (.evTensionRound g) s = .next (s.setGroup g (x.modFlow (fun f => { f with round := due }))).tick)
  ∧ (∀ (s : State) (g port : Nat) (x : Group), s.group g = some x → x.on = true → port < 5 →
    1024 ≤ Tab.get 0 x.flow.passed port → port ∉ x.flow.ahead →
    exec (.evPortPassoverLimit g port) s = .next (s.setGroup g (x.modFlow (fun f => { f with ahead := port :: f.ahead }))).tick)
  ∧ (∀ (s : State) (g : Nat) (x : Group) (c : Nat), s.group g = some x → s.ctxOf x = some c → x.on = true → x.flow.stop = false →
    x.flow.ended = false → (∀ a b d e f, x.flow.park ≠ some (.frame a b d e f)) → x.flow.park ≠ some .fatal →
    let w := (s.ctx c).d.watch
    ((w = 0 ∨ x.wdog s.sched.now < 1024 * w) → exec (.evWatchExpiry g) s = .refused .notEnabled)
    ∧ (w ≠ 0 → 1024 * w ≤ x.wdog s.sched.now → x.flow.clause = none → ∀ p, s.preview x = some p →
      exec (.evWatchExpiry g) s =
        .next ((s.leaveWaits g x.core).takeTrap g { cause := .watch } p.base p.base p.base p.lanes).tick)
    ∧ (w ≠ 0 → 1024 * w ≤ x.wdog s.sched.now → ∀ cl, x.flow.clause = some cl → x.flow.park.isSome = true →
      (∀ va b, x.flow.park ≠ some (.walk va b false)) →
      exec (.evWatchExpiry g) s = .next (s.trapParked g x cl { cause := .watch } cl.own).tick)
    ∧ (∀ cl, x.flow.clause = some cl → (x.flow.park = none ∨ ∃ va b, x.flow.park = some (.walk va b false)) →
      exec (.evWatchExpiry g) s = .refused .notEnabled))

/-- R359 to R361: the states of a link port: what each command, the end of training, a failing lane, and the end of draining
lead to; a command that a state does not list is ignored; a resent flit counts. R12, R13: a route between dies takes bridges
that are not Down, the direct one where it is not, and with one bridge Down every die still reaches every other. -/
def LinkClaim : Prop :=
  (∀ (s : State) (p : Nat), s.pwr.trip = false → s.fw.recovery = false → p < 32 →
    Commands (.evLinkEnable p) s p [.down, .degraded, .fenced] (fun x => { x with st := .training, lanes := 0 })
    ∧ Commands (.evLinkFence p) s p carrying (fun x => { x with st := .fenced, lanes := 0 })
    ∧ Commands (.evLinkDrain p) s p carrying (fun x => { x with st := .draining })
    ∧ Commands (.evLinkDisable p) s p [.fenced] (fun x => { x with st := .down, lanes := 0 }))
  ∧ (∀ (s : State), s.fw.recovery = true → ∀ p, exec (.evLinkEnable p) s = .refused .notEnabled
    ∧ ∀ a b c d, exec (.evLinkTrainingDone p a b c d) s = .refused .notEnabled)
  ∧ (∀ (s : State) (p : Nat), p < 32 →
    ((s.port p).st ∈ carrying →
      PortBecomes (.evLinkLaneFail p) s p { s.port p with st := .training, lanes := 0 })
    ∧ ((s.port p).st ∉ carrying → exec (.evLinkLaneFail p) s = .refused .notEnabled)
    ∧ ((s.port p).st = .draining → PortBecomes (.evLinkDrainDone p) s p { s.port p with st := .down, lanes := 0 })
    ∧ ((s.port p).st ∈ .draining :: carrying →
      PortBecomes (.evFlitResend p) s p { s.port p with retry := (s.port p).retry + 1 }))
  ∧ (∀ (s : State) (p peer pp : Nat), s.pwr.trip = false → s.fw.recovery = false → p < 32 → (s.port p).st = .training →
    peer < 4096 → pp < 32 →
    PortBecomes (.evLinkTrainingDone p 8 peer pp true) s p { s.port p with st := .up, lanes := 8, peerMod := peer, peerPort := pp }
    ∧ (∀ n ∈ [2, 4], PortBecomes (.evLinkTrainingDone p n peer pp true) s p
        { s.port p with st := .degraded, lanes := n, peerMod := peer, peerPort := pp })
    ∧ (∀ n < 2, ∀ ok, PortBecomes (.evLinkTrainingDone p n peer pp ok) s p { s.port p with st := .down, lanes := 0 })
    ∧ (∀ n ∈ [2, 4, 8], PortBecomes (.evLinkTrainingDone p n peer pp false) s p { s.port p with st := .fenced, lanes := 0 }))
  ∧ (∀ (s : State) (b : Nat), s.pwr.trip = false → b < 20 → Tab.get false s.bridgeDown b = false →
    exec (.evBridgeDown b) s = .next ({ s with bridgeDown := Tab.set false s.bridgeDown b true } : State).tick)
  ∧ (∀ (s : State) (a b : Nat), a < 8 → b < 8 →
    (∀ r, s.dieRoute a b = some r → r.head? = some a ∧ r.getLast? = some b
      ∧ ∀ i x y, r[i]? = some x → r[i + 1]? = some y → s.hopUp x y = true)
    ∧ ((∀ j k, j < 20 → k < 20 → Tab.get false s.bridgeDown j = true → Tab.get false s.bridgeDown k = true → j = k) →
        s.reaches a b = true)
    ∧ (a ≠ b → (a / 4 = b / 4 ∨ a % 4 = b % 4) → s.hopUp a b = true → s.dieRoute a b = some [a, b]))

/-- R364, R367, R377: an access of another module is performed for a live context whose own map names the requester, with the
bytes at their places, and answered; else it is refused with no effect, and the recovery loader serves none. The host reads
and writes region 0 through BAR 4 of a bridge module; beyond installed capacity it reads ones. -/
def RemoteAccessClaim : Prop :=
  (∀ (s : State) (src f c a : Nat) (op : RemoteOp), s.pwr.trip = false → s.fw.recovery = false → c < 64 → src < 4096 →
    (((s.ctx c).st ∉ [CtxSt.resident, .running, .draining, .saved] ∨ ¬ mapNames (s.ctx c) src f) →
      exec (.evRemoteAccess src f c a op) s = .next (s.send (.reply src false [])).tick)
    ∧ ((s.ctx c).st ∈ [CtxSt.resident, .running, .draining, .saved] → mapNames (s.ctx c) src f →
      let die := s.homeDie c
      let va := a % 2 ^ 52
      let refusal (u : State) : Prop := exec (.evRemoteAccess src f c a op) s = .next (u.send (.reply src false [])).tick
      let performs (u : State) (ls : List Loc) (bs : List Byte) (answer : List Nat) : Prop :=
        ∃ t, exec (.evRemoteAccess src f c a op) s = .next t ∧ t.sent = .reply src true answer :: u.sent
          ∧ t = (((u.writeCells 0 (ls.zip bs)).unstitchLocs ls).send (.reply src true answer)).tick
      (∀ n k u e, op = .load n k → s.engCheck die c false false k va n = (u, e) → (∀ ls, e ≠ .ok ls) → refusal u)
      ∧ (∀ n k u ls, op = .load n k → s.engCheck die c false false k va n = (u, .ok ls) →
        exec (.evRemoteAccess src f c a op) s =
          .next (u.send (.reply src true ((u.readLocs ls).map (fun b => b.toNat)))).tick)
      ∧ (∀ bs k u e, op = .store bs k → s.engBytes die c false true k va bs.length = (u, e) → (∀ ls, e ≠ .ok ls) → refusal u)
      ∧ (∀ bs k u ls, op = .store bs k → s.engBytes die c false true k va bs.length = (u, .ok ls) →
        performs u ls (bs.map (BitVec.ofNat 8)) [])
      ∧ (∀ k ty x y u ls g, op = .atomic k ty x y → s.engBytes die c false true false va 4 = (u, .ok ls) → atomOps[k]? = some g →
        Ty.ofCode ty ∈ [Ty.i32, .n32, .b32, .f32] →
        let old : Word := BitVec.ofNat 32 (ofBytes (u.readLocs ls))
        ∃ new, AtomGives g (Ty.ofCode ty) old x y new ∧ performs u ls (toBytes 4 new.toNat) [old.toNat])
      ∧ (∀ fd n z m k x u ls, op = .reduce fd n z m k x → s.engBytes die c false true true va ((Ty.ofCode fd).width / 8) = (u, .ok ls) →
        performs u ls (toBytes ((Ty.ofCode fd).width / 8) (roundTo (Ty.ofCode fd) ⟨z, n⟩ (if m = 4 then .sr k else Rnd.ofCode m)
          (decodeRaw .f32 (reduceSum (Ty.ofCode fd) ⟨z, n⟩ (ofBytes (u.readLocs ls)) (decodeRaw .f32 x)))).1) [])))
  ∧ (∀ (s : State) (src f c a : Nat) (op : RemoteOp), s.fw.recovery = true → exec (.evRemoteAccess src f c a op) s = .refused .notEnabled)
  ∧ (∀ (s u : State) (off n : Nat), Awake s u → s.modid.bridge = true → off + n ≤ 2 ^ 39 → ∃ t bs,
    exec (.evHostMemAccess off n []) s = .next t ∧ t = (u.send (.hostData bs)).tick ∧ bs.length = n
      ∧ ∀ i < n, bs[i]? = some (if (off + i) % 2 ^ 36 + 1 ≤ s.capacity then (u.readPa (off + i) noKey).toNat else 255))
  ∧ (∀ (s u : State) (off : Nat) (ds : List Nat), Awake s u → s.modid.bridge = true → ds ≠ [] → off + ds.length ≤ 2 ^ 39 →
    ∃ t, exec (.evHostMemAccess off 0 ds) s = .next t
      ∧ (∀ i d, ds[i]? = some d → (off + i) % 2 ^ 36 + 1 ≤ s.capacity → t.readPa (off + i) noKey = BitVec.ofNat 8 d)
      ∧ (∀ a key, (a < off ∨ off + ds.length ≤ a ∨ s.capacity < a % 2 ^ 36 + 1) →
          (u.sameKey (a / 256) key = true ∨ ∀ i < ds.length, (off + i) / 256 ≠ a / 256) → t.readPa a key = u.readPa a key)
      ∧ t.groups = u.groups ∧ t.sent = u.sent)


/-- The check raises a trap for the accesses that meet a condition: its mask holds their lanes, and ADDR is the address of the
first of them (05_memory R107, 07_context R146). The walks before it leave a state of which `left` holds. -/
def CheckTraps (r : Checked) (left : State → Prop) (as : List LaneAcc) (c : Cause) (bad : LaneAcc → Bool) (info : Nat) : Prop :=
  ∃ (u : State) (m : Mask) (a : LaneAcc), left u ∧ r = .trap u { cause := c, tmask := m, addr := a.addr, info := info } ∧ as.find? bad = some a
    ∧ ∀ l < 64, m.has l = true ↔ ∃ b ∈ as, b.lane = l ∧ bad b = true

/-- A number that the bytes of a list hold at a place. -/
def numAt (bs : List Byte) (off n : Nat) : Nat := ofBytes ((bs.drop off).take n)

/-- The bytes are the trap frame of a group (07_context R146). -/
def IsFrame (bs : List Byte) (x : Group) (t : Trap) (ipc npc cbase : Word) (imask : Mask) : Prop :=
  bs.length = 1024 ∧ numAt bs 0x38 8 = t.addr % 2 ^ 64 ∧ numAt bs 0x30 8 = imask.toNat ∧ numAt bs 0x28 8 = t.tmask.toNat
    ∧ numAt bs 0x24 4 = ipc.toNat ∧ numAt bs 0x20 4 = npc.toNat ∧ numAt bs 0x1C 4 = cbase.toNat
    ∧ numAt bs 0x18 4 = t.info % 2 ^ 32 ∧ numAt bs 0x17 1 = t.cause.code ∧ numAt bs 0 23 = 0
    ∧ (∀ l < 64, numAt bs (0x040 + 4 * l) 4 = (if l < x.w then (x.lane l).pc.toNat else 0)
        ∧ numAt bs (0x140 + 4 * l) 4 = (if l < x.w then (x.lane l).mr.toNat else 0)
        ∧ numAt bs (0x240 + l) 1 = (if l < x.w then (x.lane l).st.code else 0)
        ∧ numAt bs (0x280 + 4 * l) 4 = (if l < x.w then (x.lane l).cb.toNat else 0))
    ∧ numAt bs 0x380 128 = 0

/-- The group has queued one more store, the trap frame at %tfbase through a leaf, and holds its other accesses as it did. -/
def FrameQueued (x y : Group) (l : Leaf) (t : Trap) (ipc npc cbase : Word) (imask : Mask) : Prop :=
  ∃ e cells, y.io = { x.io with sq := x.io.sq ++ [e] } ∧ e.work = .store cells ∧ e.flag = none ∧ e.far = false
    ∧ (∀ i < 1024, (cells.map (·.1))[i]? = some (Loc.mem (l.pa (x.ctl.tfbase % 2 ^ 52) + i) (pteKey l.pte)))
    ∧ IsFrame (cells.map (·.2)) x t ipc npc cbase imask

/-- An integer constant of R33: 0 to 16 at 0xC8 to 0xD8, -1 to -8 at 0xD9 to 0xE0. -/
def constInt (code : Nat) : Int := if code ≤ 0xD8 then (code : Int) - 0xC8 else 0xD8 - (code : Int)

/-- The float constants and raw patterns of R33, codes 0xE1 to 0xEF. -/
def constBits : List Word :=
  [0x3F000000, 0xBF000000, 0x3F800000, 0xBF800000, 0x40000000, 0xC0000000, 0x40800000, 0xC0800000, 0x3E800000, 0x3E22F983,
   0x7F800000, 0x7FC00000, 0x80000000, 0x7FFFFFFF, 0xFFFF0000]

/-- Every element of an operand of a type holds one number. -/
def AllElements (t : Ty) (x : Word) (n : Nat) : Prop := ∀ i < t.count, el t x i = n % 2 ^ t.width


/-- Instructions of every family with their words, from the worked encodings of the rules: 02_encoding after R46, 04_lane after
R67, R86 and R87, 05_memory after R105, 07_context after R151, 08_queue after R176, 10_group after R202 and R209, 11_register
after R224, 12_barrier after R236, 13_transfer after R258, 14_tile, 15_net after R298, 16_view, 17_ray and 18_link. -/
def workedWords : List (List Word × Instr × Nat) :=
  [([0x680401E1], .vaAddF32 ⟨0, 4, 1, 0xE1, 0⟩, 1),
   ([0x780504F0, 0x41200000], .vaMulF32 ⟨0, 5, 4, 0xF0, 0x41200000⟩, 2),
   ([0xA81306E3], .cmpFloat ⟨0, 2, 3, 6, 0xE3, 0⟩, 1),
   ([0xB0030603], .ldo ⟨0, 3, 6, false, false, 3, 0⟩, 1),
   ([0xC00A0102, 0x20903080], .vxFma ⟨9, ⟨0, 10, 1, 2, ⟨3, false, false, 1, 0⟩, 0⟩⟩, 2),
   ([0xC0070400, 0x40C9A000], .vxCvt ⟨0xC, ⟨0, 7, 4, 0, ⟨0x9A, false, false, 0, 0⟩, 0⟩⟩, 2),
   ([0xC8040200, 0x003C9002], .xlLpullXor ⟨0, 4, 2, 0, ⟨0xC9, false, false, 0, 2⟩, 0⟩, 2),
   ([0xD0058400, 0x007D0092], .mxStRel ⟨0, 5, 0x84, 0, ⟨0xD0, false, false, 1, 0x12⟩, 0⟩, 2),
   ([0xD0090401, 0x010C8101], .mxAtomAdd ⟨0, 9, 4, 1, ⟨0xC8, false, false, 2, 1⟩, 0⟩, 2),
   ([0xD80581CB], .scAddI32 ⟨5, 0x81, 0xCB, 0⟩, 1),
   ([0xE080003D], .cfBra ⟨1, 61⟩, 1),
   ([0xE0300005], .cfMeet ⟨0, 5⟩, 1),
   ([0xE8018800, 0x00003002], .enTcopy ⟨0, 1, 0x88, 0, ⟨3, false, false, 0, 2⟩, 0⟩, 2),
   ([0xE8231085, 0x04028012], .enMma ⟨0, 0x23, 0x10, 0x85, ⟨0x28, false, false, 0, 0x12⟩, 0⟩, 2),
   ([0xE8140401, 0x08007000], .enNeval ⟨0, 0x14, 4, 1, ⟨7, false, false, 0, 0⟩, 0⟩, 2),
   ([0xF0018485, 0x00002003], .gxVamp ⟨0, 1, 0x84, 0x85, ⟨2, false, false, 0, 3⟩, 0⟩, 2),
   ([0xF0140800, 0x04300000], .gxRbox ⟨0, 0x14, 8, 0, ⟨0, false, false, 0, 0⟩, 0⟩, 2),
   ([0xF8000000, 0x0C005000], .syTrap ⟨0, 0, 0, 0, ⟨5, false, false, 0, 0⟩, 0⟩, 2),
   ([0xF8038614, 0x00285010], .syTspawn ⟨0, 3, 0x86, 0x14, ⟨0x85, false, false, 0, 0x10⟩, 0⟩, 2),
   ([0xF8008500, 0x04042000], .syBsyncCluster ⟨0, 0, 0x85, 0, ⟨0x42, false, false, 0, 0⟩, 0⟩, 2),
   ([0xF8028590, 0x10000001], .syMsend ⟨0, 2, 0x85, 0x90, ⟨0, false, false, 0, 1⟩, 0⟩, 2)]

/-- A step of a state in which an event is next. -/
def EventNext (s : State) (i : Instr) (rest : List Move) : Prop :=
  let u := { s with sched := { s.sched with agenda := rest } }
  (∀ t, exec i u = .next t → step s = .next t) ∧ ((∀ t, exec i u ≠ .next t) → step s = .next u.tick)

end Sys2Proof.Claims

open Sys2Proof Sys2Proof.Machine Sys2Proof.Claims

/-- R68, R69, R83: each lane of Active writes the element-wise result of the integer, logic, shift and move operations to
v[D], and nothing else of the machine changes (frame). -/
def Obligations.IntegerResults : Prop :=
  (∀ p ∈ vaTable, ∀ (w : VaWord) (s : State) (v : Env), Ready (p.1 w) s v →
    WritesLanes (p.1 w) s v w.d.toNat (fun l => eachBits p.2.2 p.2.1 (v.read w.a p.2.1 l) (v.read w.b p.2.1 l)) 0)
  ∧ (∀ p ∈ vxTable, ∀ (w : VxWord) (s : State) (v : Env), Ready (p.1 w) s v → (tyOf w).isFloat = false →
    WritesLanes (p.1 w) s v w.w.d.toNat (fun l => eachBits p.2 (tyOf w) (v.read w.w.a (tyOf w) l) (v.read w.w.b (tyOf w) l)) 0)
  ∧ (∀ (w : VxWord) (s : State) (v : Env), Ready (.vxAdds w) s v →
    WritesLanes (.vxAdds w) s v w.w.d.toNat (fun l => eachClamped (· + ·) (tyOf w) (v.read w.w.a (tyOf w) l) (v.read w.w.b (tyOf w) l))
      (satRaised (· + ·) v (tyOf w) w.w.a w.w.b))
  ∧ (∀ (w : VxWord) (s : State) (v : Env), Ready (.vxSubs w) s v →
    WritesLanes (.vxSubs w) s v w.w.d.toNat (fun l => eachClamped (· - ·) (tyOf w) (v.read w.w.a (tyOf w) l) (v.read w.w.b (tyOf w) l))
      (satRaised (· - ·) v (tyOf w) w.w.a w.w.b))
  ∧ (∀ (w : VxWord) (s : State) (v : Env), Ready (.vxMulhi w) s v →
    WritesLanes (.vxMulhi w) s v w.w.d.toNat (fun l =>
      let a := v.read w.w.a (tyOf w) l
      let b := v.read w.w.b (tyOf w) l
      if (tyOf w).isI then (a.signExtend 64 * b.signExtend 64).extractLsb' 32 32
      else (a.zeroExtend 64 * b.zeroExtend 64).extractLsb' 32 32) 0)
  ∧ (∀ (w : VxWord) (s : State) (v : Env), Ready (.vxMad w) s v →
    WritesLanes (.vxMad w) s v w.w.d.toNat (fun l =>
      v.read w.w.a (tyOf w) l * v.read w.w.b (tyOf w) l + v.read w.w.x.c (tyOf w) l) 0)
  ∧ (∀ (w : VxWord) (s : State) (v : Env), Ready (.vxAbs w) s v → (tyOf w).isFloat = false →
    WritesLanes (.vxAbs w) s v w.w.d.toNat (fun l =>
      eachBits (fun _ _ a _ => if a.msb then -a else a) (tyOf w) (v.read w.w.a (tyOf w) l) 0) 0)
  ∧ (∀ (w : VxWord) (s : State) (v : Env), Ready (.vxNeg w) s v → (tyOf w).isFloat = false →
    WritesLanes (.vxNeg w) s v w.w.d.toNat (fun l => eachBits (fun _ _ a _ => -a) (tyOf w) (v.read w.w.a (tyOf w) l) 0) 0)

/-- R70 to R73, R82: lea, the bit fields, the funnel shifts, the bit counts and sel, lane by lane. -/
def Obligations.BitFieldResults : Prop :=
  (∀ (w : VxWord) (s : State) (v : Env), Ready (.vxLea w) s v →
    WritesLanes (.vxLea w) s v w.w.d.toNat (fun l =>
      v.read w.w.a .n32 l + (v.read w.w.b .n32 l <<< (w.w.x.mod2.extractLsb' 0 3).toNat)) 0)
  ∧ (∀ (w : VxWord) (s : State) (v : Env), Ready (.vxBfe w) s v → ∃ val,
    (∀ l, IsBfe (tyOf w).isI (v.read w.w.a (tyOf w) l) (v.read w.w.b (tyOf w) l) (val l))
      ∧ WritesLanes (.vxBfe w) s v w.w.d.toNat val 0)
  ∧ (∀ (w : VxWord) (s : State) (v : Env), Ready (.vxBfi w) s v → ∃ val,
    (∀ l, IsBfi (v.read w.w.a .b32 l) (v.read w.w.b .b32 l) (v.read w.w.x.c .b32 l) (val l))
      ∧ WritesLanes (.vxBfi w) s v w.w.d.toNat val 0)
  ∧ (∀ (w : VxWord) (s : State) (v : Env), Ready (.vxFshl w) s v → ∃ val,
    (∀ l, ∀ i < 32, (val l).getLsbD i = (v.read w.w.a .b32 l ++ v.read w.w.b .b32 l).getLsbD
        (32 + i - (v.read w.w.x.c .b32 l).toNat % 32))
      ∧ WritesLanes (.vxFshl w) s v w.w.d.toNat val 0)
  ∧ (∀ (w : VxWord) (s : State) (v : Env), Ready (.vxFshr w) s v → ∃ val,
    (∀ l, ∀ i < 32, (val l).getLsbD i = (v.read w.w.a .b32 l ++ v.read w.w.b .b32 l).getLsbD
        (i + (v.read w.w.x.c .b32 l).toNat % 32))
      ∧ WritesLanes (.vxFshr w) s v w.w.d.toNat val 0)
  ∧ (∀ (w : VxWord) (s : State) (v : Env), Ready (.vxPopc w) s v → ∃ val,
    (∀ l, IsPopc (v.read w.w.a .b32 l) (val l)) ∧ WritesLanes (.vxPopc w) s v w.w.d.toNat val 0)
  ∧ (∀ (w : VxWord) (s : State) (v : Env), Ready (.vxClz w) s v → ∃ val,
    (∀ l, IsClz (v.read w.w.a .b32 l) (val l)) ∧ WritesLanes (.vxClz w) s v w.w.d.toNat val 0)
  ∧ (∀ (w : VxWord) (s : State) (v : Env), Ready (.vxBrev w) s v → ∃ val,
    (∀ l, ∀ j < 32, (val l).getLsbD (31 - j) = (v.read w.w.a .b32 l).getLsbD j)
      ∧ WritesLanes (.vxBrev w) s v w.w.d.toNat val 0)
  ∧ (∀ (w : VxWord) (s : State) (v : Env), Ready (.vxSel w) s v →
    WritesLanes (.vxSel w) s v w.w.d.toNat (fun l =>
      if ((v.x.regs.getQ (w.w.x.mod2.extractLsb' 0 3).toNat).has l).xor (w.w.x.mod2.getLsbD 3) then v.read w.w.a .b32 l
      else v.read w.w.b .b32 l) 0)

/-- R74 to R79: the float operations round the exact result, a real number, once per element by RoundTo; min, max and clamp
order the operands as read; abs and neg act on sign bits alone; frnd rounds to an integral value; fclass classifies; a special
function rounds its value on the reals, exactly at the operands where that value is exact (at others, where the model's
700-bit evaluation cannot decide a transcendental one, the result is free: log 9). The flags of every lane of Active are
raised in %fstat. -/
def Obligations.FloatResults : Prop :=
  (∀ p ∈ floatTable, ∀ (w : VaWord) (s : State) (v : Env), Ready (p.1 w) s v →
    WritesWhere (p.1 w) s v w.d.toNat (fun l => Each .f32 (fun i =>
      p.2.2 .f32 v.fm .rne (el .f32 (v.read w.a .f32 l) i) (el .f32 (v.read w.b .f32 l) i))))
  ∧ (∀ p ∈ floatTable, ∀ (w : VxWord) (s : State) (v : Env), Ready (p.2.1 w) s v → (tyOf w).isFloat = true →
    WritesWhere (p.2.1 w) s v w.w.d.toNat (fun l => Each (tyOf w) (fun i =>
      p.2.2 (tyOf w) v.fm (modeOf w.w) (el (tyOf w) (v.read w.w.a (tyOf w) l) i) (el (tyOf w) (v.read w.w.b (tyOf w) l) i))))
  ∧ (∀ (w : VxWord) (s : State) (v : Env), Ready (.vxFma w) s v →
    WritesWhere (.vxFma w) s v w.w.d.toNat (fun l => Each (tyOf w) (fun i => FmaOf (tyOf w) v.fm (modeOf w.w)
      (el (tyOf w) (v.read w.w.a (tyOf w) l) i) (el (tyOf w) (v.read w.w.b (tyOf w) l) i)
      (el (tyOf w) (v.read w.w.x.c (tyOf w) l) i))))
  ∧ (∀ (w : VxWord) (s : State) (v : Env), Ready (.vxClamp w) s v →
    WritesWhere (.vxClamp w) s v w.w.d.toNat (fun l r =>
      let a := v.read w.w.a (tyOf w) l
      let b := v.read w.w.b (tyOf w) l
      let c := v.read w.w.x.c (tyOf w) l
      (tyOf w = .f32 → ∃ m e, GreatestOf .f32 v.fm .rne a.toNat b.toNat m ∧ LeastOf .f32 v.fm .rne m.1 c.toNat e
        ∧ r = (BitVec.ofNat 32 e.1, 0))
      ∧ (tyOf w ≠ .f32 → r = (opMin (tyOf w) 32 (opMax (tyOf w) 32 a b) c, 0))))
  ∧ (∀ (w : VxWord) (s : State) (v : Env), Ready (.vxAbs w) s v → (tyOf w).isFloat = true →
    WritesLanes (.vxAbs w) s v w.w.d.toNat (fun l =>
      eachBits (fun _ n a _ => a &&& ~~~BitVec.twoPow n (n - 1)) (tyOf w) (v.read w.w.a (tyOf w) l) 0) 0)
  ∧ (∀ (w : VxWord) (s : State) (v : Env), Ready (.vxNeg w) s v → (tyOf w).isFloat = true →
    WritesLanes (.vxNeg w) s v w.w.d.toNat (fun l =>
      eachBits (fun _ n a _ => a ^^^ BitVec.twoPow n (n - 1)) (tyOf w) (v.read w.w.a (tyOf w) l) 0) 0)
  ∧ (∀ (w : VxWord) (s : State) (v : Env), Ready (.vxFrnd w) s v →
    WritesWhere (.vxFrnd w) s v w.w.d.toNat (fun l => Each (tyOf w) (fun i =>
      IntegralIn (tyOf w) v.fm (modeOf w.w) (el (tyOf w) (v.read w.w.a (tyOf w) l) i))))
  ∧ (∀ (w : VxWord) (s : State) (v : Env), Ready (.vxFclass w) s v →
    WritesLanes (.vxFclass w) s v w.w.d.toNat (fun l =>
      put (tyOf w) ((List.range (tyOf w).count).map (fun i =>
        2 ^ classBit (tyOf w) (el (tyOf w) (v.read w.w.a (tyOf w) l) i)))) 0)
  ∧ (∀ p ∈ sfuTable, ∀ (w : VxWord) (s : State) (v : Env), Ready (p.1 w) s v →
    WritesWhere (p.1 w) s v w.w.d.toNat (fun l => Each (tyOf w) (fun i =>
      SfuOf p.2 (tyOf w) v.fm (modeOf w.w) (el (tyOf w) (v.read w.w.a (tyOf w) l) i))))

/-- R80, R81: the comparisons and the predicate operations write one bit per lane of Active to q[QD]; q0 stays true, and no
flag is raised. -/
def Obligations.PredicateResults : Prop :=
  (∀ (w : VcWord) (s : State) (v : Env), Ready (.cmpInt w) s v →
    WritesPred (.cmpInt w) s v w.qd.toNat (fun l =>
      nth (fun _ _ => false) intConds w.cond.toNat (v.read w.a .b32 l) (v.read w.b .b32 l)))
  ∧ (∀ (w : VcWord) (s : State) (v : Env), Ready (.cmpFloat w) s v →
    WritesPred (.cmpFloat w) s v w.qd.toNat (fun l =>
      floatCond .f32 v.fm w.cond.toNat (v.read w.a .f32 l).toNat (v.read w.b .f32 l).toNat))
  ∧ (∀ (w : VxWord) (s : State) (v : Env), Ready (.vxCmp w) s v →
    WritesPred (.vxCmp w) s v (w.w.d.extractLsb' 0 3).toNat (fun l =>
      let cond := (w.w.d.extractLsb' 3 4).toNat
      let a := v.read w.w.a (tyOf w) l
      let b := v.read w.w.b (tyOf w) l
      if (tyOf w).isFloat then
        floatCond (tyOf w) v.fm cond (el (tyOf w) a w.w.x.mod2.toNat) (el (tyOf w) b w.w.x.mod2.toNat)
      else nth (fun _ _ => false) intConds (if tyOf w = .n32 ∧ 2 ≤ cond then cond + 4 else cond) a b))
  ∧ (∀ (w : VxWord) (s : State) (v : Env), Ready (.vxPand w) s v →
    WritesPred (.vxPand w) s v (w.w.d.extractLsb' 0 3).toNat (fun l => selected v w.w.a l && selected v w.w.b l))
  ∧ (∀ (w : VxWord) (s : State) (v : Env), Ready (.vxPor w) s v →
    WritesPred (.vxPor w) s v (w.w.d.extractLsb' 0 3).toNat (fun l => selected v w.w.a l || selected v w.w.b l))
  ∧ (∀ (w : VxWord) (s : State) (v : Env), Ready (.vxPxor w) s v →
    WritesPred (.vxPxor w) s v (w.w.d.extractLsb' 0 3).toNat (fun l => (selected v w.w.a l).xor (selected v w.w.b l)))
  ∧ (∀ (w : VxWord) (s : State) (v : Env), Ready (.vxPnot w) s v →
    WritesPred (.vxPnot w) s v (w.w.d.extractLsb' 0 3).toNat (fun l => !selected v w.w.a l))

/-- R84, R85, R86: cvt, pack and unpack. The generator of the core advances once per issue under .sr, and cvt updates its amax
register by the sources as read, before FTZ32. That a widening raises no NX is log 20, and that the base of an 8-bit pack is
read at the 8-bit type, inline constants too, is the model's choice (log 49). -/
def Obligations.ConversionResults : Prop :=
  (∀ (w : VxWord) (s : State) (v : Env), Ready (.vxCvt w) s v →
    let f := Ty.ofCode (w.w.x.c.extractLsb' 4 4).toNat
    let src (l : Nat) : Nat := el f (v.read w.w.a f l) w.w.x.mod2.toNat
    ∃ (res : Nat → Res) (t : State),
      (∀ l, ConvertOf f (tyOf w) v.fm (cvtMode w.w (s.core v.x.core) (7 * l)) (src l) (res l))
      ∧ exec (.vxCvt w) s = .next t
      ∧ v.OnlyWith s t (v.WroteLanes w.w.d.toNat (fun l => (res l).1)) (orFlags v (fun l => (res l).2))
          (cvtCore w.w (if w.w.x.c.getLsbD 3 then some ((w.w.x.c.extractLsb' 0 3).toNat, amaxAfter v src) else none)))
  ∧ (∀ (w : VxWord) (s : State) (v : Env), Ready (.vxPack w) s v →
    let f : Ty := if (tyOf w).isFloat then .f32 else if (tyOf w).isI then .i32 else .n32
    let c := s.core v.x.core
    let h := (w.w.x.mod2.extractLsb' 0 1).toNat
    ∃ a b : Nat → Res,
      (∀ l, ConvertOf f (tyOf w) v.fm (cvtMode w.w c (7 * l)) (v.read w.w.a f l).toNat (a l))
      ∧ (∀ l, ConvertOf f (tyOf w) v.fm (cvtMode w.w c (7 * l + 16)) (v.read w.w.b f l).toNat (b l)) ∧
    let val (l : Nat) : Word :=
      if (tyOf w).width = 16 then put (tyOf w) [(a l).1.toNat, (b l).1.toNat]
      else
        let base (i : Nat) : Nat := el (tyOf w) (v.read w.w.x.c (tyOf w) l) i
        put (tyOf w) ((List.range 4).map (fun i =>
          if i = 2 * h then (a l).1.toNat else if i = 2 * h + 1 then (b l).1.toNat else base i))
    ∃ t, exec (.vxPack w) s = .next t
      ∧ v.OnlyWith s t (v.WroteLanes w.w.d.toNat val) (orFlags v (fun l => (a l).2 ||| (b l).2)) (cvtCore w.w none))
  ∧ (∀ (w : VxWord) (s : State) (v : Env), Ready (.vxUnpack w) s v →
    WritesWhere (.vxUnpack w) s v w.w.d.toNat (fun l r =>
      let x := el (tyOf w) (v.read w.w.a (tyOf w) l) w.w.x.mod2.toNat
      ((tyOf w).isFloat = true → ConvertOf (tyOf w) .f32 v.fm .rne x r)
      ∧ ((tyOf w).isFloat = false →
        r = (if (tyOf w).isI then (BitVec.ofNat (tyOf w).width x).signExtend 32 else BitVec.ofNat 32 x, 0))))

/-- R87, R88: the one-word SC operations and the SC escapes, once per issue on s registers, whatever Active holds. -/
def Obligations.ScalarResults : Prop :=
  (∀ p ∈ scTable, ∀ (w : ScWord) (s : State) (v : Env), Ready (p.1 w) s v →
    WritesScalar (p.1 w) s v w.d.toNat (p.2.2 p.2.1 32 (v.uni w.a) (v.uni w.b)) 0)
  ∧ (∀ (w : ScWord) (s : State) (v : Env), Ready (.scPopcB32 w) s v → ∃ r,
    IsPopc (v.uni w.a) r ∧ WritesScalar (.scPopcB32 w) s v w.d.toNat r 0)
  ∧ (∀ (w : ScWord) (s : State) (v : Env), Ready (.scClzB32 w) s v → ∃ r,
    IsClz (v.uni w.a) r ∧ WritesScalar (.scClzB32 w) s v w.d.toNat r 0)
  ∧ (∀ p ∈ scFloatTable, ∀ (w : ScWord) (s : State) (v : Env), Ready (p.1 w) s v →
    ∃ r, p.2 .f32 v.fm .rne (v.uni w.a).toNat (v.uni w.b).toNat r
      ∧ WritesScalar (p.1 w) s v w.d.toNat (BitVec.ofNat 32 r.1) r.2)
  ∧ (∀ (w : SxWord) (s : State) (v : Env), Ready (.scMad w) s v →
    WritesScalar (.scMad w) s v w.d.toNat (v.uni w.a * v.uni w.b + v.uni w.x.c) 0)
  ∧ (∀ (w : SxWord) (s : State) (v : Env), Ready (.scFma w) s v →
    ∃ r, FmaOf .f32 v.fm .rne (v.uni w.a).toNat (v.uni w.b).toNat (v.uni w.x.c).toNat r
      ∧ WritesScalar (.scFma w) s v w.d.toNat (BitVec.ofNat 32 r.1) r.2)
  ∧ (∀ (w : SxWord) (s : State) (v : Env), Ready (.scBfe w) s v → ∃ r,
    IsBfe (w.x.mod2.extractLsb' 0 4 = 0) (v.uni w.a) (v.uni w.b) r ∧ WritesScalar (.scBfe w) s v w.d.toNat r 0)
  ∧ (∀ (w : SxWord) (s : State) (v : Env), Ready (.scBfi w) s v → ∃ r,
    IsBfi (v.uni w.a) (v.uni w.b) (v.uni w.x.c) r ∧ WritesScalar (.scBfi w) s v w.d.toNat r 0)
  ∧ (∀ (w : SxWord) (s : State) (v : Env), Ready (.scCvt w) s v →
    let f := Ty.ofCode (w.x.c.extractLsb' 4 4).toNat
    ∃ r, ConvertOf f (Ty.ofCode (w.x.mod2.extractLsb' 0 4).toNat) v.fm (nth .rne [.rne, .rz, .ru, .rd] w.x.mod1.toNat)
        (el f (v.read w.a f 0) 0) r
      ∧ WritesScalar (.scCvt w) s v w.d.toNat r.1 r.2)
  ∧ (∀ (w : SxWord) (s : State) (v : Env), Ready (.scSel w) s v →
    WritesScalar (.scSel w) s v w.d.toNat (if v.uni w.x.c ≠ 0 then v.uni w.a else v.uni w.b) 0)


/-- R208, 03_numbers R62: reductions and scans over Active; on integers the order of combination does not matter, on .f32 it
is the fixed tree. -/
def Obligations.ReductionResults : Prop :=
  (∀ p ∈ redTable, ∀ (w : TwoWord) (s : State) (v : Env), Ready (p.1 w) s v →
    let t := Ty.ofCode (w.x.mod2.extractLsb' 0 4).toNat
    t.isFloat = false →
    WritesLanes (p.1 w) s v w.d.toNat (fun l =>
      (foldLanes (p.2 t) (fun k => v.read w.a t k) (v.lanes.filter (fun k => k < v.x.w))).getD
        (v.x.regs.getV w.d.toNat l)) 0)
  ∧ (∀ p ∈ scanTable, ∀ (w : TwoWord) (s : State) (v : Env), Ready (p.1 w) s v →
    let t := Ty.ofCode (w.x.mod2.extractLsb' 0 4).toNat
    t.isFloat = false →
    WritesLanes (p.1 w) s v w.d.toNat (fun l =>
      (foldLanes (p.2.1 t) (fun k => v.read w.a t k)
        (v.lanes.filter (fun k => k < v.x.w && if w.x.c.getLsbD 0 then k < l else k ≤ l))).getD (p.2.2 t)) 0)
  ∧ (∀ p ∈ floatRedTable, ∀ (w : TwoWord) (s : State) (v : Env), Ready (p.1 w) s v →
    Ty.ofCode (w.x.mod2.extractLsb' 0 4).toNat = .f32 →
    ∃ comb, Combines p.2.2.1 v.fm comb ∧ WritesResults (p.1 w) s v w.d.toNat (fun l =>
      (treeValue comb (leaves w v .f32 v.x.w)).getD (v.x.regs.getV w.d.toNat l, 0)))
  ∧ (∀ p ∈ floatRedTable, ∀ (w : TwoWord) (s : State) (v : Env), Ready (p.2.1 w) s v →
    Ty.ofCode (w.x.mod2.extractLsb' 0 4).toNat = .f32 →
    ∃ comb, Combines p.2.2.1 v.fm comb ∧ WritesResults (p.2.1 w) s v w.d.toNat (fun l =>
      (treeValue comb (leaves w v .f32 (if w.x.c.getLsbD 0 then l else l + 1))).getD (p.2.2.2, 0)))

/-- R203: bra, jmp, jz, jnz and brx send each issued lane to its target or to the next header, and change no register and no
byte of memory; a brx with a target that is no multiple of 4 in a lane of Active takes ALIGN instead. -/
def Obligations.BranchResults : Prop :=
  (∀ (w : CfWord) (s : State) (v : Env), Ready (.cfBra w) s v →
    Branches (.cfBra w) s v (fun l => if v.act.has l then nearTarget v 19 w.pay else v.cl.next))
  ∧ (∀ (w : CfWord) (s : State) (v : Env), Ready (.cfJmp w) s v →
    Branches (.cfJmp w) s v (fun _ => nearTarget v 19 w.pay))
  ∧ (∀ (w : CfWord) (s : State) (v : Env), Ready (.cfJz w) s v →
    Branches (.cfJz w) s v (fun _ =>
      if v.x.regs.getS (w.pay.extractLsb' 13 6).toNat = 0 then nearTarget v 13 (w.pay.extractLsb' 0 13) else v.cl.next))
  ∧ (∀ (w : CfWord) (s : State) (v : Env), Ready (.cfJnz w) s v →
    Branches (.cfJnz w) s v (fun _ =>
      if v.x.regs.getS (w.pay.extractLsb' 13 6).toNat ≠ 0 then nearTarget v 13 (w.pay.extractLsb' 0 13) else v.cl.next))
  ∧ (∀ (w : CfWord) (s : State) (v : Env), Ready (.cfBrx w) s v →
    (∀ l ∈ v.lanes, (v.read (w.pay.extractLsb' 11 8) .b32 l).toNat % 4 = 0) →
    Branches (.cfBrx w) s v (fun l => if v.act.has l then v.read (w.pay.extractLsb' 11 8) .b32 l else v.cl.next))
  ∧ (∀ (w : CfWord) (s : State) (v : Env), Ready (.cfBrx w) s v →
    (∃ l ∈ v.lanes, (v.read (w.pay.extractLsb' 11 8) .b32 l).toNat % 4 ≠ 0) →
    ∃ m, (∀ l < 64, m.has l = (v.act.has l && decide ((v.read (w.pay.extractLsb' 11 8) .b32 l).toNat % 4 ≠ 0)))
      ∧ exec (.cfBrx w) s = .next ((v.at_ s).trapWord v { cause := .align, tmask := m }).tick)

/-- R206, R207: the lane pulls, bcast, lpeek, lpoke, and the votes, ballot and match (the clauses are LaneMoveClaim and
VoteClaim). -/
def Obligations.LaneMoveAndVoteResults : Prop := LaneMoveClaim ∧ VoteClaim



/-- R193, R194, R197, R203: meet gives each lane of Active its label and applies the meeting rules: every lane of a meeting
set at its label is released, ready with a clear MR and Bypass 0, and a lane that is there before the others is held. At a
group word with a lane missing, the lanes of I wait there and the clause issue ends; it issues for every lane that has not
exited; an exit that leaves none but lanes waiting at one word makes them ready. yield marks the issued lanes and closes the
windows with rows of the group; nop does nothing; exit and kill end the lanes of Active, and where a commit would have to
wait, or the last lanes would end before the group's accesses are complete, the group parks: R201 has a group end only then,
and that its last exit or kill parks for it is the model's choice (log 63). -/
def Obligations.LaneEndResults : Prop :=
  (∀ (w : CfWord) (s : State) (v : Env), Ready (.cfMeet w) s v →
    ∃ x y, Labelled v (nearTarget v 19 w.pay) x ∧ MeetingRules x y
      ∧ exec (.cfMeet w) s = .next (v.next ((v.at_ s).setGroup v.g y)))
  ∧ (∀ (w : TwoWord) (s : State) (g : Nat) (x : Group) (c : Clause) (tm : Team),
    ∀ i ∈ [Instr.syBsync w, .syBsyncCluster w, .syBarrive w, .syBwait w, .syRsync w, .syRarrive w, .syRwait w], ∀ e, i.enc = some e →
      s.sched.turn = some g → s.group g = some x → x.flow.clause = some c → x.flow.park = none → s.team x.team = some tm →
      i.wf = true → classAllows (hdrClass c.hdr) e.major.toNat = true → e.fits x.w x.alloc = true → c.base ≠ clearWord →
      (∃ l < 64, l < x.w ∧ (x.lane l).st ≠ .exited ∧ c.lanes.has l = false
        ∧ ¬ ((x.lane l).st = .waiting ∧ (x.lane l).pc = c.own)) →
      ∃ t y, exec i s = .next t ∧ t.group g = some y ∧ y.flow.clause = none ∧ y.regs = x.regs ∧ y.ctl = x.ctl ∧ y.io = x.io
        ∧ (∀ l < 64, c.lanes.has l = true → (x.lane l).st ≠ .exited →
            (y.lane l).st = .waiting ∧ (y.lane l).pc = c.own ∧ (y.lane l).mr = (x.lane l).mr)
        ∧ (∀ h, h ≠ g → t.group h = s.group h) ∧ SameMemory s t)
  ∧ (∀ (i : Instr) (s : State) (v : Env), Ready i s v → v.e.isGroup = true →
      ∀ l < 64, l < v.x.w → (v.cl.lanes.has l = true ↔ (v.x.lane l).st ≠ .exited)
        ∧ ((v.x.lane l).st = .waiting → (v.x.lane l).pc ≠ v.cl.own))
  ∧ (∀ (w : CfWord) (s : State) (v : Env), Ready (.cfYield w) s v →
    ∃ t y, exec (.cfYield w) s = .next (v.next t) ∧ ((v.at_ s).closeFor v.g).group v.g = some y
      ∧ t = ((v.at_ s).closeFor v.g).setGroup v.g { y with flow := { y.flow with clause := some { v.cl with aside := true } } }
      ∧ ∀ k < 4, ((t.core v.x.core).win k).st = .opened → ∀ r ∈ ((t.core v.x.core).win k).rows, r.group ≠ v.g)
  ∧ (∀ (w : CfWord) (s : State) (v : Env), Ready (.cfNop w) s v →
    ∃ t, exec (.cfNop w) s = .next t ∧ v.Only s t (fun r => r = v.x.regs) 0)
  ∧ (∀ (w : CfWord) (s : State) (v : Env), Ready (.cfExit w) s v → ¬ EndWaits v →
    ∃ t y, exec (.cfExit w) s = .next t ∧ t.group v.g = some y ∧ Keeps v y ∧ y.flow.clause = none
      ∧ (∀ l < 64, l < v.x.w → ((y.lane l).st = .exited ↔ v.act.has l = true ∨ (v.x.lane l).st = .exited))
      ∧ (∀ a ∈ y.lanes, a.st = .waiting → ∃ z ∈ y.lanes, z.st ≠ .exited ∧ (z.st ≠ .waiting ∨ z.pc ≠ a.pc))
      ∧ (y.flow.ended = true ↔ ∀ l < 64, l < v.x.w → (y.lane l).st = .exited)
      ∧ (∀ h, h ≠ v.g → t.group h = s.group h) ∧ SameMemory s t)
  ∧ (∀ (w : CfWord) (s : State) (v : Env), Ready (.cfKill w) s v → ¬ EndWaits v →
    (∀ l ∈ v.lanes, (v.x.lane l).vbind = none) →
    ∃ t y, exec (.cfKill w) s = .next t ∧ t.group v.g = some y ∧ Keeps v y
      ∧ (∀ l < 64, l < v.x.w → ((y.lane l).st = .exited ↔ v.act.has l = true ∨ (v.x.lane l).st = .exited))
      ∧ (∀ h, h ≠ v.g → t.group h = s.group h) ∧ SameMemory s t)
  ∧ (∀ (w : CfWord) (s : State) (v : Env), Ready (.cfKill w) s v → ¬ EndWaits v → v.busy true = none →
    ∀ s' bytes, (v.lanes.filterMap (fun l => (v.x.lane l).vbind.map (fun a => (⟨l, a⟩ : LaneAcc)))) ≠ [] →
    v.check (v.at_ s) { space := 1, n := 4, align := 4, write := true, atomic := true }
      (v.lanes.filterMap (fun l => (v.x.lane l).vbind.map (fun a => (⟨l, a⟩ : LaneAcc)))) = .ok s' bytes →
    ∃ t y e, exec (.cfKill w) s = .next t ∧ t.group v.g = some y ∧ Keeps v y
      ∧ (∀ l < 64, l < v.x.w → ((y.lane l).st = .exited ↔ v.act.has l = true ∨ (v.x.lane l).st = .exited))
      ∧ y.io.sq = v.x.io.sq ++ [e]
      ∧ e.work = .atomic .or .b32 (bytes.filterMap (fun b => b.2.head?.map (fun l => ⟨b.1, l, 0x40000000, 0⟩))) none
      ∧ (∀ h, h ≠ v.g → t.group h = s'.group h) ∧ SameMemory s' t)
  ∧ (∀ (w : CfWord) (s : State) (v : Env), Ready (.cfExit w) s v → EndWaits v →
    exec (.cfExit w) s = .next ((v.at_ s).parkAt v.g .drain).tick)
  ∧ (∀ (w : CfWord) (s : State) (v : Env), Ready (.cfKill w) s v → EndWaits v →
    exec (.cfKill w) s = .next ((v.at_ s).parkAt v.g .drain).tick)

/-- R100 to R104, R107: the loads; sld makes its one access with no lane in Active too. The value of a load of this module is
the one that memory holds when it issues (the model's choice, log 3). -/
def Obligations.LoadResults : Prop :=
  (∀ (w : ShortMem) (s : State) (v : Env), Ready (.ldo w) s v →
    Loads (.ldo w) s v { space := if w.sp then 1 else 0, n := 4, align := 4, write := false } (fourByte 1 (fun _ => .v w.r.toNat))
      false false (shortAccs w v))
  ∧ (∀ (w : TwoWord) (s : State) (v : Env), Ready (.mxLd w) s v →
    Loads (.mxLd w) s v { space := spaceOf w, n := tySize w, align := tySize w, write := false } (onePiece w (.v w.d.toNat))
      false false (mxAccs w v))
  ∧ (∀ (w : TwoWord) (s : State) (v : Env), Ready (.mxLdRo w) s v →
    Loads (.mxLdRo w) s v { space := spaceOf w, n := tySize w, align := tySize w, write := false }
      (onePiece w (.v w.d.toNat)) false false (mxAccs w v))
  ∧ (∀ (w : TwoWord) (s : State) (v : Env), Ready (.mxLdAcq w) s v →
    Loads (.mxLdAcq w) s v { space := spaceOf w, n := tySize w, align := tySize w, write := false }
      (onePiece w (.v w.d.toNat)) true false (mxAccs w v))
  ∧ (∀ (w : TwoWord) (s : State) (v : Env), Ready (.mxLdX2 w) s v →
    Loads (.mxLdX2 w) s v { space := spaceOf w, n := 8, align := 8, write := false }
      (fourByte 2 (fun j => .v (w.d.toNat + j))) false false (mxAccs w v))
  ∧ (∀ (w : TwoWord) (s : State) (v : Env), Ready (.mxLdX4 w) s v →
    Loads (.mxLdX4 w) s v { space := spaceOf w, n := 16, align := 16, write := false }
      (fourByte 4 (fun j => .v (w.d.toNat + j))) false false (mxAccs w v))
  ∧ (∀ (w : TwoWord) (s : State) (v : Env), Ready (.mxLdmx w) s v →
    let n : Nat := if Ty.ofCode (w.x.mod2.extractLsb' 0 4).toNat = .mx4 then 4 else 8
    Loads (.mxLdmx w) s v { space := spaceOf w, n := 4 * n + 1, align := 1, write := false }
      (fourByte n (fun j => .v (w.d.toNat + j)) ++ [⟨.v w.b.toNat, 4 * n, 1, .n8, some (w.x.c.toNat % 4)⟩]) false false
      (v.accs (spaceOf w) (fun _ => 0)))
  ∧ (∀ (w : TwoWord) (s : State) (v : Env), Ready (.mxSld w) s v →
    Loads (.mxSld w) s v { space := spaceOf w, n := tySize w, align := tySize w, write := false }
      (onePiece w (.s w.d.toNat)) false true (scalarAccs w v))

/-- R97, R100 to R102, R107: the stores enter the store queue with the bytes they give each place; sst makes its one access with
no lane in Active too. -/
def Obligations.StoreResults : Prop :=
  (∀ (w : ShortMem) (s : State) (v : Env), Ready (.sto w) s v →
    Stores (.sto w) s v { space := if w.sp then 1 else 0, n := 4, align := 4, write := true } false false (shortAccs w v)
      (fun l => toBytes 4 (v.x.regs.getV w.r.toNat l).toNat))
  ∧ (∀ (w : TwoWord) (s : State) (v : Env), Ready (.mxSt w) s v →
    Stores (.mxSt w) s v { space := spaceOf w, n := tySize w, align := tySize w, write := true } false false (mxAccs w v)
      (fun l => toBytes (tySize w) (v.x.regs.getV w.d.toNat l).toNat))
  ∧ (∀ (w : TwoWord) (s : State) (v : Env), Ready (.mxStRel w) s v →
    Stores (.mxStRel w) s v { space := spaceOf w, n := tySize w, align := tySize w, write := true } true false (mxAccs w v)
      (fun l => toBytes (tySize w) (v.x.regs.getV w.d.toNat l).toNat))
  ∧ (∀ (w : TwoWord) (s : State) (v : Env), Ready (.mxStX2 w) s v →
    Stores (.mxStX2 w) s v { space := spaceOf w, n := 8, align := 8, write := true } false false (mxAccs w v)
      (fun l => ((List.range 2).map (fun j => toBytes 4 (v.x.regs.getV (w.d.toNat + j) l).toNat)).flatten))
  ∧ (∀ (w : TwoWord) (s : State) (v : Env), Ready (.mxStX4 w) s v →
    Stores (.mxStX4 w) s v { space := spaceOf w, n := 16, align := 16, write := true } false false (mxAccs w v)
      (fun l => ((List.range 4).map (fun j => toBytes 4 (v.x.regs.getV (w.d.toNat + j) l).toNat)).flatten))
  ∧ (∀ (w : TwoWord) (s : State) (v : Env), Ready (.mxSst w) s v →
    Stores (.mxSst w) s v { space := spaceOf w, n := tySize w, align := tySize w, write := true } false true (scalarAccs w v)
      (fun _ => toBytes (tySize w) (v.x.regs.getS w.d.toNat).toNat))

/-- R97, R108, R109: an atomic enters the store queue with each lane's place and operands, and its destination is pending;
nothing of memory changes at issue. -/
def Obligations.AtomicResults : Prop :=
  ∀ p ∈ atomTable, ∀ (w : TwoWord) (s : State) (v : Env), Ready (p.1 w) s v →
    let k : AccKind := { space := spaceOf w, n := 4, align := 4, write := true, atomic := true, sys := w.x.mod1 = 4 }
    let as := atomAccs w p.2 v
    (as = [] → ∃ t, exec (p.1 w) s = .next t ∧ v.Only s t (fun r => r = v.x.regs) 0)
    ∧ (as ≠ [] → v.busy true = none → ∀ s' bytes, v.check (v.at_ s) k as = .ok s' bytes →
      ∃ t, exec (p.1 w) s = .next t ∧ OnlyGroup v.g s' t (v.Enters (atomIo w p.2 v s' k s'.sched.uid bytes)))
    ∧ (as ≠ [] → v.busy true = none → Granted v (v.at_ s) k as →
      Issued (p.1 w) s v (atomIo w p.2 v (v.at_ s) k s.sched.uid (placesOf v (v.at_ s) k as)))

/-- R105, R106, R114: fence takes effect when every earlier access of the group is performed, else the group parks; pref
changes no register but its flag, and of the memories only A of leaf entries: every byte reads as before but the byte that
holds A of the entry of a leaf that the walk of one of its lines finds (06_page R128, R131), in which no other bit changes. It
is in flight while a line that is not dropped is to arrive, and asks other modules for theirs (18_link R365). -/
def Obligations.FenceAndPrefetch : Prop :=
  (∀ (w : TwoWord) (s : State) (v : Env), Ready (.mxFence w) s v → v.x.drained = true →
    ∃ t, exec (.mxFence w) s = .next t ∧ v.Only s t (fun r => r = v.x.regs) 0)
  ∧ (∀ (w : TwoWord) (s : State) (v : Env), Ready (.mxFence w) s v → v.x.drained = false →
    exec (.mxFence w) s = .next ((v.at_ s).parkAt v.g .drain).tick)
  ∧ (∀ (w : TwoWord) (s : State) (v : Env), Ready (.mxPref w) s v →
    ∃ t y, exec (.mxPref w) s = .next t ∧ t.group v.g = some y ∧ y.regs.v = v.x.regs.v ∧ y.regs.s = v.x.regs.s
      ∧ y.regs.q = v.x.regs.q ∧ y.ctl = v.x.ctl ∧ y.stillIo = v.x.stillIo ∧ (∀ h, h ≠ v.g → t.group h = s.group h)
      ∧ (∀ core off, t.readSp core off = s.readSp core off) ∧ (∀ die off, t.readCsp die off = s.readCsp die off)
      ∧ (∀ k, t.core k = s.core k)
      ∧
      let lines := ((mxAccs w v).map (fun a => a.addr / 128 * 128)).eraseDups
      let r := prefLines v (spaceOf w) lines (v.at_ s)
      let away := r.2.filter (fun a => spaceOf w = 0 && moduleOf a ≠ 0)
      OnlyAccessed (s.ctx v.c).d.key r.1 s t
        ∧ (r.2 = [] → y.io = v.x.io ∧ y.regs = v.x.regs)
        ∧ (r.2 ≠ [] → y.regs = (v.x.count v.flag).regs ∧ y.io = { v.x.io with pend := v.x.io.pend ++
            [{ id := s.sched.uid, regs := [], flag := v.flag, pc := v.cl.own, lanes := v.act, kind := .pref
               homes := if away = [] then [] else [9] }] })
        ∧ t.sent = (s.sendLoads false ((away.map (fun a => v.locs s (spaceOf w) 128 ⟨0, a⟩)).flatten)).sent)

/-- R203, R204: what call, callx and ret push, pop and reach, and where they take STACK and ALIGN (the clauses are CallClaim and
ReturnClaim). That an error of the stack load of a ret is taken at the ret is the model's choice (log 63). -/
def Obligations.CallAndReturnResults : Prop := CallClaim ∧ ReturnClaim

/-- R244, R251, R256, R257: tcopy, tgather and tbin check their record or operands and their handle, and enter a copy
engine's queue; a record of another module is asked for and awaited at the word (the waiting there is the model's choice, log
69). -/
def Obligations.TransferIssue : Prop :=
  (∀ (w : TwoWord) (s : State) (v : Env), Ready (.enTcopy w) s v → ∀ s' bs,
    BlockRead v (v.at_ s) (v.pair w.a) 256 256 s' bs → CopyIssues (.enTcopy w) s v w false s' bs)
  ∧ (∀ (w : TwoWord) (s : State) (v : Env), Ready (.enTcopy w) s v → BlockAsked (.enTcopy w) s v (v.pair w.a) 256 256)
  ∧ (∀ (w : TwoWord) (s : State) (v : Env), Ready (.enTgather w) s v → BlockAsked (.enTgather w) s v (v.pair w.a) 256 256)
  ∧ (∀ (w : TwoWord) (s : State) (v : Env), Ready (.enTgather w) s v → ∀ s' bs,
    BlockRead v (v.at_ s) (v.pair w.a) 256 256 s' bs →
    let r := TRec.of bs
    let n : Nat := if r.ctrl % 16 = 0 then 1 else r.ext (r.dims.length - 1)
    let list := (v.uni w.b).toNat
    list % 4 = 0 → list + 4 * n ≤ 2 ^ 19 → v.x.owns list (4 * n) = true → CopyIssues (.enTgather w) s v w true s' bs)
  ∧ (∀ (w : TwoWord) (s : State) (v : Env), Ready (.enTbin w) s v →
    let list := (v.uni w.a).toNat
    let n := (v.uni w.b).toNat
    let table := (w.x.mod2.extractLsb' 4 2).toNat
    let rowb := ((s.ctx v.c).bin v.die table).rowb
    n < 2 ^ 24 → list % 4 = 0 → list + 4 * n ≤ 2 ^ 19 → v.x.owns list (4 * n) = true →
    ∀ k, v.handleNo w.x.c.toNat = some k →
      let h := (s.core v.x.core).handle k
      (h.st = .free ∨ h.st = .filling → exec (.enTbin w) s = .next ((v.at_ s).trapWord v (v.whole .hstate)).tick)
      ∧ (h.st = .full ∨ h.st = .draining → rowb ≠ 0 → n * rowb ≤ h.size * 128 →
        TransferQueued (.enTbin w) s v (v.at_ s)
          { uid := 0, ctx := v.c, team := v.x.team, group := v.g, core := v.x.core, pc := v.cl.own, lanes := v.act, op := .bin
            hnum := w.x.c.toNat, handle := some k, base := h.base * 128, list := list, rows := n, table := table }
          (w.x.mod2.extractLsb' 0 3).toNat false (w.x.mod2.getLsbD 3)))

/-- R249, R250, R258: the buffer-handle instructions, on a handle below HNDL; one at or above it takes HSTATE. -/
def Obligations.HandleResults : Prop :=
  (∀ (w : TwoWord) (s : State) (v : Env), v.handleNo w.x.c.toNat = none →
    ∀ i ∈ [Instr.enHbind w, .enHwait w, .enHstate w, .enHrel w, .enHsig w], Ready i s v →
      exec i s = .next ((v.at_ s).trapWord v (v.whole .hstate)).tick)
  ∧ (∀ (w : TwoWord) (s : State) (v : Env) (k : Nat), v.handleNo w.x.c.toNat = some k →
    let h := (s.core v.x.core).handle k
    let r := v.uni w.a
    let base := (r.extractLsb' 0 12).toNat
    let size := (r.extractLsb' 12 13).toNat
    (Ready (.enHbind w) s v → h.st ≠ .free → exec (.enHbind w) s = .next ((v.at_ s).trapWord v (v.whole .hstate)).tick)
    ∧ (Ready (.enHbind w) s v → h.st = .free → r.toNat < 2 ^ 25 → size ≠ 0 → v.rangeOk base size = true → base + size ≤ 4096 →
      ∃ t y, exec (.enHbind w) s = .next t
        ∧ (t.core v.x.core).handle k = { h with
            base := base, size := size, err := false, keep := false, st := if w.x.mod2.getLsbD 0 then .filling else .full }
        ∧ (∀ core, ∀ line < 4096, t.present core line =
            if core = v.x.core ∧ w.x.mod2.getLsbD 0 = true ∧ base ≤ line ∧ line < base + size then false
            else s.present core line)
        ∧ (∀ core off, t.readSp core off = s.readSp core off)
        ∧ t.group v.g = some y ∧ y.regs = v.x.regs ∧ y.ctl = v.x.ctl ∧ y.still = v.x.still ∧ OthersRegs v.g s t)
    ∧ (Ready (.enHwait w) s v → h.st.code = w.x.mod2.toNat →
      ∃ t, exec (.enHwait w) s = .next t ∧ v.Only s t (fun r => r = v.x.regs) 0)
    ∧ (Ready (.enHwait w) s v → h.st.code ≠ w.x.mod2.toNat →
      exec (.enHwait w) s = .next ((v.at_ s).parkAt v.g (.handle k w.x.mod2.toNat)).tick)
    ∧ (Ready (.enHstate w) s v → WritesScalar (.enHstate w) s v w.d.toNat
        (fields [(2, h.st.code), (1, h.err.toNat), (1, h.keep.toNat), (3, 0), (13, h.size), (12, h.base)]) 0)
    ∧ (Ready (.enHrel w) s v → h.st = .full ∨ (h.st = .filling ∧ h.fills = 0) →
      ∃ t y, exec (.enHrel w) s = .next t
        ∧ (t.core v.x.core).handle k = { h with st := .free, keep := false, sig := none }
        ∧ (∀ c e, t.counter c e = s.counter c e + if h.sig = some (c, e) then 1 else 0)
        ∧ t.group v.g = some y ∧ y.regs = v.x.regs ∧ y.ctl = v.x.ctl ∧ y.still = v.x.still ∧ OthersRegs v.g s t
        ∧ SameMemory s t)
    ∧ (Ready (.enHrel w) s v → ¬ (h.st = .full ∨ (h.st = .filling ∧ h.fills = 0)) →
      exec (.enHrel w) s = .next ((v.at_ s).trapWord v (v.whole .hstate)).tick)
    ∧ (Ready (.enHsig w) s v → 255 < r.toNat → exec (.enHsig w) s = .next ((v.at_ s).trapWord v (v.whole .prot)).tick)
    ∧ (Ready (.enHsig w) s v → r.toNat ≤ 255 →
      ∃ t, exec (.enHsig w) s = .next t ∧ Answered v h.sig.isNone s t
        ∧ (t.core v.x.core).handle k = if h.sig.isSome then h else { h with sig := some (v.c, r.toNat) }))

/-- R245, R247, R258: codebook slots and bin tables; a record of another module is asked for and awaited at the word (log 69).
-/
def Obligations.CodebookAndBinResults : Prop :=
  (∀ (w : TwoWord) (s : State) (v : Env), Ready (.enCbload w) s v → ∀ s' bs,
    BlockRead v (v.at_ s) (v.pair w.a) 512 64 s' bs →
    let k := (w.x.c.extractLsb' 0 4).toNat
    let fmt := (w.x.c.extractLsb' 4 4).toNat
    let b := s'.book v.die k
    let data := (List.range 256).map (fun j => ofBytes ((bs.drop (2 * j)).take 2))
    ((∃ o, b.owner = some o ∧ o ≠ v.c) → exec (.enCbload w) s = .next (s'.trapWord v (v.whole .prot)).tick)
    ∧ ((∀ o, b.owner = some o → o = v.c) → ∃ t, exec (.enCbload w) s = .next t ∧ Answered v b.shadow.isNone s' t
      ∧ t.book v.die k =
          if b.shadow.isSome then b
          else if s'.inFlight v.die k = 0 then { b with live := data, fmt := fmt, gen := (b.gen + 1) % 4096, owner := some v.c }
          else { b with shadow := some (data, fmt), owner := some v.c }))
  ∧ (∀ (w : TwoWord) (s : State) (v : Env), Ready (.enCbload w) s v → BlockAsked (.enCbload w) s v (v.pair w.a) 512 64)
  ∧ (∀ (w : TwoWord) (s : State) (v : Env), Ready (.enCbstat w) s v →
    let k := (w.x.c.extractLsb' 0 4).toNat
    let b := s.book v.die k
    WritesScalar (.enCbstat w) s v w.d.toNat
      (fields [(1, b.shadow.isSome.toNat), (1, (b.owner == some v.c).toNat), (4, b.fmt), (14, s.inFlight v.die k), (12, b.gen)]) 0)
  ∧ (∀ (w : TwoWord) (s : State) (v : Env), Ready (.enBinrd w) s v →
    let x := (v.uni w.a).toNat
    let b := (s.ctx v.c).bin v.die (w.x.c.extractLsb' 0 2).toNat
    (0x102 < x → exec (.enBinrd w) s = .next ((v.at_ s).trapWord v (v.whole .prot)).tick)
    ∧ (x ≤ 0x102 → WritesScalar (.enBinrd w) s v w.d.toNat (BitVec.ofNat 32
        (if x < 0x100 then (Tab.get (0, 0, 0) b.entries x).2.2 else if x = 0x100 then b.ovf.2.2
         else if x = 0x101 then b.rowb else b.drops)) 0))
  ∧ (∀ (w : TwoWord) (s : State) (v : Env), Ready (.enBinset w) s v →
    let x := (v.uni w.a).toNat
    let word (j : Nat) : Nat := (v.x.regs.getS (w.b.toNat - 0x80 + j)).toNat
    let base := word 0 + 2 ^ 32 * word 1
    let table := (w.x.c.extractLsb' 0 2).toNat
    let b := (s.ctx v.c).bin v.die table
    let bad : Prop := 0x102 < x ∨ (x ≤ 0x100 ∧ (base % 16 ≠ 0 ∨ 2 ^ 24 < word 2 ∨ word 3 ≠ 0))
      ∨ (x = 0x101 ∧ (word 0 % 16 ≠ 0 ∨ 65520 < word 0))
    (bad → exec (.enBinset w) s = .next ((v.at_ s).trapWord v (v.whole .prot)).tick)
    ∧ (¬ bad → s.binBusy v.die v.c table = true →
      exec (.enBinset w) s = .next (v.next ((v.at_ s).setPred v false)))
    ∧ (¬ bad → s.binBusy v.die v.c table = false →
      ∃ t, exec (.enBinset w) s = .next t ∧ Answered v true s t ∧
        let b' := (t.ctx v.c).bin v.die table
        (Tab.wf (0, 0, 0) b.entries = true → ∀ e, Tab.get (0, 0, 0) b'.entries e =
          if e = x ∧ x < 0x100 then (base, word 2, 0)
          else let o := Tab.get (0, 0, 0) b.entries e
            if x = 0x101 then (o.1, o.2.1, 0) else o)
        ∧ b'.ovf = (if x = 0x100 then (base, word 2, 0) else if x = 0x101 then (b.ovf.1, b.ovf.2.1, 0) else b.ovf)
        ∧ b'.rowb = (if x = 0x101 then word 0 else b.rowb) ∧ b'.drops = (if 0x100 < x then 0 else b.drops)))

/-- R260 to R263, R275, R276: a tile instruction whose tiles are below ACC waits for the engine, then issues its operation
with its sources captured. -/
def Obligations.TileIssue : Prop :=
  (∀ p ∈ tileTable, ∀ (w : TwoWord) (s : State) (v : Env), ReadyIf (p.2.1 w) (p.1 w) s v →
    (EngineFree s v → TileIssued (p.1 w) s v (v.at_ s) (p.2.2.1 w v) (p.2.2.2 w v))
    ∧ (¬ EngineFree s v → exec (p.1 w) s = .next ((v.at_ s).parkAt v.g .tile).tick))
  ∧ (∀ (w : TwoWord) (s : State) (v : Env), EngineFree s v →
    (ReadyIf (fun v _ => decide (v.x.tiles ≤ w.b.toNat)) (.enTset w) s v → sliceNo w v ≤ 31 →
      TileIssued (.enTset w) s v (v.at_ s) [] (.put (v.x.tile0 + w.b.toNat) (w.x.mod2.getLsbD 0) (sliceNo w v)
        (sliceOf v.x.regs v.x.w w.d.toNat)))
    ∧ (ReadyIf (fun v _ => decide (v.x.tiles ≤ w.b.toNat)) (.enTget w) s v → sliceNo w v ≤ 31 →
      TileIssued (.enTget w) s v (v.at_ s) (tgetRegs w v) (.get (v.x.tile0 + w.b.toNat) (w.x.mod2.getLsbD 0) (sliceNo w v) w.d.toNat)))
  ∧ (∀ (w : TwoWord) (s : State) (v : Env), ReadyIf (fun v _ => decide (v.x.tiles ≤ w.d.toNat)) (.enSxsel w) s v →
    let e := (v.uni w.a).toInt
    ((e < -127 ∨ 127 < e) → exec (.enSxsel w) s = .next ((v.at_ s).trapWord v (v.whole .prot)).tick)
    ∧ (-127 ≤ e → e ≤ 127 → ∃ t, exec (.enSxsel w) s = .next t
      ∧ v.OnlyWith s t (fun r => r = v.x.regs) 0 (fun a b =>
          { b with sx := [] } = { a with sx := [] }
            ∧ ∀ k, Tab.get 0 b.sx k = if k = v.x.tile0 + w.d.toNat then e else Tab.get 0 a.sx k)))

/-- R268, R270 to R273, R277 to R279: operand maps, mma and tdrain. -/
def Obligations.MatrixIssue : Prop :=
  (∀ (w : TwoWord) (s : State) (v : Env), Ready (.enOmap w) s v →
    let base := v.uni w.a
    let stride := (v.uni w.b).toNat
    let h := w.x.mod2.getLsbD 6
    let no := (w.d.extractLsb' 5 2).toNat
    let reserved : Bool := (if h then (base.extractLsb' 19 7).toNat else (base.extractLsb' 19 13).toNat) ≠ 0
    let new (lock : Nat) : OMap := { fmt := (w.x.mod2.extractLsb' 0 4).toNat, t := w.x.mod2.getLsbD 4
                                     sc := w.x.mod2.getLsbD 5, h := h, base := base.toNat, stride := stride, lock := lock }
    ((reserved = true ∨ 0x7FFFF < stride) → exec (.enOmap w) s = .next ((v.at_ s).trapWord v (v.whole .prot)).tick)
    ∧ (reserved = false → stride ≤ 0x7FFFF → Tab.get none v.x.io.maps no = none → (s.core v.x.core).freeLocks = [] →
      exec (.enOmap w) s = .next (v.next ((v.at_ s).setPred v false)))
    ∧ (reserved = false → stride ≤ 0x7FFFF → ∀ lock,
      (Tab.get none v.x.io.maps no).map (·.lock) = some lock
        ∨ (Tab.get none v.x.io.maps no = none ∧ (s.core v.x.core).freeLocks.head? = some lock) →
      ∃ t y, exec (.enOmap w) s = .next t ∧ t.group v.g = some y ∧ PredIs v true y.regs ∧ y.ctl = v.x.ctl
        ∧ y.stillIo = v.x.stillIo
        ∧ (∀ m, Tab.get none y.io.maps m = if m = no then some (new lock) else Tab.get none v.x.io.maps m)
        ∧ y.io = { v.x.io with maps := y.io.maps } ∧ (∀ g, g ≠ v.g → t.group g = s.group g) ∧ SameMemory s t))
  ∧ (∀ (w : TwoWord) (s : State) (v : Env), Ready (.enOmapRel w) s v →
    let no := (w.d.extractLsb' 5 2).toNat
    ∃ t y, exec (.enOmapRel w) s = .next t ∧ t.group v.g = some y ∧ y.regs = v.x.regs ∧ y.ctl = v.x.ctl
      ∧ y.stillIo = v.x.stillIo
      ∧ (∀ m, Tab.get none y.io.maps m = if m = no then none else Tab.get none v.x.io.maps m)
      ∧ y.io = { v.x.io with maps := y.io.maps } ∧ (∀ g, g ≠ v.g → t.group g = s.group g) ∧ SameMemory s t)
  ∧ (∀ (w : TwoWord) (s : State) (v : Env), ReadyIf (mmaIll w) (.enMma w) s v → EngineFree s v →
    let af := afmtOf (w.x.mod2.extractLsb' 3 3).toNat
    let k0 := (v.uni w.b).toNat
    ∀ m, Tab.get none v.x.io.maps (w.d.extractLsb' 5 2).toNat = some m → ∀ (base : Nat) (inside : Nat → Prop),
    MapPlace s v m base inside →
    mmaPair af (Ty.ofCode m.fmt) = true → k0 % kStep af = 0 → (af = .bf16 → base % 2 = 0 ∧ m.stride % 2 = 0) →
    (∀ o ∈ m.offsets base k0, v.x.owns o 1 = true ∧ inside o) →
    TileIssued (.enMma w) s v (v.at_ s) []
      (.mma (v.x.tile0 + w.d.toNat % 32) af (w.x.mod2.getLsbD 2) (codesOf af (fragment v.x.regs v.x.w w.a.toNat))
        (if m.sc then ((List.range 32).map (fun i => (List.range (stepBlocks af)).map (fun q =>
          scaleByte v.x.regs v.x.w w.x.c.toNat (w.x.mod2.toNat % 4) af i q))).flatten else []) m base k0))
  ∧ (∀ (w : TwoWord) (s : State) (v : Env), ReadyIf (mmaIll w) (.enMma w) s v → EngineFree s v →
    Tab.get none v.x.io.maps (w.d.extractLsb' 5 2).toNat = none →
    ∃ t u, exec (.enMma w) s = .next (t.trapWord v (v.whole .prot)).tick ∧ t = (v.at_ s).setCore v.x.core u
      ∧ u = { s.core v.x.core with holder := some (.group v.g), leaseUsed := u.leaseUsed, leased := u.leased, lastTile := s.sched.now })
  ∧ (∀ (w : TwoWord) (s : State) (v : Env), ReadyIf (fun v _ => decide (v.x.tiles ≤ w.x.c.toNat % 32)) (.enTdrain w) s v →
    EngineFree s v →
    let fd := Ty.ofCode (w.x.mod2.extractLsb' 0 4).toNat
    let sp := w.x.mod2.getLsbD 4
    let blk := w.x.c.getLsbD 7
    let n := 4 * fd.width + (if blk then 1 else 0)
    let addr := if sp then (v.uni w.a).toNat else v.pair w.a
    let stride := (v.uni w.b).toNat
    let align : Nat := if fd = .f32 then 4 else if fd = .f16 ∨ fd = .bf16 then 2 else 1
    addr % align = 0 → stride % align = 0 → n ≤ stride → stride < 2 ^ 24 →
    let rows : List LaneAcc :=
      (List.range 32).map (fun (o : Nat) => ⟨o, if sp then addr + o * stride else addOff addr (o * stride : Nat)⟩)
    let space : Nat := if sp then 1 else 0
    ∀ u s' bytes,
      (v.at_ s).acquire v.x.core v.g = some u →
      v.check ((v.at_ s).setCore v.x.core u) { space := space, n := n, align := 1, write := true, locks := false, rows := true }
        rows = .ok s' bytes →
      let lock : Lock := ⟨if sp then .sp else .glob, addr, addr + 31 * stride + n, true, s'.sched.uid, []⟩
      ((s'.core v.x.core).enterLocks [lock] = none →
        exec (.enTdrain w) s = .next (v.next (s'.setPred v false)) ∧ SameMemory s' (v.next (s'.setPred v false)))
      ∧ (∀ c1, (s'.core v.x.core).enterLocks [lock] = some c1 →
        ∀ s2, v.dirtyAll (pagesOf (rows.map (v.x.vas space n)).flatten) s' = (s2, none) →
        let tile := v.x.tile0 + w.x.c.toNat % 32
        let work : TileWork := .drain
          { tile := tile, fd := fd, rnd := w.x.mod1.toNat
            am := if w.d.getLsbD 3 then some (w.d.extractLsb' 4 3).toNat else none, tr := w.x.c.getLsbD 5
            z := w.x.c.getLsbD 6, blk := blk, sx := Tab.get 0 (s.core v.x.core).sx tile, addr := addr, rows := bytes.map (·.2)
            via := v.via s2 (rows.map (v.x.vas space n)).flatten }
        ∃ t y, exec (.enTdrain w) s = .next t ∧ (t.core v.x.core).locks = c1.locks
          ∧ (t.core v.x.core).tileq = (s.core v.x.core).tileq ++
              [{ uid := s'.sched.uid, group := v.g, team := v.x.team, fm := v.fm, lanes := v.act, pc := v.cl.own
                 cbase := v.cl.base, work := work }]
          ∧ t.group v.g = some y ∧ y.regs = ((v.x.count v.flag).regs).setQ v.qd v.act v.act
          ∧ y.io = { v.x.io with pend := v.x.io.pend ++ [enginePend v s'.sched.uid []] }
          ∧ (∀ h, h ≠ v.g → t.group h = s.group h) ∧ SameMemory s2 t))

/-- R283 to R289, R295, R298, R299, R302, R303: neval is served by the stitch table or enters its rows into gather windows,
nflush closes those that hold rows of the group, actload and nbind load a table and a network, nstat reads a handle; a record of
another module is asked for and awaited at the word (log 69). -/
def Obligations.NetResults : Prop :=
  (∀ (w : TwoWord) (s : State) (v : Env), Ready (.enNeval w) s v →
    let n := w.x.c.toNat
    let bf := w.b.getLsbD 7
    let nregs := (w.b.extractLsb' 0 6).toNat + 1
    let nout := (w.x.mod2.extractLsb' 0 4).toNat + 1
    (Tab.get none (s.ctx v.c).net n = none → exec (.enNeval w) s = .next ((v.at_ s).trapWord v (v.whole .neth)).tick)
    ∧ ∀ net, Tab.get none (s.ctx v.c).net n = some net →
      let fits : Prop := nout = net.nout ∧ nregs = if bf then (net.nin + 1) / 2 else net.nin
      (¬ fits → exec (.enNeval w) s = .next ((v.at_ s).trapWord v (v.whole .neth)).tick)
      ∧ (fits → v.act ≠ 0 → ∀ o, NevalHit s v net = some o → ∃ u : State, exec (.enNeval w) s = .next u.tick
          ∧ (u.pool v.x.core).reuse = (s.pool v.x.core).reuse + 1 ∧ (∀ k, u.core k = s.core k)
          ∧ (∃ y, u.group v.g = some y
            ∧ WroteRun v w.d.toNat nout (fun l => (List.range nout).map (fun j => BitVec.ofNat 32 (nth 0 (nth [] o.value j) l))) y.regs
            ∧ y.ctl = { v.x.ctl with fstat := v.x.ctl.fstat ||| o.flags } ∧ y.still = v.x.still)
          ∧ (∀ h, h ≠ v.g → u.group h = s.group h) ∧ SameMemory s u.tick)
      ∧ (fits → v.act ≠ 0 → NevalHit s v net = none → v.x.drained = false →
        exec (.enNeval w) s = .next ((v.at_ s).parkAt v.g .drain).tick)
      ∧ (fits → v.act = 0 → ∃ t, exec (.enNeval w) s = .next t ∧ v.Only s t (fun r => r = v.x.regs) 0)
      ∧ (fits → v.act ≠ 0 → NevalHit s v net = none → v.x.drained = true →
        ∀ op entered s0 x0, NevalStarts s v w net op entered s0 → s0.group v.g = some x0 →
        let row (l : Nat) : NetRow := { group := v.g, team := v.x.team, lane := l, input := v.netInput bf net.nin l
                                        vd := w.d.toNat, nout := nout, op := op, pc := v.cl.own }
        ∀ s1 m all, s0.enterRows v.x.core v.c n net row (v.lanes.filter (fun l => !entered.has l)) entered = (s1, m, all) →
          let waits := x0.io.nevals.filter (fun n => n.pc ≠ v.cl.own)
          let open_ : Prop := s1.rowsLeft v.x.core v.g op = true ∨ ∃ n ∈ waits, n.op = op
          (all = true → open_ → ∃ t y, exec (.enNeval w) s = .next t ∧ t.core v.x.core = s1.core v.x.core
            ∧ t.group v.g = some y ∧ y.regs = x0.regs ∧ y.ctl = v.x.ctl ∧ y.stillIo = v.x.stillIo
            ∧ y.io = { x0.io with nevals := waits } ∧ (∀ h, h ≠ v.g → t.group h = s.group h) ∧ SameMemory s t)
          ∧ (all = true → ¬ open_ → ∃ t, exec (.enNeval w) s = .next t ∧ OpDone s0 t v.g op)
          ∧ (all = false → exec (.enNeval w) s = .next ((s1.modGroup v.g (fun x => x.modIo (fun io =>
              { io with nevals := waits ++ [⟨v.cl.own, op, m⟩] }))).parkAt v.g .window).tick)))
  ∧ (∀ (w : TwoWord) (s : State) (v : Env), Ready (.enNflush w) s v →
    ∃ t y, exec (.enNflush w) s = .next t ∧ t.core v.x.core = ((v.at_ s).closeFor v.g).core v.x.core
      ∧ (∀ k < 4, ((t.core v.x.core).win k).st = .opened → ∀ r ∈ ((t.core v.x.core).win k).rows, r.group ≠ v.g)
      ∧ t.group v.g = some y ∧ y.regs = v.x.regs ∧ y.ctl = v.x.ctl ∧ y.still = v.x.still
      ∧ (∀ h, h ≠ v.g → t.group h = s.group h) ∧ SameMemory s t)
  ∧ (∀ (w : TwoWord) (s : State) (v : Env), Ready (.enActload w) s v → ∀ s' bs,
    BlockRead v (v.at_ s) (v.pair w.a) 272 16 s' bs →
    let k := (w.x.c.extractLsb' 0 3).toNat
    let a := (s'.core v.x.core).table k
    (ActBank.of bs = none → exec (.enActload w) s = .next (s'.trapWord v (v.whole .prot)).tick)
    ∧ ∀ b, ActBank.of bs = some b → ∃ t, exec (.enActload w) s = .next t ∧ Answered v a.pending.isNone s' t
      ∧ (t.core v.x.core).table k =
          if a.pending.isSome then a
          else if (s'.core v.x.core).pinned k then { a with pending := some b }
          else { live := b, pending := none, gen := (a.gen + 1) % 2 ^ 32 })
  ∧ (∀ (w : TwoWord) (s : State) (v : Env), Ready (.enActload w) s v → BlockAsked (.enActload w) s v (v.pair w.a) 272 16)
  ∧ (∀ (w : TwoWord) (s : State) (v : Env), Ready (.enNbind w) s v → v.pair w.a ≠ 0 →
    BlockAsked (.enNbind w) s v (v.pair w.a) 256 256)
  ∧ (∀ (w : TwoWord) (s : State) (v : Env), Ready (.enNbind w) s v → v.pair w.a = 0 →
    ∃ t, exec (.enNbind w) s = .next t ∧ Answered v true s t ∧ Tab.get none (t.ctx v.c).net w.x.c.toNat = none)
  ∧ (∀ (w : TwoWord) (s : State) (v : Env), Ready (.enNbind w) s v → v.pair w.a ≠ 0 → ∀ s' bs,
    BlockRead v (v.at_ s) (v.pair w.a) 256 256 s' bs →
    let r : NetRec := ⟨wordsOf bs, (nth 0 (wordsOf bs) 28).toNat⟩
    let same : Bool := (Tab.get none (s'.ctx v.c).net w.x.c.toNat).map (·.gen) = some r.gen
    (r.valid = false → exec (.enNbind w) s = .next (s'.trapWord v (v.whole .prot)).tick)
    ∧ (r.valid = true → ∃ t, exec (.enNbind w) s = .next t ∧ Answered v (!same) s' t
      ∧ Tab.get none (t.ctx v.c).net w.x.c.toNat =
          if same then Tab.get none (s'.ctx v.c).net w.x.c.toNat else some r))
  ∧ (∀ (w : TwoWord) (s : State) (v : Env), Ready (.enNstat w) s v →
    WritesScalar (.enNstat w) s v w.d.toNat (match Tab.get none (s.ctx v.c).net w.x.c.toNat with
      | none => 0
      | some r => fields [(1, 1), (3, r.nl), (6, r.nin - 1), (4, r.nout - 1), (2, (r.word 0) / 2 ^ 16), (16, r.gen)]) 0)

/-- R305 to R319, R329, R330: vset, vopen, gazeld and vclose. -/
def Obligations.ViewSetResults : Prop :=
  (∀ (w : TwoWord) (s : State) (v : Env),
    ∀ i ∈ [Instr.gxVopen w, .gxVamp w, .gxVclose w, .gxVcov w, .gxVrec w, .gxPresent w, .gxLensmap w, .gxRlaunch w],
      Ready i s v → ((s.vset (w.x.mod2.toNat % 64)).st = .unbound ∨ (s.vset (w.x.mod2.toNat % 64)).ctx ≠ v.c) →
      exec i s = .next ((v.at_ s).trapWord v (v.whole .prot)).tick)
  ∧ (∀ (w : TwoWord) (s : State) (v : Env), Ready (.gxVset w) s v →
    let k := w.x.mod2.toNat % 64
    let x := s.vset k
    let refused : Prop := (x.st ≠ .unbound ∧ x.ctx ≠ v.c) ∨ x.st = .opened
    ((s.ctx v.c).permits 0 = false → exec (.gxVset w) s = .next ((v.at_ s).trapWord v (v.whole .priv)).tick)
    ∧ ((s.ctx v.c).permits 0 = true → refused → exec (.gxVset w) s = .next ((v.at_ s).trapWord v (v.whole .prot)).tick)
    ∧ ((s.ctx v.c).permits 0 = true → ¬ refused → v.pair w.a = 0 →
      ∃ t, exec (.gxVset w) s = .next t ∧ Answered v x.waiting.isNone s t
        ∧ t.vset k = if x.waiting.isSome ∨ x.st = .unbound then x else { x with waiting := some (0, []) })
    ∧ ((s.ctx v.c).permits 0 = true → ¬ refused → v.pair w.a ≠ 0 → ∀ s1 b1 s2 b2,
      BlockRead v (v.at_ s) (v.pair w.a) 64 64 s1 b1 →
      let nv := ofBytes (b1.take 1)
      1 ≤ nv → nv ≤ 16 → (∀ b ∈ b1.drop 1, b = 0) → BlockRead v s1 (v.pair w.a) (64 + 256 * nv) 64 s2 b2 →
      let parts := (List.range nv).map (fun j => (List.range 64).map (fun n => BitVec.ofNat 32
        (ofBytes ((b2.drop (64 + 256 * j + 4 * n)).take 4))))
      let good : Prop := parts.all viewRecOk = true ∧ s2.viewsOk v.c k (parts.map ViewRec.of) = true
      (¬ good → exec (.gxVset w) s = .next (s2.trapWord v (v.whole .prot)).tick)
      ∧ (good → ∃ t, exec (.gxVset w) s = .next t ∧ Answered v x.waiting.isNone s2 t
        ∧ t.vset k = if x.waiting.isSome then x
            else if x.st = .unbound then { st := .bound, ctx := v.c, addr := v.pair w.a, views := parts.map ViewRec.of }
            else { x with waiting := some (v.pair w.a, parts.map ViewRec.of) })))
  ∧ (∀ (w : TwoWord) (s : State) (v : Env), Ready (.gxVopen w) s v → SetIs s v (w.x.mod2.toNat % 64) [.bound, .opened, .closed] →
    let k := w.x.mod2.toNat % 64
    let x := s.vset k
    let f := (x.f + 1) % 2 ^ 32
    (x.mayOpen = false → exec (.gxVopen w) s = .next ((v.at_ s).parkAt v.g (.vopen k)).tick)
    ∧ (x.mayOpen = true → ∃ t y, exec (.gxVopen w) s = .next t
      ∧ t.vset k = { x with
          st := .opened, f := f, prev := x.cur
          cur := some ⟨f, s.sched.time, x.views.map (fun r => { vbrk := s.vBreaks r })⟩ }
      ∧ t.group v.g = some y ∧ v.WroteScalar w.d.toNat (BitVec.ofNat 32 f) y.regs ∧ y.ctl = v.x.ctl ∧ y.still = v.x.still
      ∧ (∀ h, h ≠ v.g → t.group h = s.group h) ∧ SameMemory s t))
  ∧ (∀ (w : TwoWord) (s : State) (v : Env), Ready (.gxGazeld w) s v →
    let k := w.x.c.toNat % 64
    let held : Bool := s.vsets.any (fun e => e.2.ctx = v.c && e.2.boundViews.any (fun r => r.gaze = k))
    (held = false → exec (.gxGazeld w) s = .next ((v.at_ s).trapWord v (v.whole .prot)).tick)
    ∧ (held = true → ∃ t y, exec (.gxGazeld w) s = .next t
      ∧ (t.gazeReg k).x = v.uni w.a ∧ (t.gazeReg k).y = v.uni w.b ∧ (t.gazeReg k).seq = (s.gazeReg k).seq + 1
      ∧ (∀ j, j ≠ k → t.gazeReg j = s.gazeReg j)
      ∧ t.group v.g = some y ∧ y.regs = v.x.regs ∧ y.ctl = v.x.ctl ∧ y.still = v.x.still
      ∧ (∀ h, h ≠ v.g → t.group h = s.group h) ∧ SameMemory s t))
  ∧ (∀ (w : TwoWord) (s : State) (v : Env), Ready (.gxVclose w) s v → SetIs s v (w.x.mod2.toNat % 64) [.opened] →
    let k := w.x.mod2.toNat % 64
    let n := (v.uni w.a).toNat
    let x := s.vset k
    ∀ r f, x.views[n]? = some r → x.cur = some f → (f.view n).isOpen = true → s.vampsOf v.x.core v.g k = false →
      (r.rkdesc ≠ 0 → v.x.drained = true) →
      (r.rkdesc ≠ 0 → s.room v.c 0 = false → exec (.gxVclose w) s = .next (v.next ((v.at_ s).setPred v false)))
      ∧ ((r.rkdesc = 0 ∨ s.room v.c 0 = true) → ∃ t g, exec (.gxVclose w) s = .next t ∧ Answered v true s t
        ∧ (t.vset k).cur = some g ∧ g.num = f.num ∧ (n < f.views.length → (g.view n).isOpen = false)
        ∧ (∀ m, m ≠ n → (g.view m).isOpen = (f.view m).isOpen)
        ∧ (t.vset k).st = (if g.views.all (fun y => !y.isOpen) then .closed else .opened)
        ∧ (r.rkdesc = 0 → t.records = s.records)
        ∧ (r.rkdesc ≠ 0 → ∃ q, Tab.find t.records s.sched.uid = some q ∧ q.ctx = v.c ∧ q.st = .waiting
          ∧ q.words = reconRecord k n x.f x.addr r)))

/-- R328 to R331, R350: vamp, vrec, present, lensmap and rlaunch enter the queue of the cluster's view unit. -/
def Obligations.ViewOperationIssue : Prop :=
  (∀ (w : TwoWord) (s : State) (v : Env), Ready (.gxVamp w) s v → SetIs s v (w.x.mod2.toNat % 64) [.opened] →
    let x := s.vset (w.x.mod2.toNat % 64)
    let t := v.uni w.b
    let c := (t.extractLsb' 0 7).toNat
    let b := (t.extractLsb' 8 7).toNat
    let mesh := (v.uni w.a).toNat
    t.getLsbD 7 = false → t.toNat < 2 ^ 15 → (∃ r ∈ x.views, 32 * c < r.rw ∧ 32 * b < r.rh) →
    ∀ base size s' bs, HandleRange s v w base size → RecordRead v (v.at_ s) mesh 1536 s' bs →
    (meshOk bs = true → 8192 * x.views.length ≤ size →
      ViewQueued (.gxVamp w) s v w s' true
        [(.sp, mesh, mesh + 1536, false), (.sp, base, base + 8192 * x.views.length, true)] (.vamp c b mesh base))
    ∧ ((meshOk bs = false ∨ size < 8192 * x.views.length) →
      exec (.gxVamp w) s = .next (s'.trapWord v (v.whole .prot)).tick))
  ∧ (∀ (w : TwoWord) (s : State) (v : Env), SetIs s v (w.x.mod2.toNat % 64) [.opened, .closed] →
    let x := s.vset (w.x.mod2.toNat % 64)
    let n := (v.uni w.a).toNat
    ∀ r c j f base size, x.views[n]? = some r → DisplayAt r (v.uni w.b) c j f → HandleRange s v w base size →
    (Ready (.gxVrec w) s v → ∀ num, NamedFrame x f num → 8192 ≤ size →
      ViewQueued (.gxVrec w) s v w (v.at_ s) true [(.sp, base, base + 8192, true)] (.vrec n c j num base))
    ∧ (Ready (.gxPresent w) s v → ∀ num, NamedFrame x f num → 4096 ≤ size →
      ViewQueued (.gxPresent w) s v w (v.at_ s) true [(.sp, base, base + 4096, false)] (.present n c j num base []))
    ∧ (Ready (.gxLensmap w) s v → f = 0 → 4096 ≤ size →
      let rows := (v.at_ s).lensRows v r c j
      let first := addOff r.prelens (rows.1 * r.pitch : Nat)
      ViewQueued (.gxLensmap w) s v w (v.at_ s) true
        [(.glob, first, first + (rows.2 - rows.1) * r.pitch + 4 * r.dw, false), (.sp, base, base + 4096, true)] (.lensmap n c j base))
    ∧ (Ready (.gxLensmap w) s v → f ≠ 0 → exec (.gxLensmap w) s = .next ((v.at_ s).trapWord v (v.whole .prot)).tick))
  ∧ (∀ (w : TwoWord) (s : State) (v : Env), Ready (.gxRlaunch w) s v → SetIs s v (w.x.mod2.toNat % 64) [.opened, .closed] →
    let x := s.vset (w.x.mod2.toNat % 64)
    let t := v.uni w.b
    let strip := (t.extractLsb' 0 8).toNat
    let n := (t.extractLsb' 8 4).toNat
    let cam := (v.uni w.x.c).toNat
    let first := (v.uni w.a).toNat
    ∀ r s' bs, x.views[n]? = some r → strip < r.rh / 16 → RecordRead v (v.at_ s) cam 80 s' bs →
    let good : Prop := t.toNat < 2 ^ 20 ∧ (∀ b ∈ bs.drop 68, b = 0) ∧ first + 16 * r.rw ≤ v.x.ctl.rpcap
    (good → ViewQueued (.gxRlaunch w) s v w s' false
      [(.sp, cam, cam + 80, false), (.glob, v.x.poolAddr first, v.x.poolAddr first + 1024 * r.rw, true)]
      (.rlaunch n strip (t.extractLsb' 12 8).toNat x.f cam v.x.ctl.rpbase first))
    ∧ (¬ good → exec (.gxRlaunch w) s = .next (s'.trapWord v (v.whole .prot)).tick))

/-- R311 to R313, R330, R333: vtile reads the samples of a raster tile when it issues (log 3) and binds its lanes to them;
vcov maps pixels through the warps of the current frame. -/
def Obligations.TileSampleResults : Prop :=
  (∀ (w : TwoWord) (s : State) (v : Env), Ready (.gxVtile w) s v →
    let t := v.uni w.a
    let q (l : Nat) : Nat := (t.extractLsb' 0 8).toNat + l / 4
    let px (l : Nat) : Nat := 2 * (q l % 16) + l % 2
    let py (l : Nat) : Nat := 2 * (q l / 16) + l % 4 / 2
    let c := (t.extractLsb' 12 7).toNat
    let b := (t.extractLsb' 19 7).toNat
    t.toNat < 2 ^ 26 → ∀ base size, HandleRange s v w base size → v.busy false = none →
    let at_ (l : Nat) : Nat := base + 8192 * (t.extractLsb' 8 4).toNat + 8 * (32 * py l + px l)
    let real := v.lanes.filter (fun l => q l ≤ 255)
    (∀ l ∈ real, at_ l + 8 ≤ base + size) → ∀ s' bytes (rd : Loc → Byte),
    v.check (v.at_ s) { space := 1, n := 8, align := 4, write := false } (real.map (fun l => ⟨l, at_ l⟩)) = .ok s' bytes →
    (∀ e ∈ bytes, ∀ l ∈ e.2, s'.readOwn v.g l = some (rd l)) →
    let vals : List (Reg × Nat × Word) := (bytes.map (fun e =>
      let bs := e.2.map rd
      [(.v w.d.toNat, e.1, BitVec.ofNat 32 (32 * c + px e.1 + 65536 * (32 * b + py e.1))),
       (.v (w.d.toNat + 1), e.1, BitVec.ofNat 32 (ofBytes (bs.take 4))),
       (.v (w.d.toNat + 2), e.1, BitVec.ofNat 32 (ofBytes (bs.drop 4)))])).flatten
    let empty : List (Reg × Nat × Word) := ((v.lanes.filter (fun l => 255 < q l)).map (fun l =>
      [(Reg.v w.d.toNat, l, (0xFFFFFFFF : Word)), (.v (w.d.toNat + 1), l, 0x7F800000), (.v (w.d.toNat + 2), l, 0)])).flatten
    ∃ u y p, exec (.gxVtile w) s = .next u ∧ u.group v.g = some y ∧ y.regs = (v.x.count v.flag).regs ∧ ButRays v y
      ∧ y.io = { v.x.io with pend := v.x.io.pend ++ [p] } ∧ p.vals = vals ++ empty ∧ p.kind = .load ∧ p.flag = v.flag
      ∧ p.regs = [.v w.d.toNat, .v (w.d.toNat + 1), .v (w.d.toNat + 2)]
      ∧ (∀ l < v.x.lanes.length, (y.lane l).vbind =
          if v.act.has l = true then (if q l ≤ 255 then some (at_ l + 4) else none) else (v.x.lane l).vbind)
      ∧ (∀ h, h ≠ v.g → u.group h = s'.group h) ∧ SameMemory s' u)
  ∧ (∀ (w : TwoWord) (s : State) (v : Env), Ready (.gxVcov w) s v → SetIs s v (w.x.mod2.toNat % 64) [.opened, .closed] →
    let k := w.x.mod2.toNat % 64
    let n := (v.uni w.b).toNat
    let x := s.vset k
    let pt (l : Nat) : Nat × Nat := ((v.read w.a .b32 l).toNat % 65536, (v.read w.a .b32 l).toNat / 65536)
    ∀ r, x.views[n]? = some r → (x.frame x.f).isSome = true →
    let latched := (v.lanes.filter (fun l => (pt l).1 < r.rw && (pt l).2 < r.rh)).foldl
      (fun (u : State) l => u.latch k n x.f ((pt l).2 / 16)) (v.at_ s)
    ∃ u y f, exec (.gxVcov w) s = .next u ∧ u.vset k = latched.vset k ∧ (u.vset k).frame x.f = some f
      ∧ u.group v.g = some y ∧ WroteRun v w.d.toNat 2 (fun l =>
          if (pt l).1 < r.rw ∧ (pt l).2 < r.rh then
            [r.hw.smp r.rw ((f.view n).hbrk ((pt l).2 / 16)) (pt l).1, r.vw.smp r.rh (f.view n).vbrk (pt l).2 ^^^ 0x80000000]
          else [0x7FC00000, 0x7FC00000]) y.regs
      ∧ y.ctl = v.x.ctl ∧ y.still = v.x.still ∧ (∀ h, h ≠ v.g → u.group h = s.group h) ∧ SameMemory s u)

/-- R339 to R349: the ray instructions on the lanes' ray slots; each waits for the group's ray reads in flight. rload takes
PROT in the lanes whose index is not below %rpcap, rstore in those without a binding or bound at or above it, rbox and rtri in
those without a binding or whose reference is of another kind. The reads take their words when they issue (log 3). -/
def Obligations.RayResults : Prop :=
  (∀ (w : TwoWord) (s : State) (v : Env) (r : Reg) (rs : List Reg), v.x.rayPending = r :: rs →
    ∀ i ∈ [Instr.gxRload w, .gxRstore w, .gxRbox w, .gxRtri w, .gxRspush w, .gxRspop w], Ready i s v →
      exec i s = .next ((v.at_ s).parkAt v.g (.reg (r :: rs))).tick)
  ∧ (∀ (w : TwoWord) (s : State) (v : Env), v.x.rayPending = [] →
    let a (l : Nat) : Word := v.read w.a .b32 l
    let ray (l : Nat) : RaySlot := (v.x.lane l).ray
    (Ready (.gxRload w) s v → (∀ l ∈ v.lanes, (a l).toNat < v.x.ctl.rpcap) →
      RayReads (.gxRload w) s v 64 64 [.v w.d.toNat, .v (w.d.toNat + 1), .v (w.d.toNat + 2)]
        (fun l => addOff v.x.ctl.rpbase (64 * (a l).toNat : Nat)) (.load w.d.toNat (v.lanes.map (fun l => (l, (a l).toNat)))))
    ∧ (Ready (.gxRbox w) s v → (∀ l ∈ v.lanes, (ray l).index.isSome = true ∧ (a l).extractLsb' 30 2 = 0) →
      RayReads (.gxRbox w) s v 128 128 ((List.range 9).map (fun j => .v (w.d.toNat + j)))
        (fun l => addOff v.x.ctl.bvhbase (16 * ((a l).toNat % 2 ^ 30) : Nat)) (.box w.d.toNat (v.lanes.map (fun l => (l, a l))) v.fm))
    ∧ (Ready (.gxRtri w) s v → (∀ l ∈ v.lanes, (ray l).index.isSome = true ∧ (a l).extractLsb' 30 2 = 1) →
      RayReads (.gxRtri w) s v 48 16 [.q (w.d.toNat % 8)]
        (fun l => addOff v.x.ctl.bvhbase (16 * ((a l).toNat % 2 ^ 30) : Nat))
        (.tri (w.d.toNat % 8) (v.lanes.map (fun l => (l, a l))) v.fm))
    ∧ RayStops (.gxRload w) s v (fun l => v.x.ctl.rpcap ≤ (a l).toNat) (fun l => addOff v.x.ctl.rpbase (64 * (a l).toNat : Nat))
    ∧ RayStops (.gxRbox w) s v (fun l => (ray l).index = none ∨ (a l).extractLsb' 30 2 ≠ 0)
        (fun l => addOff v.x.ctl.bvhbase (16 * ((a l).toNat % 2 ^ 30) : Nat))
    ∧ RayStops (.gxRtri w) s v (fun l => (ray l).index = none ∨ (a l).extractLsb' 30 2 ≠ 1)
        (fun l => addOff v.x.ctl.bvhbase (16 * ((a l).toNat % 2 ^ 30) : Nat))
    ∧ RayStops (.gxRstore w) s v (fun l => ∀ i, (ray l).index = some i → v.x.ctl.rpcap ≤ i)
        (fun l => match (ray l).index with
          | some i => addOff v.x.ctl.rpbase (64 * i : Nat)
          | none => 0)
    ∧ (Ready (.gxRstore w) s v → (∀ l ∈ v.lanes, ∃ i, (ray l).index = some i ∧ i < v.x.ctl.rpcap) →
      let ref (l : Nat) : Word := if w.x.mod2.getLsbD 1 then a l else (ray l).ref
      let as := v.lanes.map (fun l => (⟨l, addOff v.x.ctl.rpbase (64 * ((ray l).index.getD 0) : Nat)⟩ : LaneAcc))
      let slot (l : Nat) (r : RaySlot) : RaySlot :=
        { r with ref := ref l, lost := min 255 (r.lost + r.stack.length), stack := []
                 index := if w.x.mod2.getLsbD 0 then none else r.index }
      (as = [] → ∃ t, exec (.gxRstore w) s = .next t ∧ v.Only s t (fun r => r = v.x.regs) 0)
      ∧ (as ≠ [] → v.busy true = none → ∀ s' bytes,
        v.check (v.at_ s) { space := 0, n := 64, align := 64, write := true } as = .ok s' bytes →
        let cells := storedCells bytes (fun l => (((ray l).record (ref l)).map (fun x => toBytes 4 x.toNat)).flatten)
        ∃ t, exec (.gxRstore w) s = .next t ∧ OnlyGroup v.g s' t (fun y =>
          y.regs = (v.x.count v.flag).regs ∧ ButRays v y ∧ RaySlots v slot y ∧ y.io = { v.x.io with sq := v.x.io.sq ++
            [{ work := .store cells, flag := v.flag, pc := v.cl.own, lanes := v.act, addr := (as.map (·.addr)).headD 0
               far := cells.any (fun c => c.1.isFar), after := earlierLoads v
               via := v.via s' (vasOf v { space := 0, n := 64, align := 64, write := true } as) }] })))
    ∧ (Ready (.gxRspush w) s v → ∃ t, exec (.gxRspush w) s = .next t ∧ OnlyGroup v.g s t (fun y =>
        y.regs = v.x.regs ∧ y.io = v.x.io ∧ ButRays v y ∧ RaySlots v (fun l r =>
          { r with stack := (a l :: r.stack).take 8, lost := if 8 ≤ r.stack.length then min 255 (r.lost + 1) else r.lost }) y))
    ∧ (Ready (.gxRspop w) s v →
      ∃ t, exec (.gxRspop w) s = .next t ∧ OnlyGroup v.g s t (fun y =>
        v.WroteLanes w.d.toNat (fun l => match (ray l).stack with
          | x :: _ => x
          | [] => if 0 < (ray l).lost then 0xFFFFFFFE else 0xFFFFFFFF) y.regs
        ∧ y.io = v.x.io ∧ ButRays v y ∧ RaySlots v (fun _ r => match r.stack with
          | _ :: rest => { r with stack := rest }
          | [] => { r with lost := 0 }) y)))

/-- R351, R352: the box instructions; bsah rounds its sum under the group's flush mode (log 76) and raises its flags; a cost
that no rule gives is a free value (log 42). -/
def Obligations.BoxResults : Prop :=
  (∀ (w : TwoWord) (s : State) (v : Env), Ready (.gxBunion w) s v →
    ∃ t, exec (.gxBunion w) s = .next t ∧ v.Only s t (WroteRun v w.d.toNat 6 (fun l =>
      if w.x.mod2.getLsbD 0 then boxUnions (v.lanes.map (boxAt v w.a.toNat))
      else boxUnion (boxAt v w.a.toNat l) (boxAt v w.b.toNat l))) 0)
  ∧ (∀ (w : TwoWord) (s : State) (v : Env), Ready (.gxBsah w) s v →
    let cnt (ls : List Nat) : Nat := (ls.map (fun l => (v.read w.b .n32 l).toNat)).sum
    let side (ls : List Nat) : Ext := sideCost (ls.map (boxAt v w.a.toNat)) (cnt ls)
    let cost (l : Nat) : Ext := costSum (side (v.lanes.filter (fun k => k ≤ l))) (side (v.lanes.filter (fun k => l < k)))
    ∃ t, exec (.gxBsah w) s = .next t ∧ OnlyGroup v.g s t (fun y =>
      y.ctl = { v.x.ctl with fstat := v.x.ctl.fstat ||| orFlags v (fun l => match cost l with
          | .q a => (Q.roundIn .f32 v.fm .rne a).2
          | _ => 0) }
        ∧ y.still = v.x.still ∧ y.regs.s = v.x.regs.s ∧ y.regs.q = v.x.regs.q ∧ y.regs.f = v.x.regs.f
        ∧ ∀ n l, l < 64 → (n ≠ w.d.toNat ∨ v.act.has l = false → y.regs.getV n l = v.x.regs.getV n l)
          ∧ (v.act.has l = true → match cost l with
            | .q a => y.regs.getV w.d.toNat l = BitVec.ofNat 32 (Q.roundIn .f32 v.fm .rne a).1
            | .inf _ => y.regs.getV w.d.toNat l = 0x7F800000
            | .undef => ∃ k, y.regs.getV w.d.toNat l = BitVec.ofNat 32 (Config.freeValue k)))
  )
  ∧ (∀ (w : TwoWord) (s : State) (v : Env), Ready (.gxBpack w) s v →
    Stores (.gxBpack w) s v { space := 1, n := 128, align := 128, write := true } false true
      (v.lanes.map (fun l => ⟨l, (v.uni w.a).toNat⟩))
      (fun _ => packNode ((v.lanes.filter (fun l => l < 8)).filterMap (fun l =>
        if (boxAt v w.b.toNat l).all finite32 then some (l, boxAt v w.b.toNat l, v.read w.x.c .b32 l) else none))))

/-- R156 to R159, R161, R165, R170 to R176: the queue instructions. -/
def Obligations.QueueResults : Prop :=
  (∀ (w : TwoWord) (s : State) (v : Env), Ready (.syLaunch w) s v →
    let r := sixteen v w.b
    ((s.ctx v.c).permits (recClass r) = false → exec (.syLaunch w) s = .next ((v.at_ s).trapWord v (v.whole .priv)).tick)
    ∧ ((s.ctx v.c).permits (recClass r) = true → recordOk r = false →
      exec (.syLaunch w) s = .next ((v.at_ s).trapWord v (v.whole .prot)).tick)
    ∧ ((s.ctx v.c).permits (recClass r) = true → recordOk r = true → v.x.drained = true →
      ∃ t, exec (.syLaunch w) s = .next t ∧ Answered v (s.room v.c (recClass r)) s t
        ∧ (s.room v.c (recClass r) = false → t.records = s.records)
        ∧ (s.room v.c (recClass r) = true → (∀ k, k ≠ s.sched.uid → Tab.find t.records k = Tab.find s.records k)
          ∧ ∃ q, Tab.find t.records s.sched.uid = some q ∧ q.ctx = v.c ∧ q.words = r ∧ q.st = .waiting ∧ q.age = s.sched.uid)))
  ∧ (∀ (w : TwoWord) (s : State) (v : Env), Ready (.syQpost w) s v →
    let m := (v.uni w.a).toNat
    let r := sixteen v w.b
    let bad : Prop := 0xFFF < m ∨ (m ≠ 0 ∧ (s.ctx v.c).mapped m = false) ∨ recordOk r = false
    (bad → exec (.syQpost w) s = .next ((v.at_ s).trapWord v (v.whole .prot)).tick)
    ∧ (¬ bad → v.x.drained = true → m = 0 →
      exec (.syQpost w) s = .next (v.next (((v.at_ s).append v.c r).1.setPred v ((v.at_ s).append v.c r).2)))
    ∧ (¬ bad → v.x.drained = true → m ≠ 0 →
      let e := Tab.get 0 (s.ctx v.c).map m
      ∃ t, exec (.syQpost w) s = .next t ∧ (∃ y, t.group v.g = some y ∧ v.Enters { v.x.io with pend := v.x.io.pend ++
          [{ id := s.sched.uid, regs := [.q v.qd], flag := v.flag, pc := v.cl.own, lanes := v.act, kind := .qpost v.qd v.act
             homes := [9] }] } y)
        ∧ t.sent = .append (e.extractLsb' 0 12).toNat (e.extractLsb' 18 6).toNat r s.modid.id :: s.sent
        ∧ (∀ h, h ≠ v.g → t.group h = s.group h) ∧ SameMemory s t))
  ∧ (∀ (w : TwoWord) (s : State) (v : Env), Ready (.syTreserve w) s v →
    let k := (v.uni w.a).toNat
    let n (l : Nat) : Nat := (v.read w.b .b32 l).toNat
    let q := (s.ctx v.c).queue k
    let may : Prop := q.st = .opened ∧ (v.lanes.map n).sum ≤ q.free ∧ ∀ l ∈ v.lanes,
      n l ≤ 64 ∧ (v.x.lane l).res + n l ≤ 255 ∧ (n l = 0 ∨ (v.x.lane l).res = 0 ∨ (v.x.lane l).resQ = k)
    (63 < k → exec (.syTreserve w) s = .next ((v.at_ s).trapWord v (v.whole .prot)).tick)
    ∧ (k ≤ 63 → ¬ may → exec (.syTreserve w) s = .next (v.next ((v.at_ s).setPred v false)))
    ∧ (k ≤ 63 → may → ∃ t y, exec (.syTreserve w) s = .next t ∧ t.group v.g = some y ∧ y.regs = v.x.regs.setQ v.qd v.act v.act
      ∧ y.ctl = v.x.ctl ∧ y.io = v.x.io
      ∧ (∀ l < v.x.lanes.length, (y.lane l).res = (v.x.lane l).res + (if v.act.has l = true then n l else 0)
        ∧ (v.act.has l = true → 0 < n l → (y.lane l).resQ = k))
      ∧ (∀ j < q.cap, ((t.ctx v.c).queue k).slot j =
          if j ∈ (((List.range q.cap).filter (fun i => (q.slot i).isNone)).take (v.lanes.map n).sum) then some {} else q.slot j)
      ∧ (∀ h, h ≠ v.g → t.group h = s.group h) ∧ SameMemory s t))
  ∧ (∀ (w : TwoWord) (s : State) (v : Env), Ready (.syTspawn w) s v →
    let k := (v.uni w.x.c).toNat
    let entry (l : Nat) : Word := v.read w.a .b32 l
    let args (l : Nat) : List Word := (List.range (w.x.mod2.extractLsb' 0 5).toNat).map (fun j => v.x.regs.getV (w.b.toNat + j) l)
    let ok := v.lanes.filter (fun l => (v.x.lane l).resQ = k && decide (0 < (v.x.lane l).res))
    (63 < k → exec (.syTspawn w) s = .next ((v.at_ s).trapWord v (v.whole .prot)).tick)
    ∧ (k ≤ 63 → (∀ l ∈ v.lanes, (entry l).toNat % 4 = 0) → v.x.drained = true →
      ∃ t m, exec (.syTspawn w) s = .next t ∧ (∀ l < 64, m.has l = true ↔ l ∈ ok)
        ∧ t = v.next ((ok.foldl (fun u l => u.spawn v.g v.c k l (entry l) (args l)) (v.at_ s)).modGroup v.g
            (fun x => x.modRegs (fun r => r.setQ v.qd v.act m)))))
  ∧ (∀ (w : TwoWord) (s : State) (v : Env), Ready (.syTcommit w) s v →
    (v.publishWaits v.act = true → exec (.syTcommit w) s = .next ((v.at_ s).parkAt v.g .drain).tick)
    ∧ (v.publishWaits v.act = false → ∃ t y, exec (.syTcommit w) s = .next t ∧ t.group v.g = some y
      ∧ y.regs = v.x.regs ∧ y.ctl = v.x.ctl ∧ y.io = v.x.io
      ∧ (∀ l < v.x.lanes.length, v.act.has l = true → (y.lane l).committed = true)
      ∧ (∀ l < v.x.lanes.length, (y.lane l).pending =
          if v.act.has l = true ∧ (v.x.lane l).committed = false then [] else (v.x.lane l).pending)
      ∧ (∀ h, h ≠ v.g → t.group h = s.group h) ∧ SameMemory s t))
  ∧ (∀ (w : TwoWord) (s : State) (v : Env),
    let c := (v.uni w.a).toNat
    (∀ i ∈ [Instr.syEvsig w, .syEvwait w, .syEvread w], Ready i s v → 255 < c →
      exec i s = .next ((v.at_ s).trapWord v (v.whole .prot)).tick)
    ∧ (Ready (.syEvsig w) s v → c ≤ 255 → v.x.drained = true → ∃ t y, exec (.syEvsig w) s = .next t
      ∧ Signalled s t v.c c (v.uni w.b) ∧ t.group v.g = some y ∧ y.regs = v.x.regs ∧ y.ctl = v.x.ctl ∧ y.io = v.x.io
      ∧ OthersRegs v.g s t ∧ SameMemory s t)
    ∧ (Ready (.syEvwait w) s v → c ≤ 255 → (s.counter v.c c - v.uni w.b).toNat < 2 ^ 31 →
      ∃ t, exec (.syEvwait w) s = .next t ∧ v.Only s t (fun r => r = v.x.regs) 0)
    ∧ (Ready (.syEvwait w) s v → c ≤ 255 → 2 ^ 31 ≤ (s.counter v.c c - v.uni w.b).toNat →
      exec (.syEvwait w) s = .next ((v.at_ s).parkAt v.g (.event c (v.uni w.b))).tick)
    ∧ (Ready (.syEvread w) s v → c ≤ 255 → WritesScalar (.syEvread w) s v w.d.toNat (s.counter v.c c) 0))

/-- R226 to R233: the barrier instructions. A task group takes PRIV, and so does a role barrier of a kernel without
producers. -/
def Obligations.BarrierResults : Prop :=
  (∀ (w : TwoWord) (s : State) (v : Env),
    (v.team.taskq.isSome = true → ∀ i ∈ [Instr.syBsync w, .syBsyncCluster w, .syBarrive w, .syBwait w, .syRsync w, .syRarrive w,
        .syRwait w], Ready i s v → exec i s = .next ((v.at_ s).trapWord v (v.whole .priv)).tick)
    ∧ (v.team.kern.prod = 0 → ∀ i ∈ [Instr.syRsync w, .syRarrive w, .syRwait w], Ready i s v →
        exec i s = .next ((v.at_ s).trapWord v (v.whole .priv)).tick))
  ∧ (∀ (w : TwoWord) (s : State) (v : Env), v.team.taskq = none →
    let k := barOf w
    (Ready (.syBarrive w) s v → MayArrive v .team k → ∃ t y, exec (.syBarrive w) s = .next t ∧ Arrives s v .team k t y)
    ∧ (Ready (.syBwait w) s v → reached (v.team.bar.count .team k) (v.x.bar.arrival .team k) = true →
      ∃ t, exec (.syBwait w) s = .next t ∧ v.Only s t (fun r => r = v.x.regs) 0)
    ∧ (Ready (.syBwait w) s v → reached (v.team.bar.count .team k) (v.x.bar.arrival .team k) = false →
      exec (.syBwait w) s = .next ((v.at_ s).parkAt v.g (.barrier 0 k)).tick)
    ∧ (Ready (.syBsync w) s v → v.x.mark? v.cl.own = none → MayArrive v .team k →
      ∃ t y, exec (.syBsync w) s = .next t ∧ Arrives s v .team k t y
        ∧ (OthersArrived s v .team k → y.flow.park = none ∧ y.mark? v.cl.own = none)
        ∧ (¬ OthersArrived s v .team k → y.flow.park = some (.barrier 0 k) ∧ y.mark? v.cl.own = some 0))
    ∧ (Ready (.syBsync w) s v → (v.x.mark? v.cl.own).isSome = true →
      reached (v.team.bar.count .team k) (v.x.bar.arrival .team k) = true →
      exec (.syBsync w) s = .next (v.next ((v.at_ s).setGroup v.g (v.x.unmark v.cl.own)))))
  ∧ (∀ (w : TwoWord) (s : State) (v : Env), v.team.taskq = none → v.team.kern.prod ≠ 0 →
    let k := barOf w
    let sd := mySide v
    let free (n : Nat) : Prop := s.sideOpen v.x.team v.team (otherSide v) = true ∨ reached (v.team.bar.count (otherSide v) k) n = true
    (Ready (.syRarrive w) s v → MayArrive v sd k → ∃ t y, exec (.syRarrive w) s = .next t ∧ Arrives s v sd k t y)
    ∧ (Ready (.syRwait w) s v → free (waits v v.x.bar k + 1) →
      ∃ t y, exec (.syRwait w) s = .next t ∧ t.group v.g = some y ∧ y.regs = v.x.regs ∧ y.io = v.x.io ∧ y.ctl = v.x.ctl
        ∧ waits v y.bar k = (waits v v.x.bar k + 1) % 2 ^ 32 ∧ (∀ e j, y.bar.arrival e j = v.x.bar.arrival e j)
        ∧ (∀ h, h ≠ v.g → t.group h = s.group h) ∧ t.teams = s.teams ∧ SameMemory s t)
    ∧ (Ready (.syRwait w) s v → ¬ free (waits v v.x.bar k + 1) →
      ∃ n, exec (.syRwait w) s = .next ((v.at_ s).parkAt v.g (.barrier n k)).tick)
    ∧ (Ready (.syRsync w) s v → v.x.mark? v.cl.own = none → MayArrive v sd k →
      ∃ t y, exec (.syRsync w) s = .next t ∧ Arrives s v sd k t y
        ∧ (free (waits v v.x.bar k + 1) →
            y.flow.park = none ∧ y.mark? v.cl.own = none ∧ waits v y.bar k = (waits v v.x.bar k + 1) % 2 ^ 32)
        ∧ (¬ free (waits v v.x.bar k + 1) → y.flow.park ≠ none ∧ y.mark? v.cl.own = some 0
            ∧ waits v y.bar k = waits v v.x.bar k))
    ∧ (Ready (.syRsync w) s v → (v.x.mark? v.cl.own).isSome = true → free (waits v v.x.bar k + 1) →
      ∃ t y, exec (.syRsync w) s = .next t ∧ t.group v.g = some y ∧ y.regs = v.x.regs ∧ y.io = v.x.io ∧ y.ctl = v.x.ctl
        ∧ y.mark? v.cl.own = none ∧ waits v y.bar k = (waits v v.x.bar k + 1) % 2 ^ 32
        ∧ (∀ e j, y.bar.arrival e j = v.x.bar.arrival e j)
        ∧ (∀ h, h ≠ v.g → t.group h = s.group h) ∧ t.teams = s.teams ∧ SameMemory s t))
  ∧ (∀ (w : TwoWord) (s : State) (v : Env), v.team.taskq = none → Ready (.syBsyncCluster w) s v →
    let k := barOf w
    let cl := v.x.core / 4
    let b := (s.cluster cl).bar k
    let n := (v.uni w.a).toNat
    let bad : Prop := n = 0 ∨ 256 < n ∨ (b.n ≠ 0 ∧ n ≠ b.n)
    let set := if v.g ∈ b.s then b.s else b.s ++ [v.g]
    (v.x.mark? v.cl.own = none → bad → ∃ u, exec (.syBsyncCluster w) s = .next (u.trapWord v (v.whole .prot)).tick
      ∧ u = (v.at_ s).closeFor v.g)
    ∧ (v.x.mark? v.cl.own = none → ¬ bad → v.x.drained = true → set.length = n →
      ∃ t y, exec (.syBsyncCluster w) s = .next t ∧ (t.cluster cl).bar k = { p := (b.p + 1) % 2 ^ 32, n := 0, s := [] }
        ∧ t.group v.g = some y ∧ y.regs = v.x.regs ∧ y.ctl = v.x.ctl ∧ y.io = v.x.io ∧ y.flow.park = none
        ∧ (∀ h, h ≠ v.g → t.group h = s.group h) ∧ SameMemory s t)
    ∧ (v.x.mark? v.cl.own = none → ¬ bad → v.x.drained = true → set.length ≠ n →
      ∃ t y, exec (.syBsyncCluster w) s = .next t ∧ (t.cluster cl).bar k = { p := b.p, n := n, s := set }
        ∧ t.group v.g = some y ∧ y.regs = v.x.regs ∧ y.flow.park = some (.barrier 1 k) ∧ SameMemory s t)
    ∧ (∀ m, v.x.mark? v.cl.own = some m → m ≠ clusterMark b.p k →
      exec (.syBsyncCluster w) s = .next (v.next ((v.at_ s).setGroup v.g (v.x.unmark v.cl.own)))))

/-- R210, R213, R221 to R224: the cells of the register unit (RegisterUnitClaim; the choices within it are log 67), and the
allocation of vector registers. -/
def Obligations.AllocationResults : Prop :=
  RegisterUnitClaim
  ∧ (∀ (w : TwoWord) (s : State) (v : Env), Ready (.syVgrow w) s v →
    let n := (v.uni w.a).toNat
    let q := (s.core v.x.core).vgrowq
    let now : Prop := n ≤ s.freeCap v.x.core v.x.w ∧ ∀ r ∈ q, s.growFits v.x.core r = false
    (n = 0 → ∃ t, exec (.syVgrow w) s = .next t ∧ Answered v true s t)
    ∧ (n ≠ 0 → 16 < v.x.alloc / 8 + n → ∃ t, exec (.syVgrow w) s = .next t ∧ Answered v false s t)
    ∧ (n ≠ 0 → v.x.alloc / 8 + n ≤ 16 → now → ∃ t y, exec (.syVgrow w) s = .next t ∧ t.group v.g = some y
      ∧ y.alloc = v.x.alloc + 8 * n ∧ y.regs = v.x.regs.setQ v.qd v.act v.act ∧ y.ctl = v.x.ctl ∧ y.io = v.x.io
      ∧ (∀ h, h ≠ v.g → t.group h = s.group h) ∧ SameMemory s t)
    ∧ (n ≠ 0 → v.x.alloc / 8 + n ≤ 16 → ¬ now → ∃ t y, exec (.syVgrow w) s = .next t ∧ t.group v.g = some y
      ∧ y.flow.park = some (.vgrow n) ∧ y.regs = v.x.regs ∧ (t.core v.x.core).vgrowq = q ++ [(v.g, n)] ∧ SameMemory s t))
  ∧ (∀ (w : TwoWord) (s : State) (v : Env), Ready (.syVshrink w) s v →
    let n := (v.uni w.a).toNat
    let first := v.x.alloc / 8 * 8 - 8 * n
    (v.x.alloc / 8 ≤ n → ∃ t, exec (.syVshrink w) s = .next t ∧ Answered v false s t)
    ∧ (n < v.x.alloc / 8 → v.x.pendingOf (regRun .v first (8 * n)) = [] → ∃ t y, exec (.syVshrink w) s = .next t
      ∧ t.group v.g = some y ∧ y.alloc = first ∧ (∀ r l, l < 64 → y.regs.getV r l = if r < first then v.x.regs.getV r l else 0)
      ∧ y.regs.q = (v.x.regs.setQ v.qd v.act v.act).q ∧ y.regs.s = v.x.regs.s ∧ y.regs.f = v.x.regs.f
      ∧ y.ctl = v.x.ctl ∧ y.io = v.x.io ∧ (∀ h, h ≠ v.g → t.group h = s.group h) ∧ SameMemory s t)
    ∧ (n < v.x.alloc / 8 → ∀ r rs, v.x.pendingOf (regRun .v first (8 * n)) = r :: rs →
      exec (.syVshrink w) s = .next ((v.at_ s).parkAt v.g (.reg (r :: rs))).tick))
  ∧ (∀ (w : TwoWord) (s : State) (v : Env), Ready (.syVquery w) s v →
    WritesScalar (.syVquery w) s v w.d.toNat (fields [(8, (s.core v.x.core).vgrowq.length), (3, 0), (5, v.x.alloc / 8), (5, 0),
      (11, s.freeCap v.x.core v.x.w)]) 0)
  ∧ (∀ (w : TwoWord) (s : State) (v : Env), Ready (.syVzero w) s v →
    ∃ t, exec (.syVzero w) s = .next t ∧ v.Only s t (WroteRun v w.d.toNat (w.x.mod2.toNat + 1) (fun _ => [])) 0)

/-- R144, R149 to R151: the control registers read what R149 says; a write to a read-only one takes PRIV, a write to another
replaces its field, and %fstat is cleared by ones; trap and brk trap in Active. -/
def Obligations.ControlRegisterResults : Prop :=
  (∀ p ∈ csrTable, ∀ (w : TwoWord) (s : State) (v : Env), Ready (.syCsrr w) s v → w.x.c.toNat = p.1 →
    (p.1 = 0x11 → ∀ o ∈ (s.core v.x.core).tileq, o.group ≠ v.g) →
    (w.x.mod2.getLsbD 0 = true → p.1 ≠ 0x08 → WritesScalar (.syCsrr w) s v w.d.toNat (p.2 s v 0) 0)
    ∧ (w.x.mod2.getLsbD 0 = false → p.1 ≠ 0x08 → WritesLanes (.syCsrr w) s v w.d.toNat (fun l => p.2 s v l) 0)
    ∧ (p.1 = 0x08 → ∃ t y, exec (.syCsrr w) s = .next t ∧ t.group v.g = some y
      ∧ (if w.x.mod2.getLsbD 0 then v.WroteScalar w.d.toNat (BitVec.ofNat 32 s.sched.now) y.regs
         else v.WroteLanes w.d.toNat (fun _ => BitVec.ofNat 32 s.sched.now) y.regs)
      ∧ y.ctl = { v.x.ctl with clockh := s.sched.now / 2 ^ 32 % 2 ^ 32 } ∧ y.still = v.x.still
      ∧ (∀ h, h ≠ v.g → t.group h = s.group h) ∧ SameMemory s t))
  ∧ (∀ (w : TwoWord) (s : State) (v : Env), Ready (.syCsrr w) s v → w.x.c = 0x11 →
    (∃ o ∈ (s.core v.x.core).tileq, o.group = v.g) → exec (.syCsrr w) s = .next ((v.at_ s).parkAt v.g .fstat).tick)
  ∧ (∀ (w : TwoWord) (s : State) (v : Env), (w.x.c.toNat ≤ 9 ∨ (0x28 ≤ w.x.c.toNat ∧ w.x.c.toNat ≤ 0x2E) ∨ w.x.c = 0x43) →
    ∀ i ∈ [Instr.syCsrw w, .syCsrs w, .syCsrc w], Ready i s v →
      exec i s = .next ((v.at_ s).trapWord v (v.whole .priv)).tick)
  ∧ (∀ q ∈ writers, ∀ p ∈ writeTable, ∀ (w : TwoWord) (s : State) (v : Env), Ready (q.1 w) s v → w.x.c.toNat = p.1 →
    ∃ u, exec (q.1 w) s = .next u.tick ∧ ∀ old ∈ csrTable, old.1 = p.1 →
      WroteControl s v p.1 (p.2 (q.2 (old.2 s v 0) (v.uni w.a))) u)
  ∧ (∀ (w : TwoWord) (s : State) (v : Env), w.x.c = 0x11 →
    let cleared : Word := BitVec.ofNat 32 v.x.ctl.fstat.toNat &&& ~~~(v.uni w.a)
    (∀ i ∈ [Instr.syCsrw w, .syCsrc w], Ready i s v → ∃ u, exec i s = .next u.tick ∧ WroteControl s v 0x11 cleared u)
    ∧ (Ready (.syCsrs w) s v → ∃ t, exec (.syCsrs w) s = .next t ∧ v.Only s t (fun r => r = v.x.regs) 0))
  ∧ (∀ q ∈ writers, ∀ (w : TwoWord) (s : State) (v : Env), Ready (q.1 w) s v → w.x.c = 0x0A →
    ∃ t y, exec (q.1 w) s = .next t ∧ t.group v.g = some y ∧ y.regs = v.x.regs ∧ y.io = v.x.io ∧ y.stillIo = v.x.stillIo
      ∧ y.ctl = { v.x.ctl with wdog0 :=
          (s.sched.now : Int) - (q.2 (BitVec.ofNat 32 (v.x.wdog s.sched.now)) (v.uni w.a)).toNat }
      ∧ (∀ h, h ≠ v.g → t.group h = s.group h) ∧ t.cores = s.cores ∧ SameMemory s t)
  ∧ (∀ (w : TwoWord) (s : State) (v : Env), Ready (.syCsrw w) s v → w.x.c = 0x42 →
    ∃ u : State, exec (.syCsrw w) s = .next u.tick ∧ v.Only s u.tick (fun r => r = v.x.regs) 0
      ∧ (u.pool v.x.core).stitch = (if (v.uni w.a).getLsbD 31 then [] else (s.pool v.x.core).stitch)
      ∧ (u.pool v.x.core).reuse = (s.pool v.x.core).reuse ∧ (u.pool v.x.core).collide = (s.pool v.x.core).collide)
  ∧ (∀ i ∈ [(Instr.syTrap, Cause.trap), (.syBrk, .brk)], ∀ (w : TwoWord) (s : State) (v : Env), Ready (i.1 w) s v →
    (v.act ≠ 0 → exec (i.1 w) s =
      .next ((v.at_ s).trapWord v { cause := i.2, tmask := v.act, info := w.x.c.toNat }).tick)
    ∧ (v.act = 0 → ∃ t, exec (i.1 w) s = .next t ∧ v.Only s t (fun r => r = v.x.regs) 0))

/-- R142, R151, R152: tret outside the handler takes PRIV; inside it loads the frame and each lane that has not exited takes
its PC, MR, state and clause base from it, or exits (so does one with a state byte above 3: log 65), and the meeting rules
apply. ctxsave asks for Draining of the context, and its group goes no further than the next word before it is saved (log 46).
-/
def Obligations.TrapReturnResults : Prop :=
  (∀ (w : TwoWord) (s : State) (v : Env), Ready (.syTret w) s v → v.x.ctl.tdepth = 0 →
    exec (.syTret w) s = .next ((v.at_ s).trapWord v (v.whole .priv)).tick)
  ∧ (∀ (w : TwoWord) (s : State) (v : Env), Ready (.syTret w) s v → v.x.ctl.tdepth ≠ 0 → ∀ s' fr,
    BlockRead v (v.at_ s) (v.x.ctl.tfbase % 2 ^ 52) 1024 1024 s' fr →
    v.publishWaits (v.x.goneBy fr) = false →
    ∃ t y a b, exec (.syTret w) s = .next t ∧ t.group v.g = some y ∧ y.flow.clause = none ∧ y.flow.park = none
      ∧ a.lanes.length = v.x.lanes.length ∧ (∀ l < v.x.lanes.length, Restored s' v fr (w.x.mod2.getLsbD 0) l (a.lane l))
      ∧ MeetingRules a b ∧ WakesAt b y
      ∧ y.ctl = { v.x.ctl with tdepth := 0 } ∧ y.regs.v = v.x.regs.v ∧ y.regs.s = v.x.regs.s ∧ y.regs.q = v.x.regs.q
      ∧ (v.x.io.nevals = [] → v.x.io.late = [] → y.regs = v.x.regs ∧ ∀ x', s'.group v.g = some x' → y.io = x'.io)
      ∧ (∀ h, h ≠ v.g → t.group h = s'.group h) ∧ SameMemory s' t)
  ∧ (∀ (w : TwoWord) (s : State) (v : Env), Ready (.syCtxsave w) s v →
    ((s.ctx v.c).st ≠ .running → ∃ t, exec (.syCtxsave w) s = .next t ∧ v.Only s t (fun r => r = v.x.regs) 0)
    ∧ ((s.ctx v.c).st = .running → ∃ t y, exec (.syCtxsave w) s = .next t ∧ (t.ctx v.c).st = .draining
      ∧ (∀ e ∈ t.teams, e.2.ctx = v.c → e.2.st ≠ .saved → e.2.preempt = true)
      ∧ t.group v.g = some y ∧ y.regs = v.x.regs ∧ y.ctl = v.x.ctl ∧ y.io = v.x.io
      ∧ (y.flow.clause.isSome = true → y.flow.park = some .saved) ∧ SameMemory s t))

/-- R371 to R374: messages between clusters. -/
def Obligations.MessageResults : Prop :=
  (∀ (w : TwoWord) (s : State) (v : Env), v.team.kern.msg = false →
    ∀ i ∈ [Instr.syMsend w, .syMcast w, .syMrecv w, .syMprobe w], Ready i s v →
      exec i s = .next ((v.at_ s).trapWord v (v.whole .priv)).tick)
  ∧ (∀ (w : TwoWord) (s : State) (v : Env), v.team.kern.msg = true → Ready (.syMsend w) s v →
    let c := (v.uni w.a).toNat
    let here : Bool := (s.ctx v.c).hasDie (c / 80)
    (here = false → exec (.syMsend w) s = .next ((v.at_ s).trapWord v (v.whole .prot)).tick)
    ∧ (here = true → v.x.drained = true → 0 < s.msgRoom v.c c →
      ∃ t, exec (.syMsend w) s = .next t ∧ Answered v true s t ∧ Delivered s t [c] (sixteen v w.b))
    ∧ (here = true → v.x.drained = true → s.msgRoom v.c c = 0 → w.x.mod2.getLsbD 0 = true →
      ∃ t, exec (.syMsend w) s = .next t ∧ Answered v false s t ∧ Delivered s t [] (sixteen v w.b))
    ∧ (here = true → v.x.drained = true → s.msgRoom v.c c = 0 → w.x.mod2.getLsbD 0 = false →
      exec (.syMsend w) s = .next ((v.at_ s).parkAt v.g (.message [c])).tick))
  ∧ (∀ (w : TwoWord) (s : State) (v : Env), v.team.kern.msg = true → Ready (.syMcast w) s v →
    let b := (v.uni w.a).toNat
    let cls := ((List.range 64).filter (fun j => (v.pair w.x.c).testBit j)).map (fun j => b + j)
    let here : Prop := ∀ c ∈ cls, (s.ctx v.c).hasDie (c / 80) = true
    (¬ here → exec (.syMcast w) s = .next ((v.at_ s).trapWord v (v.whole .mcast)).tick)
    ∧ (here → (cls = [] ∨ (v.x.drained = true ∧ ∀ c ∈ cls, 0 < s.msgRoom v.c c)) →
      ∃ t, exec (.syMcast w) s = .next t ∧ Answered v true s t ∧ Delivered s t cls (sixteen v w.b))
    ∧ (here → cls ≠ [] → v.x.drained = true → (∃ c ∈ cls, s.msgRoom v.c c = 0) → w.x.mod2.getLsbD 0 = true →
      ∃ t, exec (.syMcast w) s = .next t ∧ Answered v false s t ∧ Delivered s t [] (sixteen v w.b)))
  ∧ (∀ (w : TwoWord) (s : State) (v : Env), v.team.kern.msg = true → Ready (.syMrecv w) s v →
    let k := v.x.core / 4
    let first : Prop := (s.cluster k).mrecvq = [] ∨ (s.cluster k).mrecvq.head? = some v.g
    (first → ∀ f rest, (s.cluster k).flits = f :: rest → ∃ t y, exec (.syMrecv w) s = .next t ∧ (t.cluster k).flits = rest
      ∧ t.group v.g = some y ∧ (∀ n, y.regs.getS n =
          if w.d.toNat ≤ n ∧ n < w.d.toNat + 16 then nth 0 f (n - w.d.toNat) else v.x.regs.getS n)
      ∧ y.regs.v = v.x.regs.v ∧ y.regs.q = v.x.regs.q ∧ y.regs.f = v.x.regs.f ∧ y.ctl = v.x.ctl ∧ y.still = v.x.still
      ∧ (∀ h, h ≠ v.g → t.group h = s.group h) ∧ SameMemory s t)
    ∧ ((¬ first ∨ (s.cluster k).flits = []) → ∃ t y, exec (.syMrecv w) s = .next t ∧ t.group v.g = some y
      ∧ y.flow.park = some .receive ∧ y.regs = v.x.regs ∧ v.g ∈ (t.cluster k).mrecvq ∧ (t.cluster k).flits = (s.cluster k).flits))
  ∧ (∀ (w : TwoWord) (s : State) (v : Env), v.team.kern.msg = true → Ready (.syMprobe w) s v →
    WritesScalar (.syMprobe w) s v w.d.toNat (BitVec.ofNat 32 (s.cluster (v.x.core / 4)).flits.length) 0)

/-- R140 to R143: writes to a context slot. Until READY is 1 they change nothing. CTXDESC takes an address in Retired, Built and
Saved; a command while BUSY is 1 is refused with ECODE 3, one that the state does not allow with ECODE 1, one whose descriptor
check fails with ECODE 2; INSTALL and RESUME make the context Resident in a new generation, SUSPEND of a Resident context
makes it Saved, SUSPEND and RETIRE of a Running one start Draining, and RETIRE while Draining ends the sequence Retired. -/
def Obligations.ContextCommandResults : Prop :=
  (∀ (s : State) (k : Nat), k < 64 → s.pwr.ready = false →
    (∀ i ok, IsCommand k i ok → exec i s = .next s.tick) ∧ ∀ a, exec (.evCtxdescWrite k a) s = .next s.tick)
  ∧ (∀ (s u : State) (k : Nat), k < 64 → Awake s u →
    (∀ a, (u.ctx k).st = .retired → exec (.evCtxdescWrite k a) s =
        .next (u.modCtx k (fun c => { c with descAddr := a % 2 ^ 64 / 64 * 64, st := .built })).tick)
    ∧ (∀ a, ((u.ctx k).st = .built ∨ (u.ctx k).st = .saved) → exec (.evCtxdescWrite k a) s =
        .next (u.modCtx k (fun c => { c with descAddr := a % 2 ^ 64 / 64 * 64 })).tick)
    ∧ (∀ a, (u.ctx k).st ∈ [.resident, .running, .draining, .faulted] →
        exec (.evCtxdescWrite k a) s = .next (refused u k 1).tick)
    ∧ (∀ i ok, IsCommand k i ok → (u.ctx k).busy = true → i ≠ .evRetire k → exec i s = .next (refused u k 3).tick)
    ∧ ((u.ctx k).busy = true → (u.ctx k).st ≠ .draining → exec (.evRetire k) s = .next (refused u k 3).tick)
    ∧ (∀ i ok, IsCommand k i ok → (u.ctx k).busy = false → (u.ctx k).st ∉ ok → exec i s = .next (refused u k 1).tick)
    ∧ ((u.ctx k).busy = false → (u.ctx k).st = .built →
        (u.readDesc k = none → exec (.evInstall k) s = .next (refused u k 2).tick)
        ∧ (∀ r, u.readDesc k = some r → exec (.evInstall k) s = .next (accepted r k madeResident).tick))
    ∧ ((u.ctx k).busy = false → (u.ctx k).st = .saved →
        (∀ ok, u.readDesc k = none → exec (.evResume k ok) s = .next (refused u k 2).tick)
        ∧ (∀ r, u.readDesc k = some r → exec (.evResume k true) s = .next (accepted r k madeResident).tick)
        ∧ (∀ r, u.readDesc k = some r → ∃ t, exec (.evResume k false) s = .next t
            ∧ t.ctx k = { madeResident (r.ctx k) with st := .faulted, how := 3, busy := false }
            ∧ (∀ j, j ≠ k → t.ctx j = r.ctx j) ∧ (t.ints.stat).testBit 1 = true ∧ (t.ints.stat).testBit 2 = true
            ∧ { t with ctxs := r.ctxs, ints := r.ints, sent := r.sent, sched := r.sched, pools := r.pools, tmax := r.tmax, gauge := r.gauge } = r))
    ∧ ((u.ctx k).busy = false → (u.ctx k).st = .resident → exec (.evSuspend k) s =
        .next (accepted u k (fun c => { c with st := .saved })).tick)
    ∧ ((u.ctx k).busy = false → (u.ctx k).st = .running → ∃ t, exec (.evSuspend k) s = .next t
        ∧ t.ctx k = { u.ctx k with st := .draining, busy := true }
        ∧ (∀ e ∈ t.teams, e.2.ctx = k → e.2.st ≠ .saved → e.2.preempt = true) ∧ SameMemory u t)
    ∧ ((u.ctx k).busy = false → (u.ctx k).st = .running → ∃ t, exec (.evRetire k) s = .next t
        ∧ t.ctx k = { u.ctx k with st := .draining, retire := true, busy := true }
        ∧ (∀ e ∈ t.teams, e.2.ctx = k → e.2.st ≠ .saved → e.2.preempt = true) ∧ SameMemory u t)
    ∧ ((u.ctx k).st = .draining → exec (.evRetire k) s =
        .next (u.modCtx k (fun c => { c with retire := true, busy := true })).tick)
    ∧ ((u.ctx k).busy = false → (u.ctx k).st ∈ [.built, .resident, .saved, .faulted] → ∃ t, exec (.evRetire k) s = .next t
        ∧ t.ctx k = { err := (u.ctx k).err, ecode := (u.ctx k).ecode, gen := (u.ctx k).gen, descAddr := (u.ctx k).descAddr }
        ∧ (∀ e ∈ t.teams, e.2.ctx ≠ k) ∧ (∀ r ∈ t.records, r.2.ctx ≠ k) ∧ (t.ints.stat).testBit 2 = true))


/-- R129, R131, R132, R134: the walk of a parked group installs its leaf with A set in the caches of its core, cluster and die
(which caches a walk fills is the model's choice, log 10), and the group goes on, or the fault takes a slot or joins one, or,
where the die has no path to an entry, the group takes LINK (log 82); CMD of a slot is ignored unless it is Posted; REPLAY
makes it Replaying and its parties walk again, ABORT frees it; a Replaying slot whose waiters have all walked is Free. -/
def Obligations.PageFaultResults : Prop :=
  (∀ (s : State) (g : Nat) (x : Group) (t : Team) (va : Nat) (write fetch : Bool), s.group g = some x →
    x.flow.park = some (.walk va write fetch) → s.team x.team = some t →
    (∀ l, s.walk (x.core / 320) t.ctx va = .leaf l → ∃ u y, exec (.evPageWalk g) s = .next u ∧ u.group g = some y
      ∧ y = x.modFlow (fun f => { f with park := if fetch && x.flow.clause.isSome then some .ready else none })
      ∧ (∀ f ∈ u.faults, f.2.st = .replaying → ∀ p ∈ f.2.parties, p ≠ .group g ∧ p ≠ .fetch g)
      ∧ ∀ j ∈ [x.core, 2560 + x.core / 4, 3200 + x.core / 320],
          ∃ k ∈ Tab.get [] u.tlb j, s.serves k t.ctx va = true ∧ k.pte.testBit 5 = true)
    ∧ (∀ reason level entry pa, s.walk (x.core / 320) t.ctx va = .fault reason level entry pa →
      (∃ j, j < 256 ∧ (s.fault (x.core / 320) j).st = .free) →
      ∃ u y j, exec (.evPageWalk g) s = .next u ∧ u.group g = some y ∧ j < 256
        ∧ y.flow.park = some (.fault (x.core / 320) j) ∧ (u.fault (x.core / 320) j).st = .posted
        ∧ (if fetch then Party.fetch g else .group g) ∈ (u.fault (x.core / 320) j).parties ∧ SameMemory s u)
    ∧ (s.walk (x.core / 320) t.ctx va = .link →
      (fetch = true → ∃ u, exec (.evPageWalk g) s = .next u ∧ SameMemory s u ∧ u.group g = some (x.modFlow (fun f => { f with
        park := if f.clause.isSome then some .ready else none, abort := some { cause := .link, addr := va } })))
      ∧ (fetch = false → ∀ cl, x.flow.clause = some cl → ∃ w npc, SameMemory s w ∧ w.groups = s.groups ∧
        exec (.evPageWalk g) s = .next (w.trapParked g x cl
          { cause := .link, tmask := x.flow.pageLanes, addr := x.flow.pageAddr, info := cl.own.toNat } npc).tick)))
  ∧ (∀ (s u : State) (d j : Nat), d < 8 → j < 256 → Awake s u →
    ((u.fault d j).st ≠ .posted →
      exec (.evFaultReplay d j) s = .next u.tick ∧ exec (.evFaultAbort d j) s = .next u.tick)
    ∧ ((u.fault d j).st = .posted →
      (∃ t, exec (.evFaultReplay d j) s = .next t
        ∧ t.fault d j = { u.fault d j with st := .replaying } ∧ SameMemory u t
        ∧ ∀ g, .group g ∈ (u.fault d j).parties ∨ .fetch g ∈ (u.fault d j).parties → ∀ y, t.group g = some y →
          ∀ a b, y.flow.park ≠ some (.fault a b))
      ∧ ((u.fault d j).parties = [] → u.slotless = [] →
        exec (.evFaultAbort d j) s = .next (u.setFault d j {}).tick)
      ∧ (∀ g x cl, (u.fault d j).parties = [.group g] → u.group g = some x → x.flow.park = some (.fault d j) →
        x.flow.clause = some cl → ∃ npc, exec (.evFaultAbort d j) s =
          .next ((u.setFault d j {}).trapParked g x cl { cause := .page, tmask := x.flow.pageLanes, addr := x.flow.pageAddr
                                                         info := (u.fault d j).reason + 4 * (u.fault d j).level } npc).repost.tick)))
  ∧ (∀ (s : State) (d j : Nat), (s.fault d j).st = .replaying → (s.fault d j).parties = [] → s.slotless = [] →
    exec (.evFaultReplayDone d j) s = .next (s.setFault d j {}).tick)
  ∧ (∀ (s : State) (d j : Nat), ((s.fault d j).st ≠ .replaying ∨ (s.fault d j).parties ≠ []) →
    exec (.evFaultReplayDone d j) s = .refused .notEnabled)

/-- R132, R142, R152, R153: the end of a draining sequence, and the invalidation engine (the clauses are DrainingClaim and
InvalidationClaim). -/
def Obligations.DrainingAndInvalidationResults : Prop := DrainingClaim ∧ InvalidationClaim

/-- R159, R163, R164, R175, R368: an EVPOST adds to a counter of a live context; an append is accepted or refused, and is
answered; the reply to a qpost writes q[QD], false where the module cannot be reached; the scheduler moves the record at HEAD
to its launch queue or discards it. -/
def Obligations.EntryQueueResults : Prop :=
  (∀ (s u : State) (c k : Nat) (a : Word), c < 64 → Awake s u →
    ((u.ctx c).st ∈ [CtxSt.retired, .built, .faulted] → exec (.evEvpost c k a) s = .next u.tick)
    ∧ ((u.ctx c).st ∉ [CtxSt.retired, .built, .faulted] → ∃ t, exec (.evEvpost c k a) s = .next t
      ∧ Signalled u t c (k % 256) a ∧ SameMemory u t))
  ∧ (∀ (s : State) (m c : Nat) (r : RecordWords), s.pwr.trip = false → s.fw.recovery = false → r.length = 16 → c < 64 → m < 4096 →
    ∃ t ok, Appends s.wakeModule c r t ok ∧ exec (.evEntryAppend c ⟨m, r⟩) s = .next (t.send (.appendReply m ok)).tick)
  ∧ (∀ (s u : State) (k : Nat), k < 64 → Awake s u →
    ∃ t ok n, Appends u k ((List.range 16).map (fun i => BitVec.ofNat 32 (ofBytes ((List.range 4).map (fun j =>
        BitVec.ofNat 8 (Tab.get 0 u.appendBuf (64 * k + 4 * i + j))))))) t ok
      ∧ exec (.evHostAppend k) s = .next n ∧ Tab.get 0 n.appSeq k = Tab.get 0 u.appSeq k + 1
      ∧ Tab.get 0 n.appRes k = (if ok then 1 else 2) ∧ (∀ j, j ≠ k → Tab.get 0 n.appRes j = Tab.get 0 u.appRes j)
      ∧ (n.ints.stat).testBit 4 = true
      ∧ { n with appSeq := t.appSeq, appRes := t.appRes, ints := t.ints, sent := t.sent, sched := t.sched
                 pools := t.pools, tmax := t.tmax, gauge := t.gauge } = t)
  ∧ (∀ (s : State) (g op : Nat) (x : Group) (p : Pend) (qd : Nat) (m : Mask), s.group g = some x →
    x.io.pend.find? (fun p => p.id = op) = some p → p.kind = .qpost qd m → ReachesAll s x.core p.homes → ∀ yes,
    exec (.evQpostReply g op .ok yes) s = .next (s.setGroup g
      (((x.dropPend op).modRegs (fun r => r.setQ qd m (if yes then m else 0))).uncount p.flag)).tick)
  ∧ (∀ (s : State) (g op : Nat) (x : Group) (p : Pend) (qd : Nat) (m : Mask), s.group g = some x →
    x.io.pend.find? (fun p => p.id = op) = some p → p.kind = .qpost qd m → MayFail s x.core p.homes → ∀ yes,
    exec (.evQpostReply g op .link yes) s =
      .next (s.setGroup g (((x.dropPend op).modRegs (fun r => r.setQ qd m 0)).uncount p.flag)).tick)
  ∧ (∀ (s s' : State) (c : Nat) (h : List Loc) (cap tail head : Nat), (s.ctx c).st ∈ [CtxSt.resident, .running] →
    (s.ctx c).moveStopped = false → HeaderAt s c s' h cap tail head → head ≠ tail →
    (∀ s'', s'.virt c (slotAddr s c cap head) 64 false = (s'', none) → ∃ t, exec (.evEntryqMove c) s = .next t
      ∧ t.records = s''.records ∧ (t.ctx c).moveStopped = true ∧ SameMemory s'' t)
    ∧ (∀ s'' sl z h', s'.virt c (slotAddr s c cap head) 64 false = (s'', some sl) →
      s''.virtD c (s''.ctx c).d.entryq 64 false = (z, some h') →
      let r := wordsOf (s''.readLocs sl)
      let moved := z.writeCells 0 (((h'.drop 12).take 4).zip (toBytes 4 (head + 1)))
      (recordOk r = false → exec (.evEntryqMove c) s = .next (moved.discard c 2 (recTag r)).tick)
      ∧ (recordOk r = true → (s''.ctx c).permits (recClass r) = false →
        exec (.evEntryqMove c) s = .next (moved.discard c 1 (recTag r)).tick)
      ∧ (recordOk r = true → (s''.ctx c).permits (recClass r) = true → s''.room c (recClass r) = true →
        ∃ t q, exec (.evEntryqMove c) s = .next t ∧ Tab.find t.records moved.sched.uid = some q ∧ q.ctx = c ∧ q.words = r
          ∧ q.st = .waiting ∧ q.age = moved.sched.uid
          ∧ (∀ k, k ≠ moved.sched.uid → Tab.find t.records k = Tab.find s''.records k) ∧ SameMemory moved t)
      ∧ (recordOk r = true → (s''.ctx c).permits (recClass r) = true → s''.room c (recClass r) = false →
        exec (.evEntryqMove c) s = .refused .notEnabled)))

/-- R161, R164, R165, R169, R172: a record whose waits are met reads its kernel and is Ready, opens its task queue and is
Done, or starts Closing; where a check fails it is discarded with the first ERRCODE; a KIND 2 record frees its slot of the
launch queue when Closing begins (the model's choice, log 73); a Closing queue with no slot in use is Closed and signals; a
gather wait expires. -/
def Obligations.RecordResults : Prop :=
  (∀ (s : State) (n : Nat) (r : Record), Tab.find s.records n = some r → MayReady s r →
    (recKind r.words = 0 →
      (∀ s' code, s.readKernel r.ctx (recKdesc r.words) (recTeamg r.words) false = (s', .inl code) →
        exec (.evRecordReady n) s = .next (discarded s' n r code).tick)
      ∧ (∀ s' k, s.readKernel r.ctx (recKdesc r.words) (recTeamg r.words) false = (s', .inr k) →
        exec (.evRecordReady n) s =
          .next ({ s' with records := Tab.ins s'.records n { r with st := .ready, kern := some k } } : State).tick))
    ∧ (recKind r.words = 1 →
      let q := (s.ctx r.ctx).queue (recTq r.words)
      (∀ s' code, s.readKernel r.ctx (recKdesc r.words) 1 true = (s', .inl code) →
        exec (.evRecordReady n) s = .next (discarded s' n r code).tick)
      ∧ (∀ s' k, s.readKernel r.ctx (recKdesc r.words) 1 true = (s', .inr k) → q.st ≠ .closed →
        exec (.evRecordReady n) s = .next (discarded s' n r 5).tick)
      ∧ (∀ s' k, s.readKernel r.ctx (recKdesc r.words) 1 true = (s', .inr k) → q.st = .closed →
        s'.backingOk r.ctx (recArgptr r.words) (128 * recGx r.words) = false →
        exec (.evRecordReady n) s = .next (discarded s' n r 6).tick)
      ∧ (∀ s' k, s.readKernel r.ctx (recKdesc r.words) 1 true = (s', .inr k) → q.st = .closed →
        s'.backingOk r.ctx (recArgptr r.words) (128 * recGx r.words) = true →
        ∃ t, exec (.evRecordReady n) s = .next t ∧ Tab.find t.records n = none
          ∧ (t.ctx r.ctx).queue (recTq r.words) =
            { st := .opened, cap := recGx r.words, cls := recClass r.words, gy := recGy r.words, args := recArgs r.words, kern := k }
          ∧ (∀ k, recDone r.words = some k → Signalled s' t r.ctx k 1) ∧ (recDone r.words = none → Signalled s' t r.ctx 0 0)))
    ∧ (recKind r.words = 2 →
      let q := (s.ctx r.ctx).queue (recTq r.words)
      (q.st ≠ .opened → exec (.evRecordReady n) s = .next (discarded s n r 5).tick)
      ∧ (q.st = .opened → exec (.evRecordReady n) s =
        .next ({ withQueue s r.ctx (recTq r.words) { q with st := .closing, done := recDone r.words } with
          records := Tab.del s.records n } : State).tick)))
  ∧ (∀ (s : State) (c q : Nat), ((s.ctx c).queue q).st = .closing → ((s.ctx c).queue q).slots = [] →
    ∃ t, exec (.evTaskqClosed c q) s = .next t ∧ (t.ctx c).queue q = {}
      ∧ (∀ k, ((s.ctx c).queue q).done = some k → Signalled s t c k 1)
      ∧ (((s.ctx c).queue q).done = none → t = (withQueue s c q {}).tick))
  ∧ (∀ (s : State) (c q : Nat) (e : Nat × TaskRec) (rest : List (Nat × TaskRec)),
    ((s.ctx c).queue q).queuedRecs = e :: rest → ((s.ctx c).queue q).expired = false →
    (s.sched.now < e.2.since + ((s.ctx c).queue q).gy → exec (.evGatherWaitExpiry c q) s = .refused .notEnabled)
    ∧ (e.2.since + ((s.ctx c).queue q).gy ≤ s.sched.now → exec (.evGatherWaitExpiry c q) s =
      .next (withQueue s c q { (s.ctx c).queue q with expired := true }).tick))

/-- R166 to R168, R184, R187: candidates stand in order of class, age and context; the first that fits is placed, and one that
has been passed over 1,024 times blocks: no younger one of its class is placed before it; a display candidate that fits
nowhere, and a candidate that an expired quantum keeps out, make placed teams outside the display class give way: for the
quantum the youngest teams of the context, of the candidate's class or a lower one, and no more than it needs (the class is
compared team by team, log 74; teams asked already count as gone, log 31). A group starts with its lanes ready at ENTRY and
its registers as R187 lists them. -/
def Obligations.PlacementResults : Prop :=
  (∀ (s : State), s.candidates.Pairwise before)
  ∧ (∀ (s s' : State) (c : Cand) (cs : List Cand), s.withdrawLeaving = none → s.candidates = c :: cs → s.place c = some s' →
    exec .evTeamPlace s = .next s'.tick)
  ∧ (∀ (s s' : State) (c d : Cand) (cs : List Cand), s.withdrawLeaving = none → s.candidates = c :: d :: cs → s.place c = none →
    (c.blocks = false ∨ c.cls ≠ d.cls) → s.place d = some s' → exec .evTeamPlace s = .next (s'.passOver c).tick)
  ∧ (∀ (s s' : State) (pre post : List Cand) (d : Cand), s.withdrawLeaving = none → s.candidates = pre ++ d :: post →
    (∀ c ∈ pre, s.place c = none) →
    ((∀ c ∈ pre, c.blocks = true → c.cls ≠ d.cls) → s.place d = some s' →
      exec .evTeamPlace s = .next ((passedOver pre).foldl State.passOver s').tick)
    ∧ ((∃ c ∈ pre, c.blocks = true ∧ c.cls = d.cls) → s.place d = some s' → (∀ c ∈ s.ctxs, c.2.quantumOut = false) →
      exec .evTeamPlace s = .refused .notEnabled))
  ∧ (∀ (s : State), s.withdrawLeaving = none → (∀ c ∈ s.candidates, s.place c = none) →
    ((∀ c ∈ s.ctxs, c.2.quantumOut = false) → exec .evTeamPlace s = .refused .notEnabled)
    ∧ (∀ k, (s.ctx k).st = .running → (s.ctx k).quantumOut = true → (∀ c ∈ s.ctxs, c.2.quantumOut = true → c.1 = k) →
      (s.quantumVictims k ≠ [] → exec .evTeamPlace s = .next ((s.quantumVictims k).foldl State.askPreempt s).tick)
      ∧ (s.quantumVictims k = [] → exec .evTeamPlace s = .refused .notEnabled)))
  ∧ (∀ (s : State) (n : Nat) (r : Record), Tab.find s.records n = some r → 1024 ≤ r.passed → r.blocks = false →
    exec (.evSchedPassoverLimit n) s =
      .next ({ s with records := Tab.ins s.records n { r with blocks := true } } : State).tick)
  ∧ (∀ (s : State) (c : Cand) (v : Nat) (vs : List Nat),
    (s.candidates.filter (fun c => c.cls = 0 && !s.fits [] c)).head? = some c → s.displayVictims c = some (v :: vs) →
    exec .evDisplayPreempt s = .next ((v :: vs).foldl State.askPreempt s).tick
    ∧ ∃ cl ∈ (s.ctx c.ctx).clusters, ∀ w ∈ v :: vs, ∃ t, (w, t) ∈ s.teams ∧ t.st = .placed ∧ t.cls ≠ 0 ∧ t.preempt = false
        ∧ t.cluster = cl)
  ∧ (∀ (s : State) (k : Nat), (s.ctx k).st = .running → (s.ctx k).quantumOut = false →
    let z := s.modCtx k (fun c => { c with quantumOut := true })
    exec (.evQuantumExpiry k) s = .next ((z.quantumVictims k).foldl State.askPreempt z).tick)
  ∧ (∀ (s : State) (k : Nat),
    ((∀ c ∈ s.candidates, c.ctx ≠ k → s.fits [] c = true) → s.quantumVictims k = [])
    ∧ ∀ c, (s.candidates.filter (fun c => c.ctx ≠ k && !s.fits [] c)).head? = some c →
      (∀ all, (∀ w, w ∈ all ↔ MayGive s k c w) → s.fits (askedTeams s ++ all) c = true) → GivesWay s k c (s.quantumVictims k))
  ∧ (∀ (k : Kernel) (team gid area now : Nat) (p : Place) (args grid : List Word),
    let x := startGroup k team gid area now p args grid
    x.lanes = List.replicate k.w (freshLane k) ∧ x.alloc = 8 * k.granules gid ∧ x.regs.v = [] ∧ x.regs.q = [] ∧ x.regs.f = []
    ∧ (∀ n, x.regs.getS n = nth 0 (args ++ grid) n) ∧ x.ctl.fmode = 0 ∧ x.ctl.fstat = 0 ∧ x.ctl.tdepth = 0
    ∧ (∀ s : State, s.sched.now = now → x.wdog s.sched.now = 0) ∧ x.core = p.core ∧ x.slot = p.slot ∧ x.team = team ∧ x.gid = gid)

/-- R188, R201, R224: the end of a group and of a team, and the grant or failure of a vgrow (the clauses are EndClaim and
GrowthClaim). -/
def Obligations.EndAndGrowthResults : Prop := EndClaim ∧ GrowthClaim



/-- R13, R106, R109, R113, R115, R362, R365, R384: a load in flight writes its registers and its flag goes down; the oldest
queued store writes its bytes of this module, in lane order, and no other byte, and sends those of other modules; an atomic
reads and writes its word lane by lane; a release waits for the loads before it; an error is kept for the instruction that
takes it. An access is performed only where its die has a path to its homes, and ends with LINK only where a path is missing
or a link is passed. That one event performs every byte of a store is log 3, and which of them are performed where it ends with
LINK is log 69: the model's choices. A corrected soft error counts in CERR of its die, and the access ends as any other. -/
def Obligations.AccessPerformedResults : Prop :=
  (∀ (s : State) (g op : Nat) (x : Group) (p : Pend), s.group g = some x → x.io.pend.find? (fun q => q.id = op) = some p →
    ((∃ h ∈ p.homes, s.reaches (x.core / 320) h = false) → ∀ data, exec (.evLoadReturn g op .ok data) s = .refused .notEnabled)
    ∧ (¬ MayFail s x.core p.homes → ∀ data, exec (.evLoadReturn g op .link data) s = .refused .notEnabled)
    ∧ (ReachesAll s x.core p.homes →
      (p.kind = .load → ∀ data, ∃ t, exec (.evLoadReturn g op .ok data) s = .next t
        ∧ OnlyGroup g s t (fun y => y = ((x.dropPend op).writeRegs p.vals).uncount p.flag))
      ∧ (p.kind = .pref → ∀ res, (res = IoEnd.ok ∨ res = .memerr) → ∀ data, exec (.evLoadReturn g op res data) s =
        .next (s.setGroup g (((x.dropPend op).writeRegs []).uncount p.flag)).tick)
      ∧ (∀ ws data, p.kind = .far ws → ∃ t, exec (.evLoadReturn g op .ok data) s = .next t
        ∧ OnlyGroup g s t (fun y => y = ((x.dropPend op).writeRegs (p.vals ++ ws.mapIdx (fun i w => (w.reg, w.lane,
          pieceValue w.ty w.byte (x.regs.read w.reg w.lane) (nth 0 data i % 2 ^ w.ty.width))))).uncount p.flag))
      ∧ (∀ w words, p.kind = .ray w words → ∀ data, ∃ t y, exec (.evLoadReturn g op .ok data) s = .next t ∧ t.group g = some y
        ∧ (∀ q ∈ y.io.pend, q.id ≠ op) ∧ y.io.sq = x.io.sq ∧ y.regs.s = x.regs.s ∧ SameMemory s t)
      ∧ (p.kind = .load → ∀ data, ∃ t y, exec (.evLoadReturn g op .memerr data) s = .next t ∧ t.group g = some y
        ∧ (∃ e, y.io.late = x.io.late ++ [e] ∧ e.trap.cause = .memerr ∧ e.trap.tmask = p.lanes ∧ e.trap.addr = p.addr
            ∧ e.trap.info = p.pc.toNat ∧ e.regs = p.regs)
        ∧ (∀ k, y.regs.getF k = flagDown x p.flag k)
        ∧ (∀ n l, l < 64 → (∀ w ∈ p.vals, w.2.1 < 64) → (Reg.v n, l) ∉ p.vals.map (fun w => (w.1, w.2.1)) → y.regs.getV n l = x.regs.getV n l)
        ∧ SameMemory s t)))
  ∧ (∀ (s : State) (g op : Nat) (x : Group) (p : Pend), s.group g = some x → x.io.pend.find? (fun q => q.id = op) = some p →
    (p.kind = .load ∨ ∃ ws, p.kind = .far ws) → MayFail s x.core p.homes →
    ∃ t y e, exec (.evRemoteOperationFails g (some op)) s = .next t ∧ t.group g = some y ∧ y.io.late = x.io.late ++ [e]
      ∧ e.trap.cause = .link ∧ e.trap.tmask = p.lanes ∧ e.trap.info = p.pc.toNat ∧ SameMemory s t)
  ∧ (∀ (s : State) (g : Nat) (x : Group) (e : SqEnt) (rest : List SqEnt), s.group g = some x → x.io.sq = e :: rest →
    (EntryWaits x e → ∀ res data, exec (.evStorePerformed g res data) s = .refused .notEnabled)
    ∧ (¬ EntryWaits x e →
      (∀ cells, e.work = .store cells → ReachesAll s x.core (homesOf e.work.places) →
        let here := cells.filter (fun c => !c.1.isFar)
        ∃ t y, exec (.evStorePerformed g .ok []) s = .next t
        ∧ t.group g = some y ∧ RegsBut x y ∧ y.io.sq = rest ∧ y.io.pend = x.io.pend ∧ y.io.late = x.io.late
        ∧ (∀ k, y.regs.getF k = flagDown x e.flag k) ∧ Performed g here s t ∧ t.sent = (s.sendStores false cells).sent
        ∧ (∀ core line, t.present core line = true ↔
            (s.present core line = true ∨ ∃ c ∈ here, ∃ k o, c.1 = .sp k o ∧ k * 4096 + o / 128 = core * 4096 + line)))
      ∧ (∀ cells, e.work = .store cells → MayFail s x.core (homesOf e.work.places) →
        ∃ t y l, exec (.evRemoteOperationFails g none) s = .next t ∧ t.group g = some y ∧ RegsBut x y ∧ y.io.sq = rest
          ∧ y.io.late = x.io.late ++ [l] ∧ l.trap.cause = .link ∧ l.trap.tmask = e.lanes ∧ l.trap.addr = e.addr
          ∧ l.trap.info = e.pc.toNat ∧ Performed g (landedCells s x.core cells) s t ∧ t.sent = s.sent)
      ∧ (∀ op ty as d a, e.work = .atomic op ty as d → a ∈ as → a.loc.isFar = false → (∀ b ∈ as, b.loc = a.loc) →
        (as.map (·.lane)).Nodup → (∀ b ∈ as, b.lane < 64) → ReachesAll s x.core (homesOf e.work.places) →
        let place (i : Nat) : Loc := a.loc.add i
        let old : Word := BitVec.ofNat 32 (ofBytes ((List.range 4).map (fun i => s.readLoc g (place i))))
        ∃ olds last, InTurn op ty old as olds last ∧ ∃ t y, exec (.evStorePerformed g .ok []) s = .next t
          ∧ t.group g = some y ∧ y.io.sq = rest
          ∧ (∀ k, y.regs.getF k = flagDown x e.flag k) ∧ y.regs.s = x.regs.s ∧ y.regs.q = x.regs.q ∧ y.ctl = x.ctl
          ∧ (d = none → y.regs.v = x.regs.v)
          ∧ (∀ n, d = some n → ∀ i b, as[i]? = some b → y.regs.getV n b.lane = nth 0 olds i)
          ∧ (∀ n m l, d = some n → l < 64 → (m ≠ n ∨ ∀ b ∈ as, b.lane ≠ l) → y.regs.getV m l = x.regs.getV m l)
          ∧ Performed g ((List.range 4).map (fun i => (place i, last.extractLsb' (8 * i) 8))) s t)
      ∧ (∀ op ty as d data, e.work = .atomic op ty as d → (∀ b ∈ as, b.loc.isFar = true) → (as.map (·.lane)).Nodup →
        (∀ b ∈ as, b.lane < 64) → ReachesAll s x.core (homesOf e.work.places) →
        ∃ t y, exec (.evStorePerformed g .ok data) s = .next t ∧ t.group g = some y ∧ y.io.sq = rest
          ∧ (∀ k, y.regs.getF k = flagDown x e.flag k) ∧ y.regs.s = x.regs.s ∧ y.regs.q = x.regs.q ∧ y.ctl = x.ctl
          ∧ (∀ n, d = some n → ∀ i b, as[i]? = some b → y.regs.getV n b.lane = BitVec.ofNat 32 (nth 0 data i))
          ∧ t.sent = (as.foldl (fun (u : State) b => u.sendAccess b.loc (.atomic (atomOps.idxOf op) ty.code b.b b.c)) s).sent
          ∧ SameMemory s t)))
  ∧ (∀ (s : State) (g a b d : Nat) (data : List Nat), d < 8 →
    ∀ i ∈ [fun r => Instr.evLoadReturn g a r data, fun r => .evStorePerformed g r data, fun r => .evTransferComplete a b r,
        fun r => .evTileOpComplete a r, fun r => .evWindowScatter a b r, fun r => .evViewOpRun a r],
      exec (i (.fixed d)) s = exec (i .ok) { s with cerr := Tab.set 0 s.cerr d (Tab.get 0 s.cerr d + 1) })

/-- R342, R347, R348: the slab test of the children of a box node, with its bounds each rounded once and every other quantity
exact, and the triangle test; the hit distances and barycentrics are each rounded once. Where a quantity has no value by any
rule (an infinity less an infinity) log 42 applies, and these clauses do not. -/
def RayValuesClaim : Prop :=
  (∀ (s : State) (fm : FMode) (ray node : List Word),
    let o (a : Nat) : ℝ := num (nth 0 ray a)
    let dir (a : Nat) : ℝ := num (nth 0 ray (3 + a))
    let byte (k : Nat) : Nat := ((nth 0 node (k / 4)).extractLsb' (8 * (k % 4)) 8).toNat
    let valid (c : Nat) : Prop := (byte 15).testBit c = true ∧ ∀ a < 3, byte (12 + a) ≠ 255
    ((∃ k < 8, decodeRaw .f32 (nth 0 ray k).toNat = .nan) →
      s.boxWords fm ray node = (s, 0 :: List.replicate 8 0x7F800000))
    ∧ ((∀ k < 8, Fin32 (nth 0 ray k)) → (∀ a < 3, Fin32 (nth 0 node a)) → ∃ lo hi : Nat → Nat → Word,
      (∀ c < 8, ∀ a < 3, let unit : ℝ := 2 ^ ((byte (12 + a) : Int) - 127)
        RoundsTo .f32 fm .rd (num (nth 0 node a) + byte (16 + 6 * c + a) * unit) (lo c a).toNat
          ∧ RoundsTo .f32 fm .ru (num (nth 0 node a) + (byte (19 + 6 * c + a) + 1) * unit) (hi c a).toNat)
      ∧ ((∀ c < 8, valid c → ∀ a < 3, Fin32 (lo c a) ∧ Fin32 (hi c a)) →
        let tn (c a : Nat) : ℝ := (if dir a < 0 then num (hi c a) - o a else num (lo c a) - o a) / dir a
        let tf (c a : Nat) : ℝ := (if dir a < 0 then num (lo c a) - o a else num (hi c a) - o a) / dir a
        let hit (c : Nat) : Prop := valid c ∧ (∀ a < 3, dir a = 0 → num (lo c a) ≤ o a ∧ o a ≤ num (hi c a))
          ∧ num (nth 0 ray 6) ≤ num (nth 0 ray 7)
          ∧ (∀ a < 3, dir a ≠ 0 → num (nth 0 ray 6) ≤ tf c a ∧ tn c a ≤ num (nth 0 ray 7) ∧ ∀ b < 3, dir b ≠ 0 → tn c a ≤ tf c b)
        ∃ ws, s.boxWords fm ray node = (s, ws) ∧ ws.length = 9 ∧ (nth 0 ws 0).toNat < 256
          ∧ ∀ c < 8, ((nth 0 ws 0).getLsbD c = true ↔ hit c) ∧ (¬ hit c → nth 0 ws (1 + c) = 0x7F800000)
            ∧ (hit c → ∃ te : ℝ, (te = num (nth 0 ray 6) ∨ ∃ a < 3, dir a ≠ 0 ∧ te = tn c a) ∧ num (nth 0 ray 6) ≤ te
                ∧ (∀ a < 3, dir a ≠ 0 → tn c a ≤ te) ∧ RoundsTo .f32 fm .rd te (nth 0 ws (1 + c)).toNat))))
  ∧ (∀ (fm : FMode) (ray leaf : List Word),
    let vtx (j a : Nat) : ℝ := num (nth 0 leaf (3 * j + a))
    let o (a : Nat) : ℝ := num (nth 0 ray a)
    let dir (a : Nat) : ℝ := num (nth 0 ray (3 + a))
    let dot (x y : Nat → ℝ) : ℝ := x 0 * y 0 + x 1 * y 1 + x 2 * y 2
    let cross (x y : Nat → ℝ) (a : Nat) : ℝ := x ((a + 1) % 3) * y ((a + 2) % 3) - x ((a + 2) % 3) * y ((a + 1) % 3)
    let e1 (a : Nat) : ℝ := vtx 1 a - vtx 0 a
    let e2 (a : Nat) : ℝ := vtx 2 a - vtx 0 a
    let sv (a : Nat) : ℝ := o a - vtx 0 a
    let p := cross dir e2
    let q := cross sv e1
    let det := dot p e1
    let u := dot p sv / det
    let v := dot q dir / det
    let t := dot q e2 / det
    let finite : Prop := (∀ k < 8, Fin32 (nth 0 ray k)) ∧ ∀ k < 9, Fin32 (nth 0 leaf k)
    (¬ finite ∨ det = 0 → triTest fm ray leaf = none)
    ∧ (finite → det ≠ 0 → ∃ (dist : Word) (bu bv : Nat), RoundsTo .f32 fm .rne t dist.toNat ∧ RoundsTo .f16 fm .rne u bu
        ∧ RoundsTo .f16 fm .rne v bv
        ∧ (let hit : Prop := 0 ≤ u ∧ 0 ≤ v ∧ u + v ≤ 1 ∧ num (nth 0 ray 6) ≤ t ∧ Fin32 dist ∧ num dist < num (nth 0 ray 7)
            ∧ nth 0 leaf 10 &&& nth 0 ray 8 &&& 0xFF ≠ 0
          (hit → triTest fm ray leaf = some (dist, nth 0 leaf 9, BitVec.ofNat 32 (bu + 65536 * bv)))
          ∧ (¬ hit → triTest fm ray leaf = none))))

/-- R346 to R348, R106: the read of a ray instruction returns. rload binds the record to the lane's slot and gives the
reference, the nearest distance and the hit state; rbox gives the tested children; rtri tests the triangle, and a hit enters
the slot. One lane's read is stated; the lanes are independent. -/
def RayReturnClaim : Prop :=
  ∀ (s : State) (g op l : Nat) (x : Group) (p : Pend) (ws : List Word), s.group g = some x → l < 64 → l < x.lanes.length →
    x.io.pend.find? (fun q => q.id = op) = some p → ReachesAll s x.core p.homes →
    (∀ d i, p.kind = .ray (.load d [(l, i)]) [some ws] → ∃ t y, exec (.evLoadReturn g op .ok []) s = .next t
      ∧ t.group g = some y ∧ (y.lane l).ray = { index := some i, words := ws, ref := nth 0 ws 10
                                                lost := ((nth 0 ws 9).extractLsb' 8 8).toNat }
      ∧ y.regs.getV d l = nth 0 ws 10 ∧ y.regs.getV (d + 1) l = nth 0 ws 8 ∧ y.regs.getV (d + 2) l = nth 0 ws 14
      ∧ (∀ n k, k < 64 → (k ≠ l ∨ n < d ∨ d + 2 < n) → y.regs.getV n k = x.regs.getV n k)
      ∧ (∀ k, k ≠ l → y.lane k = x.lane k) ∧ (∀ k, y.regs.getF k = flagDown x p.flag k) ∧ SameMemory s t)
    ∧ (∀ d r fm, p.kind = .ray (.box d [(l, r)] fm) [some ws] → ∃ t y, exec (.evLoadReturn g op .ok []) s = .next t
      ∧ t.group g = some y ∧ (y.lane l).ray = { (x.lane l).ray with ref := r }
      ∧ (∃ u out, (s.setGroup g (x.dropPend op)).boxWords fm (x.lane l).ray.words ws = (u, out)
          ∧ (∀ i w, out[i]? = some w → y.regs.getV (d + i) l = w)
          ∧ (∀ n k, k < 64 → (k ≠ l ∨ n < d ∨ d + out.length ≤ n) → y.regs.getV n k = x.regs.getV n k))
      ∧ (∀ k, k ≠ l → y.lane k = x.lane k) ∧ SameMemory s t)
    ∧ (∀ q r fm, p.kind = .ray (.tri q [(l, r)] fm) [some ws] → ∃ t y, exec (.evLoadReturn g op .ok []) s = .next t
      ∧ t.group g = some y ∧ y.regs.v = x.regs.v
      ∧ (q ≠ 0 → (y.regs.getQ q).has l = (triTest fm (x.lane l).ray.words ws).isSome)
      ∧ (triTest fm (x.lane l).ray.words ws = none → (y.lane l).ray = { (x.lane l).ray with ref := r })
      ∧ (∀ d i b, triTest fm (x.lane l).ray.words ws = some (d, i, b) → (x.lane l).ray.words.length = 16 →
          (y.lane l).ray.ref = r ∧ nth 0 (y.lane l).ray.words 7 = d ∧ nth 0 (y.lane l).ray.words 12 = d
            ∧ nth 0 (y.lane l).ray.words 11 = i ∧ nth 0 (y.lane l).ray.words 13 = b)
      ∧ (∀ k, k ≠ l → y.lane k = x.lane k) ∧ SameMemory s t)

/-- R346 to R348, R106: the read of a ray instruction returns, and what the box and triangle tests give (log 42 where a
quantity has no value) (the clauses are RayReturnClaim and RayValuesClaim). -/
def Obligations.RayReturnResults : Prop := RayReturnClaim ∧ RayValuesClaim

/-- R24, R25, R27, R28, R37, R148, R191, R192, R195, R199, R200: the opening of a clause, and the events of a group between
its words (the clauses are ClauseIssueClaim and GroupEventClaim). That an illegal header takes ILL before its WAIT flags are
tested is log 26, and that WATCH waits for the end of a page walk or of a frame's wait is the model's choice (log 62). -/
def Obligations.GroupIssueResults : Prop := ClauseIssueClaim ∧ GroupEventClaim

/-- R240, R241, R243, R246, R248: what one element of a transfer does: where it stands in memory and in the scratchpad, and the
bytes that its step writes (the clauses are ElementPlaces, FillValues, DrainValues and MoveAndBinValues). Engines write no more
than these, and none where the access stops; which key reads the rest of a granule is log 7. -/
def ElementValuesClaim : Prop := ElementPlaces ∧ FillValues ∧ DrainValues ∧ MoveAndBinValues

/-- R235, R245, R250, R252, R253, R255: the transfer at the head of an engine's queue starts, its generator seeded; its
elements are processed in order, each from where the one before it left it; after the last its flag, handle, ranges and
codebook pin are released; a line that is absent makes it wait; a page fault parks it; an error stops it: it is latched in
CEERR at the element's address, waits for the group, and sets ERR of the handle. -/
def TransferEventClaim : Prop :=
  ∀ (s : State) (d e : Nat) (t : Transfer), (s.engine d e).head = some t →
    (t.started = false → ∃ u, exec (.evTransferStart d e 0) s = .next u
      ∧ (u.engine d e).queue = (s.engine d e).queue.map (fun q =>
          if q.uid = t.uid then { t with started := true, resume := none } else q)
      ∧ (u.engine d e).err = (s.engine d e).err
      ∧ (∀ w, t.resume = some w → (u.engine d e).seed = w)
      ∧ (t.resume = none → (u.engine d e).seed =
          if t.op ≠ .bin ∧ t.ti.seedv = true then (if t.ti.seed = 0 then 1 else t.ti.seed) else (s.engine d e).seed)
      ∧ { u with engines := s.engines, sched := s.sched, pools := s.pools, tmax := s.tmax, gauge := s.gauge } = s)
    ∧ (t.started = false → t.resume = none → (t.op = .bin ∨ t.ti.seedv = false) → t.next < t.count → ∀ s' seed,
      s.transferElem d { t with started := true } (s.engine d e).seed = .ok s' seed →
      ∃ u, exec (.evTransferStart d e 1) s = .next u ∧ (u.engine d e).seed = seed ∧ SameMemory s' u
        ∧ (u.engine d e).queue = (s.engine d e).queue.map (fun q =>
            if q.uid = t.uid then { t with started := true, next := t.next + t.unit, place := none } else q))
    ∧ (t.started = true → t.parked = false → ∀ z v, Runs d e (s.walked (fun p => p = .copy t.uid)) t z v →
      (v.count ≤ v.next → ∃ u, exec (.evTransferComplete d e .ok) s = .next u
        ∧ TransferGone s u d e v false ∧ (u.engine d e).seed = (z.engine d e).seed ∧ SameMemory z u)
      ∧ (v.next < v.count → z.transferElem d v (z.engine d e).seed = .wait →
        (v = t → exec (.evTransferComplete d e .ok) s = .refused .notEnabled)
        ∧ (v ≠ t → ∃ u, exec (.evTransferComplete d e .ok) s = .next u ∧ SameMemory z u
            ∧ (u.engine d e).queue = (s.engine d e).queue.map (fun q => if q.uid = t.uid then v else q)))
      ∧ (v.next < v.count → ∀ s' w va r lv en pa, z.transferElem d v (z.engine d e).seed = .fault s' w va r lv en pa →
        ∃ u a, exec (.evTransferComplete d e .ok) s = .next u ∧ ElementOf s' d v va a
          ∧ (u.engine d e).queue = (s.engine d e).queue.map (fun q =>
              if q.uid = t.uid then { v with parked := true, faultVa := a } else q)
          ∧ ((∃ j < 256, (s'.fault d j).st = .free) →
              ∃ j < 256, (u.fault d j).st = .posted ∧ Party.copy t.uid ∈ (u.fault d j).parties)
          ∧ SameMemory s' u)
      ∧ (v.next < v.count → ∀ s' c va, z.transferElem d v (z.engine d e).seed = .stop s' c va →
        ∃ u a, exec (.evTransferComplete d e .ok) s = .next u ∧ ElementOf s' d v va a ∧ TransferGone s u d e v true
          ∧ Latched s u d e t c a
          ∧ ((s.group t.group).isSome = true → Owes u t.group c t.lanes (if c = .link then t.pc.toNat else 0)) ∧ SameMemory s' u))
    ∧ (t.started = true → t.parked = false →
      (∃ u a, exec (.evTransferComplete d e .memerr) s = .next u ∧ TransferGone s u d e t true ∧ Latched s u d e t .memerr a
        ∧ (∀ r rs, s.nextRanges d t = r :: rs → a = r.2.1)
        ∧ ((s.group t.group).isSome = true → Owes u t.group .memerr t.lanes t.pc.toNat) ∧ SameMemory s u)
      ∧ ((∀ r ∈ s.nextRanges d t ++ s.sideRanges t, s.mayLose d t r = false) →
        exec (.evTransferComplete d e .link) s = .refused .notEnabled)
      ∧ ((∃ r ∈ s.nextRanges d t ++ s.sideRanges t, s.mayLose d t r = true) →
        ∃ u a, exec (.evTransferComplete d e .link) s = .next u ∧ TransferGone s u d e t true ∧ Latched s u d e t .link a
          ∧ ((∃ r ∈ s.nextRanges d t, s.mayLose d t r = true) → ∃ r ∈ s.nextRanges d t, s.mayLose d t r = true ∧ a = r.2.1)
          ∧ ((s.group t.group).isSome = true → Owes u t.group .link t.lanes t.pc.toNat) ∧ SameMemory s u))

/-- R235, R245, R250, R252, R253, R255: the events of a transfer, and what one of its elements does (the clauses are
TransferEventClaim and ElementValuesClaim). -/
def Obligations.TransferEventResults : Prop := TransferEventClaim ∧ ElementValuesClaim

/-- R199, R262, R282: with no holder the arbiter takes a display-class group, else the skein unit's first closed window, else
another group; of groups that wait the first by the keys of R199, the one that had the last lease after the others (log 95); a
lease ends after LEASE operations, or after 16 ac with none waiting or in flight, and at its end the arbiter chooses; a
display-class group that waits takes the engine from a holder of another class once no operation executes. -/
def Obligations.EngineArbitration : Prop :=
  (∀ (s : State) (k : Nat), engineFree s k → Chooses (.evEngineGrant k) s s k (exec (.evEngineGrant k) s = .refused .notEnabled))
  ∧ (∀ (s : State) (k g : Nat) (x : Group) (ws : List (Nat × Group)), s.firstWaiter k ws = some (g, x) → (g, x) ∈ ws
    ∧ ((∃ w ∈ ws, (s.core k).leased ≠ some w.1) → (s.core k).leased ≠ some g)
    ∧ ∀ w ∈ ws, (s.core k).leased ≠ some w.1 → keyLt (s.rank 4 w.2) (s.rank 4 x) = false)
  ∧ (∀ (s : State) (k g : Nat), (s.core k).holder = some (.group g) →
    (s.leaseOf g ≤ (s.core k).leaseUsed → LeaseEnds (.evLeaseCountExpiry k) s k)
    ∧ ((s.core k).leaseUsed < s.leaseOf g → exec (.evLeaseCountExpiry k) s = .refused .notEnabled)
    ∧ ((∀ o ∈ (s.core k).tileq, o.group ≠ g) → ¬ engineWaits s k g → (s.core k).lastTile + 16 ≤ s.sched.now →
      LeaseEnds (.evLeaseIdleExpiry k) s k)
    ∧ ((s.sched.now < (s.core k).lastTile + 16 ∨ engineWaits s k g ∨ ∃ o ∈ (s.core k).tileq, o.group = g) →
      exec (.evLeaseIdleExpiry k) s = .refused .notEnabled)
    ∧ (∀ h x, (∀ y, s.group g = some y → s.isDisplay y = false) → (∀ o ∈ (s.core k).tileq, o.accepted = false) →
      s.firstWaiter k ((s.engineWaiters k).filter (fun g => s.isDisplay g.2)) = some (h, x) → s.group h = some x →
      ∃ u, exec (.evEngineGrant k) s = .next u ∧ (u.core k).holder = some (.group h)))

/-- R61, R272, R278: an mma adds to each element of its tile four native blocks in ascending K, each block's exact sum of
products rounded once and then each addition; a tdrain scales, rounds and places each element of its tile, with its block
scale, the maximum, the generator and the zeroed tile as its fields say. -/
def MatrixValuesClaim : Prop :=
  (∀ (s : State) (core t : Nat) (fm : FMode) (af : Ty) (tr : Bool) (codes scales : List Nat) (m : OMap) (base k0 : Nat),
    let kb := if af = .bf16 then 32 else if af = .mx4 then 128 else 64
    let bf := Ty.ofCode m.fmt
    let c := (s.mmaResult core fm t af tr codes scales m base k0).1
    let a (i k : Nat) : Val := (Machine.decode af fm (nth 0 codes (if tr = true then k * 32 + i else i * kb + k))).1
    let b (j k : Nat) : Val := (Machine.decode bf fm (s.bCode core m base (k0 + k) j)).1
    let scale (i j n : Nat) : Option Int :=
      let q := n * (kb / 4) / 32
      let x := nth 0 scales (i * (kb / 32) + q)
      let y := (s.readSp core (m.scaleAt base (k0 / 32 + q) j)).toNat
      if m.sc = true then (if x = 255 ∨ y = 255 then none else some ((x : Int) - 127 + ((y : Int) - 127))) else some 0
    af ∈ [Ty.bf16, .e4m3, .e5m2, .mt8, .mx4] → ∀ i < 32, ∀ j < 32,
      (∀ n, n ≠ t → c.elem n i j = (s.core core).elem n i j)
      ∧ Accumulates fm 4 (fun n => (List.range (kb / 4)).map (fun k => (a i (n * (kb / 4) + k), b j (n * (kb / 4) + k))))
          (scale i j) ((s.core core).elem t i j) (c.elem t i j))
  ∧ (∀ (c : Core) (x : Drain) (fm : FMode),
    let r := c.drainRows x fm
    let seed (n : Nat) : Word := (rngNext^[n]) c.srseed
    let src (o k : Nat) : Word := if x.tr = true then c.elem x.tile k o else c.elem x.tile o k
    let rnd (o k : Nat) : Rnd :=
      let (i, j) := if x.tr = true then (k, o) else (o, k)
      if x.rnd = 4 then .sr (rngU (seed (i + 1)) (7 * j)) else nth .rne [.rne, .rz, .ru, .rd] x.rnd
    let y (o k : Nat) : Val := (Machine.decode .f32 fm (src o k).toNat).1.scale x.sx
    r.1.length = 32
    ∧ (∀ o row, r.1[o]? = some row →
      let code (k : Nat) : Nat := ofBytes (row.take (4 * x.fd.width)) / 2 ^ (x.fd.width * k) % 2 ^ x.fd.width
      (x.blk = false → row.length = 4 * x.fd.width ∧ ∀ k < 32,
        (x.fd = .f32 → x.sx = 0 → code k = asRead .f32 fm (src o k).toNat)
        ∧ ((x.fd ≠ .f32 ∨ x.sx ≠ 0) → code k = (roundTo x.fd fm (rnd o k) (y o k)).1 % 2 ^ x.fd.width))
      ∧ (x.blk = true → ∃ b, b < 256 ∧ ScaleOf x.fd ((List.range 32).map (y o)) b ∧ row.length = 4 * x.fd.width + 1
          ∧ row.getLast? = some (BitVec.ofNat 8 b) ∧ ∀ k < 32, code k = blockCode x.fd fm (rnd o k) b (y o k) % 2 ^ x.fd.width))
    ∧ r.2.1.srseed = (if x.rnd = 4 then seed 32 else c.srseed)
    ∧ (∀ k, x.am = some k →
      let of_ (w : Word) : Nat := if (decodeRaw .f32 w.toNat) = .nan then 0x7FC00000 else w.toNat % 2 ^ 31
      let top := (Tab.get 0 r.2.1.am k).toNat
      (Tab.get 0 c.am k).toNat ≤ top ∧ (∀ i < 32, ∀ j < 32, of_ (c.elem x.tile i j) ≤ top)
        ∧ (top = (Tab.get 0 c.am k).toNat ∨ ∃ i < 32, ∃ j < 32, top = of_ (c.elem x.tile i j)))
    ∧ (∀ k, x.am ≠ some k → Tab.get 0 r.2.1.am k = Tab.get 0 c.am k)
    ∧ (∀ n i j, i < 32 → j < 32 → r.2.1.elem n i j = if x.z = true ∧ n = x.tile then 0 else c.elem n i j))

/-- R261 to R264, R272, R273, R276 to R280: the engine accepts the next operation of its holder, an mma once the group's
stores are performed and within its lease, and what it does for a group that has ended counts for no lease; the oldest
accepted operation takes effect on its tile alone, an mma only when its B lines are present; a memory error leaves the tile.
That a stochastic drain's generator advances here, for the whole tile, is the model's choice (log 66), as is what a drain that
ends in an error leaves (log 85). -/
def TileOperationClaim : Prop :=
  (∀ (s : State) (k : Nat) (o : TileOp), s.nextOp k = some o →
    let took : Core := { s.core k with
      tileq := (s.core k).tileq.map (fun q => if q.uid = o.uid then { q with accepted := true } else q) }
    let after (n : Nat) : State := s.setCore k (if (s.core k).holder = some (.group o.group) then
      { took with leaseUsed := (s.core k).leaseUsed + n, lastTile := s.sched.now } else took)
    (∀ t af a c sc m b k0 x, o.work = .mma t af a c sc m b k0 → s.group o.group = some x →
      (x.io.sq = [] → exec (.evTileOpAccept k) s = .next (after 1).tick)
      ∧ (x.io.sq ≠ [] → exec (.evTileOpAccept k) s = .refused .notEnabled))
    ∧ (∀ d x, o.work = .drain d → s.group o.group = some x →
      (x.drained = true → exec (.evTileOpAccept k) s = .next (after 0).tick)
      ∧ (x.drained = false → exec (.evTileOpAccept k) s = .refused .notEnabled))
    ∧ ((∀ t af a c sc m b k0, o.work ≠ .mma t af a c sc m b k0) → (∀ d, o.work ≠ .drain d) →
      exec (.evTileOpAccept k) s = .next (after 0).tick))
  ∧ (∀ (s : State) (k : Nat),
    (∀ o ∈ (s.core k).tileq, o.accepted = false → ∃ x, s.group o.group = some x ∧ x.flow.ended = false) →
    (∀ g, (s.core k).holder = some (.group g) → LeaseOver s k g ∨ ∀ o ∈ (s.core k).tileq, o.group = g → o.accepted = true) →
    exec (.evTileOpAccept k) s = .refused .notEnabled)
  ∧ (∀ (s : State) (k : Nat) (o : TileOp), (s.core k).headOp = some o →
    (∀ t, o.work = .zero t → ∃ u, exec (.evTileOpComplete k .ok) s = .next u ∧ TileDone s u k o ∧ TileHolds s u k t (fun _ _ => 0))
    ∧ (∀ t col sl, o.work = .fill t col sl → ∃ u, exec (.evTileOpComplete k .ok) s = .next u ∧ TileDone s u k o
      ∧ TileHolds s u k t (fun i j => nth 0 sl (if col then i else j)))
    ∧ (∀ t col n sl, o.work = .put t col n sl → ∃ u, exec (.evTileOpComplete k .ok) s = .next u ∧ TileDone s u k o
      ∧ TileHolds s u k t (fun i j => if (if col then j else i) = n then nth 0 sl (if col then i else j) else (s.core k).elem t i j))
    ∧ (∀ a b tr, o.work = .mov a b tr → ∃ u, exec (.evTileOpComplete k .ok) s = .next u ∧ TileDone s u k o
      ∧ TileHolds s u k a (fun i j => if tr then (s.core k).elem b j i else (s.core k).elem b i j))
    ∧ (∀ t col n d x p, o.work = .get t col n d → s.group o.group = some x → x.io.pend.find? (fun q => q.id = o.uid) = some p →
      ∃ u y, exec (.evTileOpComplete k .ok) s = .next u ∧ TileDone s u k o ∧ u.group o.group = some y
        ∧ y.regs = (((x.dropPend o.uid).writeRegs (sliceVals x.w d o.lanes ((List.range 32).map (fun l =>
            if col then (s.core k).elem t l n else (s.core k).elem t n l)))).uncount p.flag).regs
        ∧ (u.core k).acc = (s.core k).acc)
    ∧ (∀ d t x p, o.work = .stat d t → s.group o.group = some x → x.io.pend.find? (fun q => q.id = o.uid) = some p →
      ∃ u y, exec (.evTileOpComplete k .ok) s = .next u ∧ TileDone s u k o ∧ u.group o.group = some y
        ∧ (∀ i j, i < 32 → j < 32 → (amaxMag ((s.core k).elem t i j).toNat).toNat ≤ (y.regs.getS d).toNat)
        ∧ (∃ i j, i < 32 ∧ j < 32 ∧ y.regs.getS d = amaxMag ((s.core k).elem t i j).toNat)
        ∧ (∀ n, n ≠ d → y.regs.getS n = x.regs.getS n) ∧ y.regs.v = x.regs.v ∧ y.regs.q = x.regs.q)
    ∧ (∀ t af a c sc m b k0, o.work = .mma t af a c sc m b k0 →
      let there : Prop := ∀ q ∈ m.offsets b k0, s.present k (q / 128) = true
      (¬ there → exec (.evTileOpComplete k .ok) s = .refused .notEnabled)
      ∧ (there → ∃ u, exec (.evTileOpComplete k .ok) s = .next u ∧ TileDone s u k o
        ∧ TileHolds s u k t (fun i j => ((s.mmaResult k o.fm t af a c sc m b k0).1).elem t i j)
        ∧ (∀ x, s.group o.group = some x → ∃ y, u.group o.group = some y
            ∧ y.ctl = { x.ctl with fstat := x.ctl.fstat ||| (s.mmaResult k o.fm t af a c sc m b k0).2 }) ∧ SameMemory s u)
      ∧ (there → ∃ u, exec (.evTileOpComplete k .memerr) s = .next u ∧ TileDone s u k o ∧ (u.core k).acc = (s.core k).acc
        ∧ ((s.group o.group).isSome = true → Owes u o.group .memerr o.lanes o.pc.toNat) ∧ SameMemory s u))
    ∧ (∀ x, o.work = .drain x →
      (MayFail s k (homesOf x.rows.flatten) → ∃ u, exec (.evTileOpComplete k .link) s = .next u ∧ TileDone s u k o
        ∧ (u.core k).acc = (s.core k).acc ∧ ((s.group o.group).isSome = true → Owes u o.group .link o.lanes o.pc.toNat) ∧ SameMemory s u)
      ∧ ((∃ h ∈ homesOf x.rows.flatten, s.reaches (k / 320) h = false) →
        exec (.evTileOpComplete k .ok) s = .refused .notEnabled))
    ∧ (∀ x, o.work = .drain x → (∀ l ∈ x.rows.flatten, plainLoc l) → ReachesAll s k (homesOf x.rows.flatten) →
      let r := (s.core k).drainRows x o.fm
      ∃ u, exec (.evTileOpComplete k .ok) s = .next u ∧ TileDone s u k o
        ∧ Performed 0 ((x.rows.zip r.1).map (fun e => e.1.zip e.2)).flatten s u
        ∧ (∀ i j, i < 32 → j < 32 → (u.core k).elem x.tile i j = if x.z = true then 0 else (s.core k).elem x.tile i j)
        ∧ (u.core k).am = r.2.1.am ∧ (u.core k).srseed = r.2.1.srseed
        ∧ ∀ y, s.group o.group = some y → ∃ z, u.group o.group = some z ∧ z.ctl = { y.ctl with fstat := y.ctl.fstat ||| r.2.2 }))

/-- R261 to R264, R272, R273, R276 to R280: the matrix engine accepts and performs tile operations, and the numbers of mma and
tdrain (its choices are logs 66 and 85) (the clauses are TileOperationClaim and MatrixValuesClaim). -/
def Obligations.TileOperationResults : Prop := TileOperationClaim ∧ MatrixValuesClaim

/-- R292, R293: a row of a network goes through its layers alone: inputs rounded to WFMT, each output the bias and the blocks of
products in ascending k, and the activation of the layer's table. -/
def NetValuesClaim : Prop :=
  (∀ (sn : NetSnap) (l : Nat) (x : List Word), netValue sn l [] x = x)
  ∧ (∀ (sn : NetSnap) (l : Nat) (dl : LayerData) (ds : List LayerData) (x : List Word),
    let codes := (x.take (sn.net.ins l)).map (fun v => (roundTo sn.net.wfmt {} .rne (decodeRaw .f32 v.toNat)).1)
    let up := if sn.net.wfmt = .bf16 then 32 else 64
    let p := (sn.net.ins l + up - 1) / up * up
    ∃ ys : List Word, netValue sn l (dl :: ds) x = netValue sn (l + 1) ds ys
      ∧ ys.length = min dl.weights.length dl.biases.length
      ∧ ∀ (j : Nat) (y : Word) (ws : List Nat) (bias : Word), ys[j]? = some y → dl.weights[j]? = some ws → dl.biases[j]? = some bias →
        ∃ v, y = (match sn.pins.find? (fun q => q.1 = sn.net.act l) with
            | some q => actValue q.2.2 v
            | none => v)
          ∧ v = layerOut sn.net.wfmt codes p ws bias)
  ∧ (∀ (t : Ty) (codes ws : List Nat) (p : Nat) (bias : Word),
    let nb := if t = .bf16 then 8 else 16
    Accumulates {} (p / nb) (fun b => (List.range nb).map (fun i =>
      (decodeRaw t (nth 0 codes (b * nb + i)), decodeRaw t (nth 0 ws (b * nb + i))))) (fun _ => some 0) bias (layerOut t codes p ws bias))
  ∧ (∀ (b : ActBank) (x : Word), (decodeRaw .f32 x.toNat = .nan → actValue b x = 0x7FC00000)
    ∧ (decodeRaw .f32 x.toNat ≠ .nan → Fin32 b.lo → Fin32 b.hi → num b.lo < num b.hi → ∀ xc : ℝ,
      (Fin32 x → xc = min (max (num x) (num b.lo)) (num b.hi)) →
      (¬ Fin32 x → xc = if x.getLsbD 31 = true then num b.lo else num b.hi) →
      let seg := min 63 ⌊64 * (xc - num b.lo) / (num b.hi - num b.lo)⌋₊
      let w := nth 0 b.segs seg
      let slope := decodeRaw .f16 (w.toNat % 65536)
      let icept := decodeRaw .f16 (w.toNat / 65536)
      ∀ n m e n' m' e', slope = .fin n m e → icept = .fin n' m' e' →
        Nearest32 (realOf slope * xc + realOf icept) (actValue b x)))

/-- R288, R290, R291, R294, R296, R297, R299: a window closes when its time is up; a Closed one enters its ranges; a Running
one evaluates its rows, writes the results of the lanes that live, and is Free; a page fault makes it Faulted, another failure
fails its rows; a pending swap is made when no window pins the bank. -/
def NetEventClaim : Prop :=
  (∀ (s : State) (k w : Nat), let x := (s.core k).win w
    (x.st = .opened → x.openedAt + x.timer ≤ s.sched.now → ∃ u, exec (.evWindowTimerExpiry k w) s = .next u
      ∧ (u.core k).win w = { x with st := .closed, order := s.sched.uid } ∧ (∀ j, j ≠ w → (u.core k).win j = (s.core k).win j)
      ∧ u.groups = s.groups ∧ SameMemory s u)
    ∧ (x.st ≠ .opened → exec (.evWindowTimerExpiry k w) s = .refused .notEnabled)
    ∧ (∀ sn, x.snap = some sn → x.st = .closed → x.locked = false → s.winLeaving x = false →
      let ls := (List.range sn.net.nl).map (fun l => (⟨if sn.net.wcsp then .csp else .glob, sn.net.wbase l,
        sn.net.wbase l + sn.net.boff l + 4 * sn.net.wid l, false, x.uid, []⟩ : Lock))
      (∀ c, (s.core k).enterLocks ls = some c → exec (.evWindowEnterLocks k w) s =
        .next ((s.setCore k c).setWin k w { x with locked := true }).tick)
      ∧ ((s.core k).enterLocks ls = none → exec (.evWindowEnterLocks k w) s = .refused .notEnabled))
    ∧ (∀ sn, x.snap = some sn → x.st = .running →
      let z : State := s.walked (fun p => p = .skein k w)
      let fails (u : State) (va : Option Nat) : Prop := ∀ r ∈ x.rows, s.rowLive r = true → r.lane < 64 →
        ∃ y, u.group r.group = some y ∧ ∃ l ∈ y.io.late, l.neval = some r.op ∧ l.trap.tmask.has r.lane = true
          ∧ ((∀ v, s.group r.group = some v → ∀ m ∈ v.io.late, m.neval ≠ some r.op) →
              l.trap.cause = .neth ∧ ∀ a, va = some a → l.trap.addr = a)
      (∀ s' ls, z.netLayers (k / 320) x.ctx sn.net 0 sn.net.nl = .ok s' ls → (∀ q ∈ ((s'.core k).win w).rows, q.lane < 64) →
        ∃ u, exec (.evWindowScatter k w .ok) s = .next u ∧ (u.core k).win w = {}
          ∧ ((s'.core k).holder = some (.skein w) → (u.core k).holder = none)
          ∧ (u.core k).nrows = (s'.core k).nrows + BitVec.ofNat 32 (((s'.core k).win w).rows.filter s'.rowLive).length
          ∧ (∀ r ∈ ((s'.core k).win w).rows, s'.rowLive r = true →
              (∀ q ∈ ((s'.core k).win w).rows, q ≠ r → q.group ≠ r.group ∨ q.lane ≠ r.lane) →
              ∃ y, u.group r.group = some y ∧ ∀ j < r.nout,
                y.regs.getV (r.vd + j) r.lane = nth 0 (netValue sn 0 ls r.input) j)
          ∧ SameMemory s' u)
      ∧ (∀ s' va r lv en pa, z.netLayers (k / 320) x.ctx sn.net 0 sn.net.nl = .fault s' va r lv en pa →
        ∃ u, exec (.evWindowScatter k w .ok) s = .next u ∧ (u.core k).win w = { x with st := .faulted, faultVa := va }
          ∧ (u.core k).holder = none ∧ SameMemory s' u)
      ∧ (∀ s' va, z.netLayers (k / 320) x.ctx sn.net 0 sn.net.nl = .fail s' va →
        ∃ u, exec (.evWindowScatter k w .ok) s = .next u ∧ (u.core k).win w = {} ∧ fails u (some va) ∧ SameMemory s' u)
      ∧ (∀ res ∈ [IoEnd.memerr, .link], ∃ u, exec (.evWindowScatter k w res) s = .next u ∧ (u.core k).win w = {} ∧ fails u none
          ∧ SameMemory s u)))
  ∧ (∀ (s : State) (k t : Nat) (b : ActBank), ((s.core k).table t).pending = some b →
    ((s.core k).pinned t = false → ∃ u, exec (.evActSwap k t) s = .next u
      ∧ (u.core k).table t = ⟨b, none, (((s.core k).table t).gen + 1) % 2 ^ 32⟩
      ∧ (∀ j, j ≠ t → (u.core k).table j = (s.core k).table j) ∧ (∀ j, j ≠ k → u.core j = s.core j) ∧ u.groups = s.groups)
    ∧ ((s.core k).pinned t = true → exec (.evActSwap k t) s = .refused .notEnabled))

/-- R288, R290, R291, R294, R296, R297, R299: the events of a gather window, and the value of a row (the clauses are
NetEventClaim and NetValuesClaim). -/
def Obligations.NetEventResults : Prop := NetEventClaim ∧ NetValuesClaim

/-- R310, R311, R325, R326: the breakpoints of an axis for a gaze component, and the sample and forward maps, affine within each
segment and rounded once; the NDC position of a vertex, with one rounding a component and a quotient; the winding and area of a
triangle, and the samples that it covers with their depths. View roundings flush nothing (log 76). -/
def ViewValuesClaim : Prop :=
  (∀ (w : Warp) (g : Word), 0 < w.nseg → w.nseg ≤ 64 →
    let ps := breakpoints w g
    ps.length = w.nseg + 1 ∧ nth 0 ps 0 = 0xBF800000 ∧ nth 0 ps w.nseg = 0x3F800000
    ∧ ∀ i, 0 < i → i < w.nseg → ∃ u lo hi m : Nat × Flags,
      SumOf .f32 {} .rne (if decodeRaw .f32 g.toNat = .nan then 0 else g.toNat) (nth 0 w.offs (i - 1)).toNat u
      ∧ SumOf .f32 {} .rne (nth 0 ps (i - 1)).toNat 0x3C800000 lo ∧ RoundsTo .f32 {} .rne (1 - (w.nseg - i) / 64) hi.1
      ∧ GreatestOf .f32 {} .rne u.1 lo.1 m ∧ LeastOf .f32 {} .rne m.1 hi.1 ((nth 0 ps i).toNat, 0))
  ∧ (∀ (w : Warp) (size : Nat) (ps : List Word) (x sg : Nat),
    let bnd (i : Nat) : Nat := if i = 0 then 0 else if w.nseg ≤ i then size else nth 0 w.bnds (i - 1)
    sg < w.nseg → bnd sg ≤ x → (∀ i < w.nseg, bnd i ≤ x → i ≤ sg) → bnd sg < bnd (sg + 1) →
    RoundsTo .f32 {} .rne (num (nth 0 ps sg)
      + ((x : ℝ) + 1 / 2 - bnd sg) * (num (nth 0 ps (sg + 1)) - num (nth 0 ps sg)) / ((bnd (sg + 1) : ℝ) - bnd sg)) (w.smp size ps x).toNat)
  ∧ (∀ (w : Warp) (size : Nat) (ps : List Word) (u : Word) (sg : Nat),
    let bnd (i : Nat) : Nat := if i = 0 then 0 else if w.nseg ≤ i then size else nth 0 w.bnds (i - 1)
    let p (i : Nat) : ℝ := num (nth 0 ps i)
    sg < w.nseg → (p sg ≤ num u ∨ sg = 0) → (∀ i < w.nseg, p i ≤ num u → i ≤ sg) → p sg < p (sg + 1) →
    RoundsTo .f32 {} .rne (bnd sg + (num u - p sg) * ((bnd (sg + 1) : ℝ) - bnd sg) / (p (sg + 1) - p sg)) (w.fwd size ps u).toNat)
  ∧ (∀ (m v : List Word), v.length = 3 → (∀ k < 16, Fin32 (nth 0 m k)) → (∀ k < 3, Fin32 (nth 0 v k)) → ∃ clip : Nat → Word,
    (∀ r < 4, Nearest32 (num (nth 0 m (4 * r)) * num (nth 0 v 0) + num (nth 0 m (4 * r + 1)) * num (nth 0 v 1)
      + num (nth 0 m (4 * r + 2)) * num (nth 0 v 2) + num (nth 0 m (4 * r + 3))) (clip r))
    ∧ ((∃ r < 4, ¬ Fin32 (clip r)) ∨ num (clip 3) ≤ 1 / 2 ^ 20 → ndc m v = none)
    ∧ ((∀ r < 4, Fin32 (clip r)) → 1 / 2 ^ 20 < num (clip 3) → ∃ x y z : Word,
      Nearest32 (num (clip 0) / num (clip 3)) x ∧ Nearest32 (num (clip 1) / num (clip 3)) y ∧ Nearest32 (num (clip 2) / num (clip 3)) z
        ∧ (Fin32 x ∧ Fin32 y ∧ Fin32 z → ndc m v = some (x, y, z)) ∧ (¬ (Fin32 x ∧ Fin32 y ∧ Fin32 z) → ndc m v = none)))
  ∧ (∀ (m v0 v1 v2 : List Word),
    (ndc m v0 = none ∨ ndc m v1 = none ∨ ndc m v2 = none → triOf m v0 v1 v2 = none)
    ∧ (∀ x y z : Nat → Word, ndc m v0 = some (x 0, y 0, z 0) → ndc m v1 = some (x 1, y 1, z 1) → ndc m v2 = some (x 2, y 2, z 2) →
      let t (i : Nat) : ℝ := - num (y i)
      let area := (num (x 1) - num (x 0)) * (t 2 - t 0) - (num (x 2) - num (x 0)) * (t 1 - t 0)
      let is (p : Pt) (d : Rat2) (i : Nat) : Prop := quot p.x = num (x i) ∧ quot p.t = t i ∧ quot d = num (z i)
      (area = 0 → triOf m v0 v1 v2 = none)
      ∧ (area ≠ 0 → ∃ tr, triOf m v0 v1 v2 = some tr ∧ quot tr.area = |area| ∧ is tr.a tr.za 0
          ∧ (if 0 < area then is tr.b tr.zb 1 ∧ is tr.c tr.zc 2 else is tr.b tr.zb 2 ∧ is tr.c tr.zc 1)
          ∧ ∀ q ∈ [tr.a.x, tr.a.t, tr.b.x, tr.b.t, tr.c.x, tr.c.t, tr.za, tr.zb, tr.zc, tr.area], 0 < q.d)))
  ∧ (∀ (tr : Tri) (p : Pt), 0 < quot tr.area →
    (∀ q ∈ [p.x, p.t, tr.a.x, tr.a.t, tr.b.x, tr.b.t, tr.c.x, tr.c.t, tr.za, tr.zb, tr.zc, tr.area], 0 < q.d) →
    let side (a b : Pt) : ℝ := (quot b.x - quot a.x) * (quot p.t - quot a.t) - (quot b.t - quot a.t) * (quot p.x - quot a.x)
    let within (a b : Pt) : Prop := 0 < side a b
      ∨ (side a b = 0 ∧ ((quot b.t = quot a.t ∧ quot a.x < quot b.x) ∨ quot b.t < quot a.t))
    let depth := (side tr.b tr.c * quot tr.za + side tr.c tr.a * quot tr.zb + side tr.a tr.b * quot tr.zc) / quot tr.area
    ∃ w : Word, RoundsTo .f32 {} .rne depth w.toNat
      ∧ (let d : Word := if w = 0x80000000 then 0 else w
        let counts : Prop := within tr.a tr.b ∧ within tr.b tr.c ∧ within tr.c tr.a ∧ Fin32 d ∧ 0 ≤ num d ∧ num d ≤ 1
        (counts → tr.cover p = some d) ∧ (¬ counts → tr.cover p = none)))

/-- R317, R329, R335: the oldest operation of a view unit is performed, parks on a fault slot, or stops with its cause kept
for the group, what it had written before an error left written: after how many elements an error stops it is free (log 75); a
performed one completes; a present is written, in another module sent, and tagged before the emission of its row, else LATE
counts. -/
def ViewUnitClaim : Prop :=
  (∀ (s : State) (cl : Nat) (o : ViewOp) (rest : List ViewOp), (s.cluster cl).viewq = o :: rest → o.ran = false → o.parked = false →
    let mark (q : List ViewOp) (f : ViewOp → ViewOp) : List ViewOp := q.map (fun x => if x.uid = o.uid then f x else x)
    let z : State := s.walked (fun p => p = .view o.uid)
    let stops (i : Instr) (s' : State) (c : Cause) : Prop := ∃ u, exec i s = .next u ∧ (∀ q ∈ (u.cluster cl).viewq, q.uid ≠ o.uid)
      ∧ ((s'.group o.group).isSome = true → Owes u o.group c o.lanes (if c = .memerr ∨ c = .link then o.pc.toNat else 0))
      ∧ SameMemory s' u
    (∀ s', z.runView cl o none = .ok s' → ∃ u, exec (.evViewOpRun cl .ok) s = .next u
      ∧ (u.cluster cl).viewq = mark (s'.cluster cl).viewq (fun x => { x with ran := true }) ∧ u.groups = s'.groups ∧ SameMemory s' u)
    ∧ (∀ s' w va r lv en pa, z.runView cl o none = .fault s' w va r lv en pa → ∃ u, exec (.evViewOpRun cl .ok) s = .next u
      ∧ (u.cluster cl).viewq = mark (s'.cluster cl).viewq (fun x => { x with parked := true, faultVa := va }) ∧ SameMemory s' u)
    ∧ (∀ s' c va, z.runView cl o none = .stop s' c va → stops (.evViewOpRun cl .ok) s' c)
    ∧ (∀ res c, (res = IoEnd.memerr ∧ c = Cause.memerr ∨ res = .link ∧ c = .link ∧ o.global = true) →
      ∃ n < max 1 (s.viewElems o), ∀ s' c' va,
        ((s.freeVal).2.walked (fun p => p = .view o.uid)).runView cl o (some (n, c)) = .stop s' c' va →
        stops (.evViewOpRun cl res) s' c')
    ∧ (o.global = false → exec (.evViewOpRun cl .link) s = .refused .notEnabled))
  ∧ (∀ (s : State) (cl : Nat) (o : ViewOp) (rest : List ViewOp), (s.cluster cl).viewq = o :: rest → o.ran = false →
    exec (.evViewOpComplete cl) s = .refused .notEnabled)
  ∧ (∀ (s : State) (cl : Nat) (o : ViewOp) (rest : List ViewOp), (s.cluster cl).viewq = o :: rest → o.ran = true →
    ((∀ v c j n b cs, o.work ≠ .present v c j n b cs) → ∃ u, exec (.evViewOpComplete cl) s = .next u ∧ ViewGone s u cl o
      ∧ u.vsets = s.vsets ∧ SameMemory s u)
    ∧ (∀ v c j n b cs r f, o.work = .present v c j n b cs → (s.vset o.set).view? v = some r → (s.vset o.set).frame n = some f →
      let e := (s.vset o.set).emitTime v r n j
      let key := tileKey r v c j
      ((f.view v).emitted ≤ j → (e = none ∨ ∃ t, e = some t ∧ s.sched.time < t) → ∃ u, exec (.evViewOpComplete cl) s = .next u
        ∧ ViewGone s u cl o ∧ ((∀ l ∈ cs, plainLoc l.1) → Performed 0 cs s u) ∧ u.sent = (s.sendStores false cs).sent
        ∧ Tab.get 0 (u.vset o.set).tags (2 * key + n % 2) = n + 1 ∧ Tab.get 0 (u.vset o.set).last key = n % 2 + 1
        ∧ (u.vset o.set).late = (s.vset o.set).late)
      ∧ ((j < (f.view v).emitted ∨ ∃ t, e = some t ∧ t ≤ s.sched.time) → ∃ u, exec (.evViewOpComplete cl) s = .next u
        ∧ ViewGone s u cl o ∧ (u.vset o.set).tags = (s.vset o.set).tags
        ∧ Tab.get 0 (u.vset o.set).late v = Tab.get 0 (s.vset o.set).late v + 1 ∧ (u.ints.stat).testBit 8 = true ∧ SameMemory s u)))

/-- R317, R329, R335: the view unit performs its operations, and the positions of samples and the coverage of triangles (its
choice is log 75, its reading log 76) (the clauses are ViewUnitClaim and ViewValuesClaim). -/
def Obligations.ViewUnitResults : Prop := ViewUnitClaim ∧ ViewValuesClaim

/-- R309, R312, R314 to R316, R320 to R322, R370: a waiting vset takes effect when every row is out; unlatched strips are
latched at BOUND; a row is emitted at its time, each tile from the slot of its frame, else from the slot last presented and MISS
counts, else with zeros; what the controller does at a moment goes before all else (log 77); a tile goes to the pixels of its
DisplayPort output that lie in the active area, or on its stream; pixels that no bound view covers are sent as zero;
a stream without credit drops the tile; a host write that covers Y commits the gaze pair. -/
def Obligations.DisplayResults : Prop :=
  (∀ (s : State) (k addr : Nat) (vs : List ViewRec), (s.vset k).waiting = some (addr, vs) → (s.vset k).allOut (s.vset k).cur = true →
    (s.vset k).allOut (s.vset k).prev = true → s.viewBusy k = false →
    (addr ≠ 0 → ∃ t, exec (.evVsetApply k) s = .next t
      ∧ Reshown s (s.setVset k { st := .bound, ctx := (s.vset k).ctx, addr := addr, views := vs }) t)
    ∧ (addr = 0 → ∃ t, exec (.evVsetApply k) s = .next t
      ∧ Reshown s (s.setVset k { st := .unbound, miss := (s.vset k).miss, late := (s.vset k).late }) t))
  ∧ (∀ (s : State) (out : Nat) (q : Nat × Nat × Nat × Nat), q ∈ s.shown out ↔
    ∃ e ∈ s.vsets, e.2.st ≠ .unbound ∧ ∃ r ∈ e.2.views, r.out = out ∧ q = (r.ox, r.oy, r.dw, r.dh))
  ∧ (∀ (s : State) (k v : Nat) (r : ViewRec) (f : Frame), (s.vset k).view? v = some r → (s.vset k).cur = some f →
    v < f.views.length → (∃ i < r.rh / 16, Tab.get none (f.view v).strips i = none) →
    (s.sched.time < f.openedAt + r.bound * usec → exec (.evBoundLatchExpiry k v) s = .refused .notEnabled)
    ∧ (f.openedAt + r.bound * usec ≤ s.sched.time → ∃ u y, exec (.evBoundLatchExpiry k v) s = .next u ∧ (u.vset k).cur = some y
      ∧ (∀ i < r.rh / 16, Tab.get none (y.view v).strips i =
          match Tab.get none (f.view v).strips i with
          | some b => some b
          | none => some (s.hBreaks r, f.openedAt + r.bound * usec))
      ∧ (∀ j, j ≠ k → u.vset j = s.vset j) ∧ u.groups = s.groups ∧ SameMemory s u))
  ∧ (∀ (s : State) (d : Due) (n : Nat), ControllerMoment s d n → n ≤ s.sched.time →
    ∃ d' n', ControllerMoment s d' n' ∧ n' ≤ n ∧ s.timed = some d')
  ∧ (∀ (s t : State) (d : Due), s.timed = some d → d s = .next t → Machine.step s = .next t)
  ∧ (∀ (s : State) (k v t : Nat) (r : ViewRec) (f : Frame), (s.vset k).view? v = some r → (s.vset k).cur = some f →
    (s.vset k).prev = none → v < f.views.length → (f.view v).emitted < r.dh / 32 →
    (s.vset k).emitTime v r f.num (f.view v).emitted = some t →
    (s.sched.time < t → exec (.evRowEmit k v) s = .refused .notEnabled)
    ∧ (t ≤ s.sched.time → ∃ u y, exec (.evRowEmit k v) s = .next u ∧ (u.vset k).cur = some y
      ∧ (y.view v).emitted = (f.view v).emitted + 1 ∧ Tab.get 0 (u.vset k).lastOut v = t
      ∧ u.sent = ((List.range (r.dw / 32)).foldl (fun s c => s.emitOne k v r f.num (f.view v).emitted c) s).sent
      ∧ u.groups = s.groups))
  ∧ (∀ (s : State) (k v num j c : Nat) (r : ViewRec),
    let x := s.vset k
    let key := tileKey r v c j
    (Tab.get 0 x.tags (2 * key + num % 2) = num + 1 →
      s.emitOne k v r num j c = (s.tileBytes x.ctx (r.slotAddr num c j)).1.emitTile k v r num c j
        (s.tileBytes x.ctx (r.slotAddr num c j)).2)
    ∧ (Tab.get 0 x.tags (2 * key + num % 2) ≠ num + 1 → Tab.get 0 x.last key = 0 →
      s.emitOne k v r num j c = s.emitTile k v r num c j (List.replicate 4096 0))
    ∧ (∀ p, Tab.get 0 x.tags (2 * key + num % 2) ≠ num + 1 → Tab.get 0 x.last key = p + 1 →
      let m := (s.setVset k { x with miss := Tab.set 0 x.miss v (Tab.get 0 x.miss v + 1) }).interrupt 8
      s.emitOne k v r num j c = (m.tileBytes x.ctx (r.slotAddr p c j)).1.emitTile k v r num c j (m.tileBytes x.ctx (r.slotAddr p c j)).2
        ∧ Tab.get 0 ((s.emitOne k v r num j c).vset k).miss v = Tab.get 0 x.miss v + 1
        ∧ ((s.emitOne k v r num j c).ints.stat).testBit 8 = true)
    ∧ (∀ p, r.slotAddr p c j = addOff r.tstore ((4096 * (p % 2 * (r.dw / 32 * (r.dh / 32)) + j * (r.dw / 32) + c) : ℕ) : ℤ))
    ∧ (∀ a s' ls, s.engBytes (s.homeDie x.ctx) x.ctx false false true a 4096 = (s', .ok ls) → (∀ l ∈ ls, plainLoc l) →
      (s.tileBytes x.ctx a).2 = ls.map (s'.readLoc 0)))
  ∧ (∀ (s : State) (k v num c j : Nat) (r : ViewRec) (bs : List Byte), r.out < 4 →
    let a := Tab.get (0, 0) s.dpout r.out
    ∃ px : List (Nat × Nat × Nat), (∀ x y w, (x, y, w) ∈ px ↔ x < a.1 ∧ y < a.2 ∧ ∃ i < 1024, x = r.ox + 32 * c + i % 32
        ∧ y = r.oy + 32 * j + i / 32 ∧ w = ofBytes ((bs.drop (4 * i)).take 3))
      ∧ s.emitTile k v r num c j bs = if px = [] then s else s.send (.pixels r.out px))
  ∧ (∀ (s : State) (k v num c j : Nat) (r : ViewRec) (bs : List Byte), 4 ≤ r.out →
    let q := Tab.get {} s.streams (r.out - 4)
    ((q.en = false ∨ s.portLive q.port = false) → s.emitTile k v r num c j bs = s)
    ∧ (q.en = true → s.portLive q.port = true → q.credit = 0 →
      s.emitTile k v r num c j bs = { s with streams := Tab.set {} s.streams (r.out - 4) { q with drop := q.drop + 1 } })
    ∧ (q.en = true → s.portLive q.port = true → q.credit ≠ 0 → k < 64 → v < 16 → c < 128 → j < 128 →
      (s.emitTile k v r num c j bs).sent = .tile (r.out - 4) q.dest
          (k + 2 ^ 8 * v + 2 ^ 16 * (num % 2 ^ 16) + 2 ^ 32 * c + 2 ^ 40 * j) (bs.map (fun b => b.toNat)) :: s.sent
        ∧ (Tab.get {} (s.emitTile k v r num c j bs).streams (r.out - 4)).credit = q.credit - 1))
  ∧ (∀ (s u : State) (k off size data : Nat), k < 64 → writeSize off size → off + size ≤ 16 → Awake s u →
    ∃ t x y, exec (.evGazeHostWrite k off size data) s = .next t
      ∧ (∀ j < 4, BitVec.extractLsb' (8 * j) 8 x = byteAfter (fun i => (u.gazeReg k).staged.extractLsb' (8 * i) 8) off size data j)
      ∧ (∀ j < 4, BitVec.extractLsb' (8 * j) 8 y =
          byteAfter (fun i => (u.gazeReg k).y.extractLsb' (8 * (i - 4)) 8) off size data (4 + j))
      ∧ t.gazeReg k = (if off < 8 ∧ 4 < off + size then { x := x, y := y, seq := (u.gazeReg k).seq + 1, staged := x }
          else { u.gazeReg k with staged := x })
      ∧ (∀ j, j ≠ k → t.gazeReg j = u.gazeReg j) ∧ { t with gazes := u.gazes, sched := u.sched, pools := u.pools, tmax := u.tmax, gauge := u.gauge } = u)
  ∧ (∀ (s : State) (out w h : Nat), s.pwr.trip = false → out < 4 → w < 65536 → h < 65536 → (w = 0 ↔ h = 0) →
    ∃ t, exec (.evDpOutputChange out w h) s = .next t ∧ Reshown s { s with dpout := Tab.set (0, 0) s.dpout out (w, h) } t)
  ∧ (∀ (s : State) (k n : Nat), s.pwr.trip = false → k < 4 → ∃ t, exec (.evTileCreditGrant k n) s = .next t
    ∧ Tab.get {} t.streams k = { Tab.get {} s.streams k with credit := (Tab.get {} s.streams k).credit + n }
    ∧ (∀ j, j ≠ k → Tab.get {} t.streams j = Tab.get {} s.streams j) ∧ { t with streams := s.streams, sched := s.sched, pools := s.pools, tmax := s.tmax, gauge := s.gauge } = s)



/-- R376, R377, R380, R382, R383: a cold reset clears the module, trains the enabled ports (inside the event, and READY is set
after it: log 34) and, where every step succeeds, ends with READY; a bad image starts the recovery loader, which serves no
link traffic and no work of firmware; a trip loses the contexts, and while it holds nothing from outside acts (which events
both cover is log 80); attestation takes one request at a time, and what it signs covers the nonce, the measurement, the
module and its keys as they stand at the request (log 58); a key slot that an installed context holds is neither loaded nor
cleared. -/
def Obligations.FirmwareResults : Prop :=
  (∀ (s : State) (b : Boot),
    let fw : Firmware := { version := b.version, minVersion := b.minVersion, devKey := b.devKey, serial := b.serial }
    let z : State := { resetOf s with code := if b.code384 then .sx8_384 else .sx8_512 }
    let good : Prop := b.imageOk = true ∧ b.updateComplete = true ∧ b.minVersion ≤ b.version
    (¬ good → exec (.evColdReset b) s = .next ({ z with fw := { fw with recovery := true } } : State).tick)
    ∧ (good → b.memoryOk = false → exec (.evColdReset b) s = .next ({ z with fw := fw } : State).tick)
    ∧ (good → b.memoryOk = true → ∃ t, exec (.evColdReset b) s = .next t ∧ t.modid.id = b.id % 4096
      ∧ ((∃ p < 32, (t.port p).st = .training) → t.pwr = {})
      ∧ ((∀ p < 32, (t.port p).st ≠ .training) → t.pwr = { ready := true, st := 0, aclk := 12 })
      ∧ (t.pwr.ready = true → t.modid.bridge = b.bridge ∧ (t.modid.hconf = true ↔ b.hconf = true ∧ b.bridge = false))
      ∧ t.fw = { fw with measure := b.measure } ∧ t.groups = [] ∧ t.teams = [] ∧ t.records = []
      ∧ (∀ k, (t.ctx k).st = .retired) ∧ (∀ k, Tab.get false t.keyFull k = false) ∧ (∀ k, (t.vset k).st = .unbound)
      ∧ (∀ d k, (t.fault d k).st = .free) ∧ (∀ p, (∀ l ∈ b.links, l.port ≠ p) → (t.port p).st = .down)
      ∧ (∀ l ∈ b.links, (∀ m ∈ b.links, m.port = l.port → m = l) → b.links.Nodup → l.port < 32 → l.lanes ≤ 8 → l.peer < 4096 →
          l.peerPort < 32 → (t.port l.port).st = if l.lanes < 2 then .down else if l.verified = false then .fenced
            else if l.lanes = 8 then .up else if l.lanes = 4 ∨ l.lanes = 2 then .degraded else .training)
      ∧ (∀ pa key, pa < 2 ^ 40 → t.readPa pa key = 0)))
  ∧ (∀ (s : State), s.pwr.trip = true → ∀ i, Outer i → exec i s = .refused .notEnabled)
  ∧ (∀ (s : State), s.fw.recovery = true → (∀ i, Loaders i → exec i s = .refused .notEnabled)
    ∧ ∀ (a b c d : Nat) (r : AppendMsg) (op : RemoteOp), exec (.evEntryAppend a r) s = .refused .notEnabled
      ∧ exec (.evRemoteAccess a b c d op) s = .refused .notEnabled)
  ∧ (∀ (s : State) (n : Nat), n < 256 → ∃ t, exec (.evTrip n) s = .next t ∧ t.pwr = { trip := true, tmax := n }
      ∧ (∀ p, (t.port p).st = .down) ∧ (∀ k, (t.ctx k).st = .retired) ∧ t.groups = [] ∧ t.sent = s.sent)
  ∧ (∀ (s u : State), Awake s u →
    (u.fw.busy = true → exec .evAttest s = .next u.tick)
    ∧ (u.fw.busy = false → ∃ t m, exec .evAttest s = .next t ∧ t.fw = { u.fw with busy := true, next := t.fw.next }
      ∧ (∀ k, m.testBit k = (decide (k < 256) && Tab.get false u.keyFull k)) ∧ t.fw.next.length = 114
      ∧ (∀ i < 114, nth 0 t.fw.next i = (Config.attestByte u.fw.devKey ((List.range 32).map (Tab.get 0 u.fw.nonce)
          ++ (List.range 64).map (fun j => nth 0 u.fw.measure j) ++ [u.modid.id, m]) i).toNat)
      ∧ { t with fw := u.fw, sched := u.sched, pools := u.pools, tmax := u.tmax, gauge := u.gauge } = u))
  ∧ (∀ (s : State), s.fw.busy = true → exec (.evAttestDone s.fw.next) s =
      .next ({ s with fw := { s.fw with busy := false, sig := s.fw.next, next := [] } } : State).tick)
  ∧ (∀ (s : State) sig, s.fw.busy = false ∨ sig ≠ s.fw.next → exec (.evAttestDone sig) s = .refused .notEnabled)
  ∧ (∀ (s : State) (k : Nat), s.pwr.trip = false → s.fw.recovery = false → k < 256 →
    let held : Prop := ∃ c ∈ s.ctxs, c.2.d.key = k ∧ c.2.st ∈ [CtxSt.resident, .running, .draining, .saved, .faulted]
    (held → exec (.evKeyLoad k) s = .next s.tick ∧ exec (.evKeyClear k) s = .next s.tick)
    ∧ (¬ held → (∃ t, exec (.evKeyLoad k) s = .next t ∧ Tab.get false t.keyFull k = true
        ∧ Tab.get 0 t.keyLoads k = (Tab.get 0 s.keyLoads k + 1) % 2 ^ 32
        ∧ (∀ j, j ≠ k → Tab.get false t.keyFull j = Tab.get false s.keyFull j)
        ∧ { t with keyFull := s.keyFull, keyLoads := s.keyLoads, sched := s.sched, pools := s.pools, tmax := s.tmax, gauge := s.gauge } = s)
      ∧ (∃ t, exec (.evKeyClear k) s = .next t ∧ Tab.get false t.keyFull k = false ∧ t.keyLoads = s.keyLoads
        ∧ (∀ j, j ≠ k → Tab.get false t.keyFull j = Tab.get false s.keyFull j)
        ∧ { t with keyFull := s.keyFull, sched := s.sched, pools := s.pools, tmax := s.tmax, gauge := s.gauge } = s)))

/-- R378 to R380: the power states: policy moves the module between P0, P1 and P2, standby only with no context Running or
Draining and every cluster gateable (log 33), all of which stay gated until it ends; a host access ends it; a throttle forces
P1 at 0.6 GHz until it ends, and in P2 the wake goes to P1 (log 36); a cluster with a group, an Open or Running window, a view
operation or a core record in use is not gated; a gated one returns zeros and absent lines. -/
def Obligations.PowerResults : Prop :=
  (∀ (s : State), s.pwr.ready = true → s.pwr.throt = false →
    (s.pwr.st = 1 → exec (.evPowerPolicyChange 0 12) s = .next (withPower s { s.pwr with st := 0, aclk := 12 }).tick)
    ∧ (∀ a, s.pwr.st ≤ 1 → 6 ≤ a → a ≤ 11 →
      exec (.evPowerPolicyChange 1 a) s = .next (withPower s { s.pwr with st := 1, aclk := a }).tick)
    ∧ (s.pwr.st = 0 → (∀ c ∈ s.ctxs, c.2.st ≠ .running ∧ c.2.st ≠ .draining) → (∀ cl < 640, s.mayGate cl = true) → ∃ t,
      exec (.evPowerPolicyChange 2 0) s = .next t ∧ t.pwr = { s.pwr with st := 2, aclk := 0 }
      ∧ (∀ cl < 640, (t.cluster cl).gated = true) ∧ (∀ pa key, t.readPa pa key = s.readPa pa key)
      ∧ (∀ core off, core < 2560 → off < 2 ^ 19 → t.readSp core off = 0)
      ∧ (∀ core line, core < 2560 → line < 4096 → t.present core line = false))
    ∧ (s.pwr.st = 0 → ((∃ c ∈ s.ctxs, c.2.st = .running ∨ c.2.st = .draining) ∨ ∃ cl < 640, s.mayGate cl = false) →
      exec (.evPowerPolicyChange 2 0) s = .refused .notEnabled))
  ∧ (∀ (s : State), s.pwr.st = 2 →
    (s.pwr.throt = false → exec (.evStandbyWake 12) s = .next (withPower s { s.pwr with st := 0, aclk := 12 }).tick)
    ∧ (s.pwr.throt = true → exec (.evStandbyWake 6) s = .next (withPower s { s.pwr with st := 1, aclk := 6 }).tick))
  ∧ (∀ (s : State) (n : Nat), s.pwr.trip = false → n < 115 → ∃ t, exec (.evThrottleOn n) s = .next t
    ∧ t.pwr.throt = true ∧ t.pwr.tmax = n ∧ (s.pwr.st ≠ 2 → t.pwr.st = 1 ∧ t.pwr.aclk = 6)
    ∧ (s.pwr.throt = false → (t.ints.stat).testBit 6 = true) ∧ (s.pwr.throt = true → t.ints = s.ints)
    ∧ { t with pwr := s.pwr, ints := s.ints, sent := s.sent, sched := s.sched, pools := s.pools, tmax := s.tmax, gauge := s.gauge } = s)
  ∧ (∀ (s : State) (n : Nat), n < 100 → s.pwr.throt = true →
    (s.pwr.st = 1 → exec (.evThrottleOff 12 n) s =
      .next (withPower s { s.pwr with throt := false, tmax := n, st := 0, aclk := 12 }).tick)
    ∧ (∀ a, s.pwr.st = 1 → 6 ≤ a → a ≤ 11 → exec (.evThrottleOff a n) s =
      .next (withPower s { s.pwr with throt := false, tmax := n, aclk := a }).tick)
    ∧ (s.pwr.st = 2 → exec (.evThrottleOff 0 n) s = .next (withPower s { s.pwr with throt := false, tmax := n }).tick))
  ∧ (∀ (s : State) (cl : Nat), s.pwr.trip = false → s.fw.recovery = false → cl < 640 → (s.cluster cl).gated = false →
    (s.mayGate cl = true → ∃ t, exec (.evUnitGate false cl) s = .next t ∧ (t.cluster cl).gated = true
      ∧ (∀ core off, core < 2560 → off < 2 ^ 19 → t.readSp core off = if core / 4 = cl then 0 else s.readSp core off)
      ∧ (∀ core line, core < 2560 → line < 4096 → t.present core line = if core / 4 = cl then false else s.present core line)
      ∧ (∀ core, core / 4 = cl → (t.pool core).stitch = [])
      ∧ (∀ pa key, t.readPa pa key = s.readPa pa key) ∧ t.groups = s.groups)
    ∧ (((∃ g ∈ s.groups, g.2.on = true ∧ g.2.core / 4 = cl) ∨ (∃ c ∈ s.ctxs, ∃ r ∈ c.2.coreRec, r.1 / 4 = cl)
        ∨ (s.cluster cl).viewq ≠ [] ∨ ∃ c ∈ s.cores, c.1 / 4 = cl ∧ ∃ w ∈ c.2.windows, w.2.st = .opened ∨ w.2.st = .running) →
      exec (.evUnitGate false cl) s = .refused .notEnabled))
  ∧ (∀ (s : State) (cl : Nat), (s.cluster cl).gated = true →
    (s.pwr.st ≠ 2 → ∃ t, exec (.evUnitWake false cl) s = .next t
      ∧ t.cluster cl = { s.cluster cl with gated := false } ∧ (∀ j, j ≠ cl → t.cluster j = s.cluster j)
      ∧ { t with clusters := s.clusters, sched := s.sched, pools := s.pools, tmax := s.tmax, gauge := s.gauge } = s)
    ∧ (s.pwr.st = 2 → exec (.evUnitWake false cl) s = .refused .notEnabled))
  ∧ (∀ (s : State) (k : Nat), s.pwr.trip = false → s.fw.recovery = false → k < 192 →
    (Tab.get false s.gatedSlices k = false → exec (.evUnitGate true k) s =
      .next ({ s with gatedSlices := Tab.set false s.gatedSlices k true } : State).tick)
    ∧ (Tab.get false s.gatedSlices k = true → exec (.evUnitWake true k) s =
      .next ({ s with gatedSlices := Tab.set false s.gatedSlices k false } : State).tick))

/-- R255, R361, R368, R369, R370, R376, R377, R382, R397: a write to the management register space: until READY is 1 it
changes nothing, but that the recovery loader takes it as bytes of a new image (log 80); a request splits into 8-byte
accesses, or is ignored (which ones, and what byte enables do, is log 78); the bytes it covers change under their access
codes; a register that does more acts once: a command of a link port or a context is that command's event; an interrupt sends
the table entry's message, or waits. -/
def Obligations.ManagementWriteResults : Prop :=
  (∀ (s : State) (a size data en : Nat), a + size ≤ 2 ^ 24 → s.pwr.ready = false → s.fw.recovery = false →
    exec (.evMgmtRegWrite a size ⟨data, en⟩) s = .next s.tick)
  ∧ (∀ (s : State) (a size data en : Nat), a + size ≤ 2 ^ 24 → s.fw.recovery = true → ∃ t,
    exec (.evMgmtRegWrite a size ⟨data, en⟩) s = .next t
      ∧ (∀ i < size, en.testBit i = true → Tab.get 0 t.fw.image (a + i) = (byteOf data i).toNat)
      ∧ (∀ b, (b < a ∨ a + size ≤ b ∨ en.testBit (b - a) = false) → Tab.get 0 t.fw.image b = Tab.get 0 s.fw.image b)
      ∧ { t with fw := s.fw, sched := s.sched, pools := s.pools, tmax := s.tmax, gauge := s.gauge } = s)
  ∧ (∀ (s u : State), Awake s u → u.fw.recovery = false →
    (∀ a n data en, a % 8 = 0 → 2 ≤ n → a + 8 * n ≤ 2 ^ 24 → exec (.evMgmtRegWrite a (8 * n) ⟨data, en⟩) s =
        .next ((List.range n).foldl (fun (z : State) i =>
          z.mgmtRequest (a + 8 * i) 8 (data / 2 ^ (64 * i) % 2 ^ 64) (en / 2 ^ (8 * i) % 256)) u).tick)
    ∧ (∀ a size data en, ¬ writeSize a size → (a % 8 ≠ 0 ∨ size % 8 ≠ 0) → a + size ≤ 2 ^ 24 →
        exec (.evMgmtRegWrite a size ⟨data, en⟩) s = .next u.tick)
    ∧ (∀ a size data en, writeSize a size → en % 2 ^ size = 0 → a + size ≤ 2 ^ 24 →
        exec (.evMgmtRegWrite a size ⟨data, en⟩) s = .next u.tick)
    ∧ (∀ d : Nat, exec (.evMgmtRegWrite 0xE000 4 ⟨d, 15⟩) s = .next (u.setInts (u.ints.stat &&& (1023 - d % 1024)) u.ints.en).tick)
    ∧ (∀ d : Nat, exec (.evMgmtRegWrite 0xE008 4 ⟨d, 15⟩) s = .next (u.setInts u.ints.stat (d % 1024)).tick)
    ∧ (∀ p < 32, u.pwr.trip = false → exec (.evMgmtRegWrite (0x60000 + 64 * p) 4 ⟨1, 15⟩) s = exec (.evLinkEnable p) u
        ∧ exec (.evMgmtRegWrite (0x60000 + 64 * p) 4 ⟨2, 15⟩) s = exec (.evLinkFence p) u
        ∧ exec (.evMgmtRegWrite (0x60000 + 64 * p) 4 ⟨3, 15⟩) s = exec (.evLinkDrain p) u
        ∧ exec (.evMgmtRegWrite (0x60000 + 64 * p) 4 ⟨4, 15⟩) s = exec (.evLinkDisable p) u)
    ∧ (∀ p < 32, ∀ d : Nat, d % 16 ∉ [1, 2, 3, 4] → exec (.evMgmtRegWrite (0x60000 + 64 * p) 4 ⟨d, 15⟩) s = .next u.tick)
    ∧ (∀ k < 64, ∀ d : Nat, d < 2 ^ 64 → exec (.evMgmtRegWrite (0x8000 + 32 * k) 8 ⟨d, 255⟩) s = exec (.evCtxdescWrite k d) s)
    ∧ (∀ k < 64, exec (.evMgmtRegWrite (0x8008 + 32 * k) 4 ⟨1, 15⟩) s = exec (.evInstall k) s
        ∧ exec (.evMgmtRegWrite (0x8008 + 32 * k) 4 ⟨2, 15⟩) s = exec (.evSuspend k) s
        ∧ exec (.evMgmtRegWrite (0x8008 + 32 * k) 4 ⟨3, 15⟩) s = exec (.evResume k true) s
        ∧ exec (.evMgmtRegWrite (0x8008 + 32 * k) 4 ⟨4, 15⟩) s = exec (.evRetire k) s
        ∧ exec (.evMgmtRegWrite (0x8008 + 32 * k) 4 ⟨2 ^ 30, 15⟩) s = .next (u.modCtx k (fun c => { c with err := false })).tick)
    ∧ (∀ k < 64, ∀ d : Nat, exec (.evMgmtRegWrite (0x8018 + 32 * k) 8 ⟨d, 255⟩) s =
        exec (.evEvpost k (d / 2 ^ 32 % 256) (BitVec.ofNat 32 d)) s)
    ∧ (∀ d < 8, ∀ k < 256, exec (.evMgmtRegWrite (0x1001C + 0x2000 * d + 32 * k) 4 ⟨1, 15⟩) s = exec (.evFaultReplay d k) s
        ∧ exec (.evMgmtRegWrite (0x1001C + 0x2000 * d + 32 * k) 4 ⟨2, 15⟩) s = exec (.evFaultAbort d k) s)
    ∧ (∀ d : Nat, u.pginv.busy = false → exec (.evMgmtRegWrite 0x2000 8 ⟨d, 255⟩) s =
        .next ({ u with pginv := { u.pginv with va := d % 2 ^ 52 } } : State).tick)
    ∧ (∀ d : Nat, d % 2 ^ 32 / 2 ^ 31 = 1 → exec (.evMgmtRegWrite 0x2008 4 ⟨d, 15⟩) s = exec (.evPginvStart (BitVec.ofNat 32 d)) s)
    ∧ (∀ d : Nat, d % 2 = 1 → exec (.evMgmtRegWrite 0x90040 4 ⟨d, 15⟩) s = exec .evAttest s)
    ∧ (∀ e < 64, ∀ d : Nat, d < 2 ^ 32 → ∃ t, exec (.evMgmtRegWrite (0x20000 + 0x200 * (e / 8) + 0x40 * (e % 8)) 4 ⟨d, 15⟩) s = .next t
        ∧ (t.engine (e / 8) (e % 8)).seed = (if d = 0 then 1 else BitVec.ofNat 32 d))
    ∧ (∀ k < 64, ∀ o < 64, ∀ d : Nat, o ≠ 63 → ∃ t, exec (.evMgmtRegWrite (0xC000 + 64 * k + o) 1 ⟨d, 1⟩) s = .next t
        ∧ Tab.get 0 t.appendBuf (64 * k + o) = d % 256 ∧ (∀ j, j ≠ 64 * k + o → Tab.get 0 t.appendBuf j = Tab.get 0 u.appendBuf j)
        ∧ { t with appendBuf := u.appendBuf, sched := u.sched, pools := u.pools, tmax := u.tmax, gauge := u.gauge } = u)
    ∧ (∀ k < 64, ∀ d : Nat, exec (.evMgmtRegWrite (0xC000 + 64 * k + 63) 1 ⟨d, 1⟩) s =
        .next (({ u with appendBuf := Tab.set 0 u.appendBuf (64 * k + 63) (d % 256) } : State).hostAppend k).tick)
    ∧ (∀ k < 4, ∀ d : Nat,
        let x : TStream := { Tab.get {} u.streams k with en := d.testBit 31, port := d / 2 ^ 12 % 32, dest := d % 2 ^ 12 }
        exec (.evMgmtRegWrite (0x62000 + 16 * k) 4 ⟨d, 15⟩) s = .next ({ u with streams := Tab.set {} u.streams k x } : State).tick)
    ∧ (∀ d : Nat, exec (.evMgmtRegWrite 0 4 ⟨d, 15⟩) s = .next u.tick))
  ∧ (∀ (s : State) (stat en b : Nat), b < 10 → s.modid.bridge = true → (s.ints.stat &&& s.ints.en).testBit b = false →
    (stat &&& en).testBit b = true →
    let word (i : Nat) : Nat := Tab.get 0 s.ints.table (4 * b + i)
    ((word 3).testBit 0 = false → .msix b (word 0 + 2 ^ 32 * word 1) (word 2) ∈ (s.setInts stat en).sent)
    ∧ ((word 3).testBit 0 = true → ((s.setInts stat en).ints.pending).testBit b = true))

/-- R359 to R361, R364, R367, R377: the link ports, the accesses of another module and the host window (the clauses are
LinkClaim and RemoteAccessClaim). That a refused access posts no fault is log 56, that BAR 4 reads and writes under no key log
7, which commands and accesses the recovery loader refuses log 80, and the numbers of the bridges log 70: the model's
readings. -/
def Obligations.LinkAndRemoteResults : Prop := LinkClaim ∧ RemoteAccessClaim

/-- R32, R33, R64, R90: what an operand code reads: a vector register of the lane, a scalar, an inline constant at the type of
the operand, or the literal; a 64-bit address operand reads a pair of registers. -/
def Obligations.OperandValues : Prop :=
  ∀ (r : Regs) (lit : Word) (t : Ty) (l : Nat),
    (∀ n < 128, readOperand r lit n t l = r.getV n l)
    ∧ (∀ n < 64, readOperand r lit (0x80 + n) t l = r.getS n)
    ∧ readOperand r lit 0xF0 t l = lit
    ∧ (∀ code, 0xC8 ≤ code → code ≤ 0xE0 →
        (t.width = 32 → readOperand r lit code t l = BitVec.ofInt 32 (constInt code))
        ∧ (t.width < 32 → t.isFloat = false →
            AllElements t (readOperand r lit code t l) (BitVec.ofInt t.width (constInt code)).toNat)
        ∧ (t.width < 32 → t.isFloat = true →
            AllElements t (readOperand r lit code t l) (roundTo t {} .rne (Val.ofInt (constInt code))).1))
    ∧ (∀ i x, constBits[i]? = some x →
        ((t.width = 32 ∨ 12 ≤ i) → readOperand r lit (0xE1 + i) t l = x)
        ∧ (t.width < 32 → i < 12 → t.isFloat = true →
            AllElements t (readOperand r lit (0xE1 + i) t l) (roundTo t {} .rne (decodeRaw .f32 x.toNat)).1)
        ∧ (i < 12 → (t = .i16 ∨ t = .b16) → AllElements t (readOperand r lit (0xE1 + i) t l)
            (BitVec.ofInt 16 (roundToInt .i16 .rne (decodeRaw .f32 x.toNat)).1).toNat)
        ∧ (i < 12 → (t = .i8 ∨ t = .b8) → AllElements t (readOperand r lit (0xE1 + i) t l)
            (BitVec.ofInt 8 (roundToInt .i8 .rne (decodeRaw .f32 x.toNat)).1).toNat)
        ∧ (i < 12 → (t = .n16 ∨ t = .n8) → AllElements t (readOperand r lit (0xE1 + i) t l)
            (BitVec.ofInt t.width (roundToInt t .rne (decodeRaw .f32 x.toNat)).1).toNat))
    ∧ (∀ n < 127, readPair r lit n l = (r.getV n l).toNat + 2 ^ 32 * (r.getV (n + 1) l).toNat)
    ∧ (∀ n < 63, readPair r lit (0x80 + n) l = (r.getS n).toNat + 2 ^ 32 * (r.getS (n + 1)).toNat)
    ∧ (∀ code, 0xC8 ≤ code → code ≤ 0xF0 → readPair r lit code l = (readOperand r lit code .b32 l).toNat)

/-- R95, R107, R122, R129, R131: the checks of an access in their order: the first condition that any lane meets raises its
trap, with the mask of the lanes that meet it and the lowest one's address; an address without a cached translation parks the
group for the walk; a leaf that does not let a write through is confirmed by a fresh walk before it raises PAGE or PROT;
absent lines of a load park it; else the access is performed, and the first write through a leaf sets D. Which leaf leaves a
full cache is log 10, and that D is set at issue, when every check has passed, is log 16. -/
def Obligations.AccessChecks : Prop :=
  ∀ (v : Env) (s : State) (k : AccKind) (as : List LaneAcc),
    (∀ (i : Nat) (c : Cause) (bad : LaneAcc → Bool), (earlyChecks v s k)[i]? = some (c, bad) → (∃ a ∈ as, bad a = true) →
      (∀ j < i, ∀ p, (earlyChecks v s k)[j]? = some p → ∀ a ∈ as, p.2 a = false) →
      CheckTraps (v.check s k as) (fun u => u = s) as c bad 0)
    ∧ (∀ va, (∀ p ∈ earlyChecks v s k, ∀ a ∈ as, p.2 a = false) →
      (vasOf v k as).find? (fun va => (v.leaf s va).isNone) = some va →
      ∃ f : Flow → Flow, v.check s k as = .park (s.modGroup v.g (fun x => x.modFlow f)) (.walk va k.write false))
    ∧ (∀ leaf : Nat → Leaf, (∀ p ∈ earlyChecks v s k, ∀ a ∈ as, p.2 a = false) →
      (∀ va ∈ vasOf v k as, v.leaf s va = some (leaf va)) → CachesFit v s k as leaf → k.write = true →
      (∃ va ∈ vasOf v k as, pteOpen (leaf va).pte = false) →
      let fresh (p : WalkEnd → Prop) : Prop := ∀ va ∈ vasOf v k as, pteOpen (leaf va).pte = false → p (s.walk (v.x.core / 320) v.c va)
      (fresh (fun w => ∃ l, w = .leaf l ∧ pteM l.pte = true ∧ pteA l.pte = true) →
        ∃ t p, v.check s k as = .park t p ∧ (p = .slotless ∨ ∃ d n, p = .fault d n) ∧ SameMemory s t)
      ∧ (fresh (fun w => ∃ r lv e pa, w = .fault r lv e pa) →
        ∃ t, ∃ va ∈ pagesOf (vasOf v k as), v.check s k as = .park t (.walk va true false) ∧ SameMemory s t)
      ∧ (fresh (fun w => ∃ l, w = .leaf l ∧ pteM l.pte = false ∧ pteW l.pte = false) →
        CheckTraps (v.check s k as) (fun u => fresh (fun w => ∃ l, w = .leaf l ∧ pteA l.pte = true) → SameMemory s u) as .prot
          (fun a => (v.x.vas k.space k.n a).any (fun va => !pteOpen (leaf va).pte)) 0))
    ∧ (∀ leaf : Nat → Leaf, Permitted v s k as leaf →
      let z : State := s.walked (Party.isGroup v.g)
      let found (u : State) : Prop := { u with tlb := s.tlb } = z
      let compressed : LaneAcc → Bool := fun a => (v.x.vas k.space k.n a).any (fun va => pteC (leaf va).pte)
      let locked : LaneAcc → Bool := fun a => k.locks && !(v.locked s k.space k.n k.write a).isEmpty
      ((∃ a ∈ as, compressed a = true) → CheckTraps (v.check s k as) found as .compr compressed 0)
      ∧ ((∀ a ∈ as, compressed a = false) → (∃ a ∈ as, locked a = true) →
        (∀ a ∈ as, ∀ n ∈ v.locked s k.space k.n k.write a, n < 64) →
        ∃ n, CheckTraps (v.check s k as) found as .rlock locked n ∧ (∃ a ∈ as, n ∈ v.locked s k.space k.n k.write a)
          ∧ ∀ a ∈ as, ∀ m ∈ v.locked s k.space k.n k.write a, n ≤ m)
      ∧ ((∀ a ∈ as, compressed a = false ∧ locked a = false) →
        let lines := linesOf (placesOf v s k as)
        (k.write = false → (∃ p ∈ lines, s.present p.1 p.2 = false) →
          ∃ u, v.check s k as = .park u (.absent (lines.filter (fun p => !s.present p.1 p.2))) ∧ found u)
        ∧ (k.write = false → (∀ p ∈ lines, s.present p.1 p.2 = true) → ∃ u, v.check s k as = .ok u (placesOf v s k as) ∧ found u)
        ∧ (k.write = true → (k.rows = true ∨ ∀ va ∈ vasOf v k as, pteD (leaf va).pte = true) →
          ∃ u, v.check s k as = .ok u (placesOf v s k as) ∧ found u)
        ∧ (∀ l, k.write = true → k.rows = false → vasOf v k as ≠ [] → (∀ va ∈ vasOf v k as, leaf va = l) → pteD l.pte = false →
          s.readPte l.entry (s.ctx v.c).d.key = l.pte →
          ∃ u, v.check s k as = .ok u (placesOf v s k as)
            ∧ SameMemory (z.writePaN l.entry (s.ctx v.c).d.key (toBytes 8 (l.pte ||| 64))) u
            ∧ ∀ va ∈ vasOf v k as, v.leaf u va = some { l with pte := l.pte ||| 64 })))

/-- R145 to R147: a trap queues its frame at %tfbase as one store of the group; where a handler is set and none is running,
every lane that has not exited goes to TRAPPC, ready and with a clear MR, %tdepth becomes 1 and %wdog 0; else the trap is
fatal: the group stops, and the context records the first one and drains. -/
def Obligations.TrapEntryResults : Prop :=
  ∀ (s : State) (g : Nat) (x : Group) (tm : Team) (t : Trap) (ipc npc cbase : Word) (imask : Mask) (l : Leaf),
    s.group g = some x → s.team x.team = some tm →
    s.cached (.core x.core) tm.ctx (x.ctl.tfbase % 2 ^ 52) = some l → pteM l.pte = false → pteW l.pte = true →
    pteC l.pte = false → pteD l.pte = true →
    let c := s.ctx tm.ctx
    let u := s.takeTrap g t ipc npc cbase imask
    SameMemory s u
    ∧ (c.d.trappc ≠ clearWord → x.ctl.tdepth = 0 →
      (∀ h, h ≠ g → u.group h = s.group h) ∧ ∃ y, u.group g = some y ∧ FrameQueued x y l t ipc npc cbase imask
        ∧ y.regs = x.regs ∧ y.ctl = { x.ctl with tdepth := 1, wdog0 := s.sched.now }
        ∧ y.flow.clause = none ∧ y.flow.park = none ∧ y.flow.round = 0 ∧ y.flow.stepAside = 0
        ∧ y.lanes.length = x.lanes.length
        ∧ ∀ (i : Nat) (a : Lane), x.lanes[i]? = some a → ∃ b, y.lanes[i]? = some b ∧ b.bypass = 0
          ∧ (a.st = .exited → b = { a with bypass := 0 })
          ∧ (a.st ≠ .exited → b.pc = c.d.trappc ∧ b.mr = clearWord ∧ b.cb = clearWord ∧ b.st = .ready))
    ∧ ((c.d.trappc = clearWord ∨ x.ctl.tdepth ≠ 0) →
      (∃ y, u.group g = some y ∧ FrameQueued x y l t ipc npc cbase imask ∧ y.regs = x.regs ∧ y.ctl = x.ctl
        ∧ y.lanes = x.lanes ∧ y.flow.clause = none ∧ y.flow.park = some .fatal ∧ y.flow.fatal = true)
      ∧ (u.ctx tm.ctx).fatal = true
      ∧ (c.fatal = false → (u.ctx tm.ctx).how = (if c.d.trappc = clearWord then 1 else 2)
          ∧ (u.ctx tm.ctx).cause = t.cause.code ∧ (u.ctx tm.ctx).frame = x.ctl.tfbase % 2 ^ 52 / 1024)
      ∧ (c.fatal = true → (u.ctx tm.ctx).how = c.how ∧ (u.ctx tm.ctx).cause = c.cause ∧ (u.ctx tm.ctx).frame = c.frame)
      ∧ (u.ctx tm.ctx).st = (if c.st = .running then .draining else c.st))

/-- The words of the rules' worked encodings decode to the instructions that stand beside them, and no word of them is lost: the
encoder gives them back. -/
def Obligations.DecodedWords : Prop :=
  ∀ p ∈ workedWords, decode p.1 = .ok p.2 ∧ encode p.2.1 = p.1

/-- A step runs the word at which a group's clause issue stands: the instruction that the clause's words decode to, with the
group in turn and nothing else changed, or ILL where they decode to none, as long as no moment of the view controller has come
and the word's port is free, for which it waits. A scheduled event happens if it can; a corrected soft error of a die counts
in its CERR (19_device R384); with nothing scheduled and no clause issue open, the first due event that can happen does, else
time passes (log 1: the order is the model's). -/
def Obligations.StepRunsWord : Prop :=
  (∀ (s : State) (g : Nat) (x : Group) (c : Clause), s.group g = some x → x.on = true → x.flow.clause = some c →
    x.flow.park = none → s.timed = none → s.portFree g x c = true →
    (∀ i n, decode (c.words.drop (c.pos - 1)) = .ok (i, n) →
      (s.sched.agenda = [] → s.sched.turn = some g → step s = exec i s)
      ∧ (∀ rest, s.sched.agenda = .word g :: rest →
        step s = exec i { s with sched := { s.sched with agenda := rest, turn := some g } }))
    ∧ (∀ why, decode (c.words.drop (c.pos - 1)) = .error why → s.sched.agenda = [] → s.sched.turn = some g →
      step s = .next (s.illWord g x c).tick))
  ∧ (∀ (s : State) (g : Nat) (x : Group) (c : Clause) (rest : List Move), s.group g = some x → x.flow.clause = some c → s.timed = none →
    (x.issuing = false ∨ s.portFree g x c = false) → s.sched.agenda = .word g :: rest →
    step s = .next ({ s with sched := { s.sched with agenda := rest } } : State).tick)
  ∧ (∀ (s : State) (d : Nat) (rest : List Move), s.timed = none → s.sched.agenda = .soft d :: rest → d < 8 →
    step s = .next ({ s with sched := { s.sched with agenda := rest }
                             cerr := if s.pwr.trip = true then s.cerr else Tab.set 0 s.cerr d (Tab.get 0 s.cerr d + 1) } : State).tick)
  ∧ (∀ (s : State) (i : Instr) (rest : List Move), s.timed = none → s.sched.agenda = .event i :: rest → i.enc = none →
    EventNext s i rest)
  ∧ (∀ s : State, s.timed = none → s.sched.agenda = [] → (∀ e ∈ s.groups, e.2.issuing = false) →
    (∀ (pre post : List Due) (d : Due) (t : State), s.due = pre ++ d :: post → (∀ e ∈ pre, ∀ u, e s ≠ .next u) →
      d s = .next t → step s = .next t)
    ∧ ((∀ d ∈ s.due, ∀ u, d s ≠ .next u) → step s = .next s.tick))
  ∧ (∀ (s : State) (nbits w n : Nat) (i : Instr), s.timed = none → (∀ e ∈ s.groups, e.2.core ≠ 0) →
    decode (tableWords nbits w) = .ok (i, n) →
    step (s.withFetchWord nbits w) = exec i (s.withFetchWord nbits w))

/-- What the rules give the machine at reset: memory reads zero (R376), no context, group, team or record is there (R140), no
fault slot, handle, window or view set is in use (R134, R250, R288, R314), the stochastic generators hold 1 and am0 to am7 0
(R57, R153, R255), the activation tables are zero between -1 and 1 (R299), %window is 96 (R300), the link ports are Down
(R360), the host interrupt registers and PWRSTAT read 0 (R369, R378), no key slot is full (R383); and every memory is
canonical. -/
def Obligations.ResetState : Prop :=
  let s := State.reset
  s.canonical ∧ (∀ pa key, pa < 2 ^ 40 → s.readPa pa key = 0)
    ∧ (∀ g, s.group g = none) ∧ (∀ t, s.team t = none) ∧ (∀ r, Tab.find s.records r = none)
    ∧ (∀ c, (s.ctx c).st = .retired ∧ (s.ctx c).busy = false ∧ (s.ctx c).err = false ∧ (s.ctx c).fatal = false)
    ∧ (∀ d k, (s.fault d k).st = .free) ∧ s.pginv = { va := 0, busy := false, err := false, kind := 0, ctx := 0 }
    ∧ (∀ k, (s.core k).srseed = 1 ∧ (∀ a, Tab.get 0 (s.core k).am a = 0) ∧ (s.core k).window = 96
        ∧ (s.pool k).stitch = [] ∧ (s.pool k).cells = []
        ∧ (∀ h, ((s.core k).handle h).st = .free) ∧ (∀ w, (Tab.get {} (s.core k).windows w).st = .free)
        ∧ (s.core k).holder = none ∧ (s.core k).tileq = []
        ∧ ∀ a, (Tab.get {} (s.core k).acts a).live.lo = 0xBF800000 ∧ (Tab.get {} (s.core k).acts a).live.hi = 0x3F800000
            ∧ (Tab.get {} (s.core k).acts a).live.segs = [] ∧ (Tab.get {} (s.core k).acts a).gen = 0)
    ∧ (∀ e, (Tab.get {} s.engines e).seed = 1 ∧ (Tab.get {} s.engines e).err.valid = false)
    ∧ (∀ v, (Tab.get {} s.vsets v).st = .unbound ∧ (Tab.get {} s.vsets v).f = 0)
    ∧ (∀ p, (s.port p).st = .down ∧ (s.port p).lanes = 0 ∧ (s.port p).retry = 0)
    ∧ s.ints.stat = 0 ∧ s.ints.en = 0 ∧ s.ints.grp = 0 ∧ s.pwr = { ready := false, trip := false, throt := false, tmax := 0, aclk := 0, st := 0 }
    ∧ (∀ k, Tab.get false s.keyFull k = false ∧ Tab.get 0 s.keyLoads k = 0)

/-- R30 to R36: no bit of an encoding is lost either way. The words of a well-formed instruction decode to it, whatever
follows them, with every field at every value its encoding admits; and whatever words decode to an instruction, it is well
formed and its words are those. -/
def Obligations.RoundTrip : Prop :=
  (∀ (i : Instr) (rest : List Word), i.wf = true → i.enc ≠ none →
    decode (encode i ++ rest) = .ok (i, (encode i).length))
  ∧ (∀ (ws : List Word) (i : Instr) (n : Nat), decode ws = .ok (i, n) →
    i.wf = true ∧ n ≤ ws.length ∧ encode i = ws.take n)

/-- The invariant that every step keeps: no memory lists an address twice, out of order, or with the value that an unlisted
address reads as (log 5), so that memories that read alike are equal. -/
def Obligations.CanonicalKept : Prop :=
  ∀ s t : State, s.canonical → step s = .next t → t.canonical
end

