-- ==== Sys2Proof/Laws/PerInstr.lean ====
section
/-!
SUPPORT. For each instruction: its encoding breaks no rule of R37 where it is well formed, and names the instruction and no other
(02_encoding R30, R31, R36).
-/
namespace Sys2Proof.Laws.Encoding

open Sys2Proof Sys2Proof.Machine

/-- The encoding of a well-formed instruction is legal, and names that instruction. An event has no encoding. -/
def Statement (i : Instr) : Prop := i.wf = true → ∀ e, i.enc = some e → e.illegal = none ∧ e.instr = some i

/-- The encoding of a well-formed instruction is legal. -/
theorem legal_of_wf (i : Instr) (e : Enc) (h : i.wf = true) (he : i.enc = some e) : e.illegal = none := by
  unfold Instr.wf at h
  rw [he] at h
  simp only [Bool.and_eq_true, decide_eq_true_eq] at h
  exact h.1

/-- An instruction whose encoding names it has the statement. -/
theorem of_instr (i : Instr) (e : Enc) (he : i.enc = some e) (h : i.wf = true → e.instr = some i) : Statement i := by
  intro hw e' he'
  rw [he] at he'; injection he' with he'; subst he'
  exact ⟨legal_of_wf i _ hw he, h hw⟩

/-- An event has the statement. -/
theorem of_event (i : Instr) (he : i.enc = none) : Statement i := by
  intro _ e h; rw [he] at h; cases h

/-- The number of two fields side by side. -/
theorem toNat_app {m n : Nat} (x : BitVec m) (y : BitVec n) : (x ++ y).toNat = x.toNat * 2 ^ n + y.toNat := by
  rw [BitVec.toNat_append, ← Nat.shiftLeft_add_eq_or_of_lt y.isLt, Nat.shiftLeft_eq]

/-- The lower of two fields. -/
theorem low_app {m n : Nat} (x : BitVec m) (y : BitVec n) : (x ++ y).extractLsb' 0 n = y := by
  apply BitVec.eq_of_getLsbD_eq
  intro i hi
  simp [BitVec.getLsbD_append, hi]

/-- The upper of two fields. -/
theorem high_app {m n : Nat} (x : BitVec m) (y : BitVec n) : (x ++ y).extractLsb' n m = x := by
  apply BitVec.eq_of_getLsbD_eq
  intro i hi
  simp [BitVec.getLsbD_append, hi]

/-- The fields of a comparison, taken apart and put together (R30). -/
theorem encVc_fields (w : VcWord) :
    (⟨w.guard, (w.cond ++ w.qd).extractLsb' 3 4, (w.cond ++ w.qd).extractLsb' 0 3, w.a, w.b, w.lit⟩ : VcWord) = w := by
  rw [high_app, low_app]

/-- The fields of the short memory format, taken apart and put together (R30). -/
theorem encSm_fields (w : ShortMem) :
    (⟨w.guard, w.r, w.a, (BitVec.ofBool w.fs ++ BitVec.ofBool w.sp ++ w.off).getLsbD 7,
      (BitVec.ofBool w.fs ++ BitVec.ofBool w.sp ++ w.off).getLsbD 6,
      (BitVec.ofBool w.fs ++ BitVec.ofBool w.sp ++ w.off).extractLsb' 0 6, w.lit⟩ : ShortMem) = w := by
  have h1 : (BitVec.ofBool w.fs ++ BitVec.ofBool w.sp ++ w.off).getLsbD 7 = w.fs := by
    rw [BitVec.getLsbD_append, BitVec.getLsbD_append]; cases w.fs <;> rfl
  have h2 : (BitVec.ofBool w.fs ++ BitVec.ofBool w.sp ++ w.off).getLsbD 6 = w.sp := by
    rw [BitVec.getLsbD_append, BitVec.getLsbD_append]; cases w.sp <;> rfl
  rw [low_app, h1, h2]

/-- A one-word SC encoding names the instruction of its minor. -/
theorem encSc_instr (m : BitVec 5) (w : ScWord) (h : m ≠ 31) : (encSc m w).instr = scInstr m.toNat w := by
  have hm : scMinor (encSc m w).t = m.toNat := by
    have := w.d.isLt
    simp only [scMinor, encSc, toNat_app, BitVec.extractLsb'_toNat, Nat.shiftRight_zero]
    have := m.isLt
    omega
  have hd : (encSc m w).t.d.extractLsb' 0 6 = w.d := low_app _ _
  have hn : m.toNat ≠ 31 := fun e => h (BitVec.eq_of_toNat_eq e)
  simp only [Enc.instr, show (encSc m w).major.toNat = 27 from rfl, hm, hd, hn]
  rfl

/-- An SC escape names the instruction of its minor. -/
theorem encSx_instr (m : BitVec 12) (w : SxWord) : (encSx m w).instr = sxInstr m.toNat w := by
  have hm : scMinor (encSx m w).t = 31 := by
    have := w.d.isLt
    simp only [scMinor, encSx, toNat_app]
    simp; omega
  have hd : (encSx m w).t.d.extractLsb' 0 6 = w.d := low_app _ _
  simp only [Enc.instr, show (encSx m w).major.toNat = 27 from rfl, hm, hd]
  rfl

/-- A CF encoding names the instruction of its minor. -/
theorem encCf_instr (m : BitVec 4) (w : CfWord) : (encCf m w).instr = cfInstr m.toNat w := by
  have hm : cfMinor (encCf m w).t = m.toNat := by
    have h1 := (w.pay.extractLsb' 16 3).isLt
    have h2 := m.isLt
    simp only [cfMinor, encCf, toNat_app, bits]
    rw [Nat.shiftRight_eq_div_pow]; simp; omega
  have hp : cfPay (encCf m w).t = w.pay := by
    simp only [cfPay, encCf, low_app]
    apply BitVec.eq_of_toNat_eq
    have := w.pay.isLt
    simp only [toNat_app, BitVec.extractLsb'_toNat, Nat.shiftRight_eq_div_pow]
    omega
  simp only [Enc.instr, show (encCf m w).major.toNat = 28 from rfl, hm, hp]
  rfl

/-- A VX encoding names the instruction of its operation. -/
theorem encVx_instr (op : BitVec 8) (w : VxWord) : (encVx op w).instr = vxInstr op.toNat w := by
  have h1 : (op ++ w.ty).extractLsb' 4 8 = op := high_app _ _
  have h2 : (op ++ w.ty).extractLsb' 0 4 = w.ty := low_app _ _
  simp only [Enc.instr, encVx, h1, h2]
  rfl

theorem vaAddI32 (w : VaWord) : Statement (.vaAddI32 w) := of_instr _ _ rfl (fun _ => rfl)
theorem vaSubI32 (w : VaWord) : Statement (.vaSubI32 w) := of_instr _ _ rfl (fun _ => rfl)
theorem vaMulI32 (w : VaWord) : Statement (.vaMulI32 w) := of_instr _ _ rfl (fun _ => rfl)
theorem vaAndB32 (w : VaWord) : Statement (.vaAndB32 w) := of_instr _ _ rfl (fun _ => rfl)
theorem vaOrB32 (w : VaWord) : Statement (.vaOrB32 w) := of_instr _ _ rfl (fun _ => rfl)
theorem vaXorB32 (w : VaWord) : Statement (.vaXorB32 w) := of_instr _ _ rfl (fun _ => rfl)
theorem vaShlB32 (w : VaWord) : Statement (.vaShlB32 w) := of_instr _ _ rfl (fun _ => rfl)
theorem vaShrN32 (w : VaWord) : Statement (.vaShrN32 w) := of_instr _ _ rfl (fun _ => rfl)
theorem vaShrI32 (w : VaWord) : Statement (.vaShrI32 w) := of_instr _ _ rfl (fun _ => rfl)
theorem vaMinI32 (w : VaWord) : Statement (.vaMinI32 w) := of_instr _ _ rfl (fun _ => rfl)
theorem vaMaxI32 (w : VaWord) : Statement (.vaMaxI32 w) := of_instr _ _ rfl (fun _ => rfl)
theorem vaMinN32 (w : VaWord) : Statement (.vaMinN32 w) := of_instr _ _ rfl (fun _ => rfl)
theorem vaMaxN32 (w : VaWord) : Statement (.vaMaxN32 w) := of_instr _ _ rfl (fun _ => rfl)
theorem vaAddF32 (w : VaWord) : Statement (.vaAddF32 w) := of_instr _ _ rfl (fun _ => rfl)
theorem vaSubF32 (w : VaWord) : Statement (.vaSubF32 w) := of_instr _ _ rfl (fun _ => rfl)
theorem vaMulF32 (w : VaWord) : Statement (.vaMulF32 w) := of_instr _ _ rfl (fun _ => rfl)
theorem vaMinF32 (w : VaWord) : Statement (.vaMinF32 w) := of_instr _ _ rfl (fun _ => rfl)
theorem vaMaxF32 (w : VaWord) : Statement (.vaMaxF32 w) := of_instr _ _ rfl (fun _ => rfl)
theorem vaAndnB32 (w : VaWord) : Statement (.vaAndnB32 w) := of_instr _ _ rfl (fun _ => rfl)
theorem vaMovB32 (w : VaWord) : Statement (.vaMovB32 w) := of_instr _ _ rfl (fun _ => rfl)
theorem cmpInt (w : VcWord) : Statement (.cmpInt w) := of_instr _ _ rfl (fun _ => congrArg (some ∘ Instr.cmpInt) (encVc_fields w))
theorem cmpFloat (w : VcWord) : Statement (.cmpFloat w) := of_instr _ _ rfl (fun _ => congrArg (some ∘ Instr.cmpFloat) (encVc_fields w))
theorem ldo (w : ShortMem) : Statement (.ldo w) := of_instr _ _ rfl (fun _ => congrArg (some ∘ Instr.ldo) (encSm_fields w))
theorem sto (w : ShortMem) : Statement (.sto w) := of_instr _ _ rfl (fun _ => congrArg (some ∘ Instr.sto) (encSm_fields w))
theorem scAddI32 (w : ScWord) : Statement (.scAddI32 w) := of_instr _ _ rfl (fun _ => encSc_instr _ w (by decide))
theorem scSubI32 (w : ScWord) : Statement (.scSubI32 w) := of_instr _ _ rfl (fun _ => encSc_instr _ w (by decide))
theorem scMulI32 (w : ScWord) : Statement (.scMulI32 w) := of_instr _ _ rfl (fun _ => encSc_instr _ w (by decide))
theorem scAndB32 (w : ScWord) : Statement (.scAndB32 w) := of_instr _ _ rfl (fun _ => encSc_instr _ w (by decide))
theorem scOrB32 (w : ScWord) : Statement (.scOrB32 w) := of_instr _ _ rfl (fun _ => encSc_instr _ w (by decide))
theorem scXorB32 (w : ScWord) : Statement (.scXorB32 w) := of_instr _ _ rfl (fun _ => encSc_instr _ w (by decide))
theorem scShlB32 (w : ScWord) : Statement (.scShlB32 w) := of_instr _ _ rfl (fun _ => encSc_instr _ w (by decide))
theorem scShrN32 (w : ScWord) : Statement (.scShrN32 w) := of_instr _ _ rfl (fun _ => encSc_instr _ w (by decide))
theorem scShrI32 (w : ScWord) : Statement (.scShrI32 w) := of_instr _ _ rfl (fun _ => encSc_instr _ w (by decide))
theorem scMinI32 (w : ScWord) : Statement (.scMinI32 w) := of_instr _ _ rfl (fun _ => encSc_instr _ w (by decide))
theorem scMaxI32 (w : ScWord) : Statement (.scMaxI32 w) := of_instr _ _ rfl (fun _ => encSc_instr _ w (by decide))
theorem scMinN32 (w : ScWord) : Statement (.scMinN32 w) := of_instr _ _ rfl (fun _ => encSc_instr _ w (by decide))
theorem scMaxN32 (w : ScWord) : Statement (.scMaxN32 w) := of_instr _ _ rfl (fun _ => encSc_instr _ w (by decide))
theorem scMovB32 (w : ScWord) : Statement (.scMovB32 w) := of_instr _ _ rfl (fun _ => encSc_instr _ w (by decide))
theorem scSltI32 (w : ScWord) : Statement (.scSltI32 w) := of_instr _ _ rfl (fun _ => encSc_instr _ w (by decide))
theorem scSltN32 (w : ScWord) : Statement (.scSltN32 w) := of_instr _ _ rfl (fun _ => encSc_instr _ w (by decide))
theorem scSeqB32 (w : ScWord) : Statement (.scSeqB32 w) := of_instr _ _ rfl (fun _ => encSc_instr _ w (by decide))
theorem scPopcB32 (w : ScWord) : Statement (.scPopcB32 w) := of_instr _ _ rfl (fun _ => encSc_instr _ w (by decide))
theorem scClzB32 (w : ScWord) : Statement (.scClzB32 w) := of_instr _ _ rfl (fun _ => encSc_instr _ w (by decide))
theorem scAddF32 (w : ScWord) : Statement (.scAddF32 w) := of_instr _ _ rfl (fun _ => encSc_instr _ w (by decide))
theorem scMulF32 (w : ScWord) : Statement (.scMulF32 w) := of_instr _ _ rfl (fun _ => encSc_instr _ w (by decide))
theorem scMinF32 (w : ScWord) : Statement (.scMinF32 w) := of_instr _ _ rfl (fun _ => encSc_instr _ w (by decide))
theorem scMaxF32 (w : ScWord) : Statement (.scMaxF32 w) := of_instr _ _ rfl (fun _ => encSc_instr _ w (by decide))
theorem scMad (w : SxWord) : Statement (.scMad w) := of_instr _ _ rfl (fun _ => encSx_instr _ w)
theorem scFma (w : SxWord) : Statement (.scFma w) := of_instr _ _ rfl (fun _ => encSx_instr _ w)
theorem scBfe (w : SxWord) : Statement (.scBfe w) := of_instr _ _ rfl (fun _ => encSx_instr _ w)
theorem scBfi (w : SxWord) : Statement (.scBfi w) := of_instr _ _ rfl (fun _ => encSx_instr _ w)
theorem scCvt (w : SxWord) : Statement (.scCvt w) := of_instr _ _ rfl (fun _ => encSx_instr _ w)
theorem scSel (w : SxWord) : Statement (.scSel w) := of_instr _ _ rfl (fun _ => encSx_instr _ w)
theorem cfBra (w : CfWord) : Statement (.cfBra w) := of_instr _ _ rfl (fun _ => encCf_instr _ w)
theorem cfJmp (w : CfWord) : Statement (.cfJmp w) := of_instr _ _ rfl (fun _ => encCf_instr _ w)
theorem cfCall (w : CfWord) : Statement (.cfCall w) := of_instr _ _ rfl (fun _ => encCf_instr _ w)
theorem cfRet (w : CfWord) : Statement (.cfRet w) := of_instr _ _ rfl (fun _ => encCf_instr _ w)
theorem cfBrx (w : CfWord) : Statement (.cfBrx w) := of_instr _ _ rfl (fun _ => encCf_instr _ w)
theorem cfCallx (w : CfWord) : Statement (.cfCallx w) := of_instr _ _ rfl (fun _ => encCf_instr _ w)
theorem cfMeet (w : CfWord) : Statement (.cfMeet w) := of_instr _ _ rfl (fun _ => encCf_instr _ w)
theorem cfExit (w : CfWord) : Statement (.cfExit w) := of_instr _ _ rfl (fun _ => encCf_instr _ w)
theorem cfKill (w : CfWord) : Statement (.cfKill w) := of_instr _ _ rfl (fun _ => encCf_instr _ w)
theorem cfYield (w : CfWord) : Statement (.cfYield w) := of_instr _ _ rfl (fun _ => encCf_instr _ w)
theorem cfJz (w : CfWord) : Statement (.cfJz w) := of_instr _ _ rfl (fun _ => encCf_instr _ w)
theorem cfJnz (w : CfWord) : Statement (.cfJnz w) := of_instr _ _ rfl (fun _ => encCf_instr _ w)
theorem cfNop (w : CfWord) : Statement (.cfNop w) := of_instr _ _ rfl (fun _ => encCf_instr _ w)
theorem vxAdd (w : VxWord) : Statement (.vxAdd w) := of_instr _ _ rfl (fun _ => encVx_instr _ w)
theorem vxSub (w : VxWord) : Statement (.vxSub w) := of_instr _ _ rfl (fun _ => encVx_instr _ w)
theorem vxMul (w : VxWord) : Statement (.vxMul w) := of_instr _ _ rfl (fun _ => encVx_instr _ w)
theorem vxAnd (w : VxWord) : Statement (.vxAnd w) := of_instr _ _ rfl (fun _ => encVx_instr _ w)
theorem vxOr (w : VxWord) : Statement (.vxOr w) := of_instr _ _ rfl (fun _ => encVx_instr _ w)
theorem vxXor (w : VxWord) : Statement (.vxXor w) := of_instr _ _ rfl (fun _ => encVx_instr _ w)
theorem vxShl (w : VxWord) : Statement (.vxShl w) := of_instr _ _ rfl (fun _ => encVx_instr _ w)
theorem vxShr (w : VxWord) : Statement (.vxShr w) := of_instr _ _ rfl (fun _ => encVx_instr _ w)
theorem vxMin (w : VxWord) : Statement (.vxMin w) := of_instr _ _ rfl (fun _ => encVx_instr _ w)
theorem vxMax (w : VxWord) : Statement (.vxMax w) := of_instr _ _ rfl (fun _ => encVx_instr _ w)
theorem vxAndn (w : VxWord) : Statement (.vxAndn w) := of_instr _ _ rfl (fun _ => encVx_instr _ w)
theorem vxMov (w : VxWord) : Statement (.vxMov w) := of_instr _ _ rfl (fun _ => encVx_instr _ w)
theorem vxAdds (w : VxWord) : Statement (.vxAdds w) := of_instr _ _ rfl (fun _ => encVx_instr _ w)
theorem vxSubs (w : VxWord) : Statement (.vxSubs w) := of_instr _ _ rfl (fun _ => encVx_instr _ w)
theorem vxMulhi (w : VxWord) : Statement (.vxMulhi w) := of_instr _ _ rfl (fun _ => encVx_instr _ w)
theorem vxMad (w : VxWord) : Statement (.vxMad w) := of_instr _ _ rfl (fun _ => encVx_instr _ w)
theorem vxAbs (w : VxWord) : Statement (.vxAbs w) := of_instr _ _ rfl (fun _ => encVx_instr _ w)
theorem vxNeg (w : VxWord) : Statement (.vxNeg w) := of_instr _ _ rfl (fun _ => encVx_instr _ w)
theorem vxLea (w : VxWord) : Statement (.vxLea w) := of_instr _ _ rfl (fun _ => encVx_instr _ w)
theorem vxBfe (w : VxWord) : Statement (.vxBfe w) := of_instr _ _ rfl (fun _ => encVx_instr _ w)
theorem vxBfi (w : VxWord) : Statement (.vxBfi w) := of_instr _ _ rfl (fun _ => encVx_instr _ w)
theorem vxFshl (w : VxWord) : Statement (.vxFshl w) := of_instr _ _ rfl (fun _ => encVx_instr _ w)
theorem vxFshr (w : VxWord) : Statement (.vxFshr w) := of_instr _ _ rfl (fun _ => encVx_instr _ w)
theorem vxPopc (w : VxWord) : Statement (.vxPopc w) := of_instr _ _ rfl (fun _ => encVx_instr _ w)
theorem vxClz (w : VxWord) : Statement (.vxClz w) := of_instr _ _ rfl (fun _ => encVx_instr _ w)
theorem vxBrev (w : VxWord) : Statement (.vxBrev w) := of_instr _ _ rfl (fun _ => encVx_instr _ w)
theorem vxCmp (w : VxWord) : Statement (.vxCmp w) := of_instr _ _ rfl (fun _ => encVx_instr _ w)
theorem vxFma (w : VxWord) : Statement (.vxFma w) := of_instr _ _ rfl (fun _ => encVx_instr _ w)
theorem vxClamp (w : VxWord) : Statement (.vxClamp w) := of_instr _ _ rfl (fun _ => encVx_instr _ w)
theorem vxFrnd (w : VxWord) : Statement (.vxFrnd w) := of_instr _ _ rfl (fun _ => encVx_instr _ w)
theorem vxFclass (w : VxWord) : Statement (.vxFclass w) := of_instr _ _ rfl (fun _ => encVx_instr _ w)
theorem vxRcp (w : VxWord) : Statement (.vxRcp w) := of_instr _ _ rfl (fun _ => encVx_instr _ w)
theorem vxRsq (w : VxWord) : Statement (.vxRsq w) := of_instr _ _ rfl (fun _ => encVx_instr _ w)
theorem vxSqrt (w : VxWord) : Statement (.vxSqrt w) := of_instr _ _ rfl (fun _ => encVx_instr _ w)
theorem vxExp2 (w : VxWord) : Statement (.vxExp2 w) := of_instr _ _ rfl (fun _ => encVx_instr _ w)
theorem vxLog2 (w : VxWord) : Statement (.vxLog2 w) := of_instr _ _ rfl (fun _ => encVx_instr _ w)
theorem vxSinpi (w : VxWord) : Statement (.vxSinpi w) := of_instr _ _ rfl (fun _ => encVx_instr _ w)
theorem vxCospi (w : VxWord) : Statement (.vxCospi w) := of_instr _ _ rfl (fun _ => encVx_instr _ w)
theorem vxTanh (w : VxWord) : Statement (.vxTanh w) := of_instr _ _ rfl (fun _ => encVx_instr _ w)
theorem vxSigm (w : VxWord) : Statement (.vxSigm w) := of_instr _ _ rfl (fun _ => encVx_instr _ w)
theorem vxSel (w : VxWord) : Statement (.vxSel w) := of_instr _ _ rfl (fun _ => encVx_instr _ w)
theorem vxPand (w : VxWord) : Statement (.vxPand w) := of_instr _ _ rfl (fun _ => encVx_instr _ w)
theorem vxPor (w : VxWord) : Statement (.vxPor w) := of_instr _ _ rfl (fun _ => encVx_instr _ w)
theorem vxPxor (w : VxWord) : Statement (.vxPxor w) := of_instr _ _ rfl (fun _ => encVx_instr _ w)
theorem vxPnot (w : VxWord) : Statement (.vxPnot w) := of_instr _ _ rfl (fun _ => encVx_instr _ w)
theorem vxCvt (w : VxWord) : Statement (.vxCvt w) := of_instr _ _ rfl (fun _ => encVx_instr _ w)
theorem vxPack (w : VxWord) : Statement (.vxPack w) := of_instr _ _ rfl (fun _ => encVx_instr _ w)
theorem vxUnpack (w : VxWord) : Statement (.vxUnpack w) := of_instr _ _ rfl (fun _ => encVx_instr _ w)
theorem xlLpullAbs (w : TwoWord) : Statement (.xlLpullAbs w) := of_instr _ _ rfl (fun _ => rfl)
theorem xlLpullBel (w : TwoWord) : Statement (.xlLpullBel w) := of_instr _ _ rfl (fun _ => rfl)
theorem xlLpullAbv (w : TwoWord) : Statement (.xlLpullAbv w) := of_instr _ _ rfl (fun _ => rfl)
theorem xlLpullXor (w : TwoWord) : Statement (.xlLpullXor w) := of_instr _ _ rfl (fun _ => rfl)
theorem xlBcast (w : TwoWord) : Statement (.xlBcast w) := of_instr _ _ rfl (fun _ => rfl)
theorem xlLpeek (w : TwoWord) : Statement (.xlLpeek w) := of_instr _ _ rfl (fun _ => rfl)
theorem xlLpoke (w : TwoWord) : Statement (.xlLpoke w) := of_instr _ _ rfl (fun _ => rfl)
theorem xlVoteAll (w : TwoWord) : Statement (.xlVoteAll w) := of_instr _ _ rfl (fun _ => rfl)
theorem xlVoteAny (w : TwoWord) : Statement (.xlVoteAny w) := of_instr _ _ rfl (fun _ => rfl)
theorem xlVoteEq (w : TwoWord) : Statement (.xlVoteEq w) := of_instr _ _ rfl (fun _ => rfl)
theorem xlBallot (w : TwoWord) : Statement (.xlBallot w) := of_instr _ _ rfl (fun _ => rfl)
theorem xlScanAdd (w : TwoWord) : Statement (.xlScanAdd w) := of_instr _ _ rfl (fun _ => rfl)
theorem xlScanMin (w : TwoWord) : Statement (.xlScanMin w) := of_instr _ _ rfl (fun _ => rfl)
theorem xlScanMax (w : TwoWord) : Statement (.xlScanMax w) := of_instr _ _ rfl (fun _ => rfl)
theorem xlRedAdd (w : TwoWord) : Statement (.xlRedAdd w) := of_instr _ _ rfl (fun _ => rfl)
theorem xlRedMin (w : TwoWord) : Statement (.xlRedMin w) := of_instr _ _ rfl (fun _ => rfl)
theorem xlRedMax (w : TwoWord) : Statement (.xlRedMax w) := of_instr _ _ rfl (fun _ => rfl)
theorem xlRedAnd (w : TwoWord) : Statement (.xlRedAnd w) := of_instr _ _ rfl (fun _ => rfl)
theorem xlRedOr (w : TwoWord) : Statement (.xlRedOr w) := of_instr _ _ rfl (fun _ => rfl)
theorem xlMatch (w : TwoWord) : Statement (.xlMatch w) := of_instr _ _ rfl (fun _ => rfl)
theorem mxLd (w : TwoWord) : Statement (.mxLd w) := of_instr _ _ rfl (fun _ => rfl)
theorem mxSt (w : TwoWord) : Statement (.mxSt w) := of_instr _ _ rfl (fun _ => rfl)
theorem mxLdX2 (w : TwoWord) : Statement (.mxLdX2 w) := of_instr _ _ rfl (fun _ => rfl)
theorem mxStX2 (w : TwoWord) : Statement (.mxStX2 w) := of_instr _ _ rfl (fun _ => rfl)
theorem mxLdX4 (w : TwoWord) : Statement (.mxLdX4 w) := of_instr _ _ rfl (fun _ => rfl)
theorem mxStX4 (w : TwoWord) : Statement (.mxStX4 w) := of_instr _ _ rfl (fun _ => rfl)
theorem mxLdAcq (w : TwoWord) : Statement (.mxLdAcq w) := of_instr _ _ rfl (fun _ => rfl)
theorem mxStRel (w : TwoWord) : Statement (.mxStRel w) := of_instr _ _ rfl (fun _ => rfl)
theorem mxLdmx (w : TwoWord) : Statement (.mxLdmx w) := of_instr _ _ rfl (fun _ => rfl)
theorem mxPref (w : TwoWord) : Statement (.mxPref w) := of_instr _ _ rfl (fun _ => rfl)
theorem mxSld (w : TwoWord) : Statement (.mxSld w) := of_instr _ _ rfl (fun _ => rfl)
theorem mxSst (w : TwoWord) : Statement (.mxSst w) := of_instr _ _ rfl (fun _ => rfl)
theorem mxLdRo (w : TwoWord) : Statement (.mxLdRo w) := of_instr _ _ rfl (fun _ => rfl)
theorem mxAtomAdd (w : TwoWord) : Statement (.mxAtomAdd w) := of_instr _ _ rfl (fun _ => rfl)
theorem mxAtomMin (w : TwoWord) : Statement (.mxAtomMin w) := of_instr _ _ rfl (fun _ => rfl)
theorem mxAtomMax (w : TwoWord) : Statement (.mxAtomMax w) := of_instr _ _ rfl (fun _ => rfl)
theorem mxAtomAnd (w : TwoWord) : Statement (.mxAtomAnd w) := of_instr _ _ rfl (fun _ => rfl)
theorem mxAtomOr (w : TwoWord) : Statement (.mxAtomOr w) := of_instr _ _ rfl (fun _ => rfl)
theorem mxAtomXor (w : TwoWord) : Statement (.mxAtomXor w) := of_instr _ _ rfl (fun _ => rfl)
theorem mxAtomXchg (w : TwoWord) : Statement (.mxAtomXchg w) := of_instr _ _ rfl (fun _ => rfl)
theorem mxAtomCas (w : TwoWord) : Statement (.mxAtomCas w) := of_instr _ _ rfl (fun _ => rfl)
theorem mxFence (w : TwoWord) : Statement (.mxFence w) := of_instr _ _ rfl (fun _ => rfl)
theorem enTcopy (w : TwoWord) : Statement (.enTcopy w) := of_instr _ _ rfl (fun _ => rfl)
theorem enTgather (w : TwoWord) : Statement (.enTgather w) := of_instr _ _ rfl (fun _ => rfl)
theorem enTbin (w : TwoWord) : Statement (.enTbin w) := of_instr _ _ rfl (fun _ => rfl)
theorem enCbload (w : TwoWord) : Statement (.enCbload w) := of_instr _ _ rfl (fun _ => rfl)
theorem enHbind (w : TwoWord) : Statement (.enHbind w) := of_instr _ _ rfl (fun _ => rfl)
theorem enHwait (w : TwoWord) : Statement (.enHwait w) := of_instr _ _ rfl (fun _ => rfl)
theorem enHstate (w : TwoWord) : Statement (.enHstate w) := of_instr _ _ rfl (fun _ => rfl)
theorem enHrel (w : TwoWord) : Statement (.enHrel w) := of_instr _ _ rfl (fun _ => rfl)
theorem enHsig (w : TwoWord) : Statement (.enHsig w) := of_instr _ _ rfl (fun _ => rfl)
theorem enBinset (w : TwoWord) : Statement (.enBinset w) := of_instr _ _ rfl (fun _ => rfl)
theorem enBinrd (w : TwoWord) : Statement (.enBinrd w) := of_instr _ _ rfl (fun _ => rfl)
theorem enCbstat (w : TwoWord) : Statement (.enCbstat w) := of_instr _ _ rfl (fun _ => rfl)
theorem enMma (w : TwoWord) : Statement (.enMma w) := of_instr _ _ rfl (fun _ => rfl)
theorem enTzero (w : TwoWord) : Statement (.enTzero w) := of_instr _ _ rfl (fun _ => rfl)
theorem enTget (w : TwoWord) : Statement (.enTget w) := of_instr _ _ rfl (fun _ => rfl)
theorem enTset (w : TwoWord) : Statement (.enTset w) := of_instr _ _ rfl (fun _ => rfl)
theorem enTdrain (w : TwoWord) : Statement (.enTdrain w) := of_instr _ _ rfl (fun _ => rfl)
theorem enOmap (w : TwoWord) : Statement (.enOmap w) := of_instr _ _ rfl (fun h => by
  simp only [Instr.wf, Instr.enc, Bool.and_eq_true, decide_eq_true_eq] at h
  simp [Enc.instr, enInstr, h.2])
theorem enOmapRel (w : TwoWord) : Statement (.enOmapRel w) := of_instr _ _ rfl (fun h => by
  simp only [Instr.wf, Instr.enc, Bool.and_eq_true, decide_eq_true_eq] at h
  simpa [Enc.instr, enInstr] using h.2)
theorem enSxsel (w : TwoWord) : Statement (.enSxsel w) := of_instr _ _ rfl (fun _ => rfl)
theorem enTmov (w : TwoWord) : Statement (.enTmov w) := of_instr _ _ rfl (fun _ => rfl)
theorem enTstat (w : TwoWord) : Statement (.enTstat w) := of_instr _ _ rfl (fun _ => rfl)
theorem enTfill (w : TwoWord) : Statement (.enTfill w) := of_instr _ _ rfl (fun _ => rfl)
theorem enNeval (w : TwoWord) : Statement (.enNeval w) := of_instr _ _ rfl (fun _ => rfl)
theorem enNflush (w : TwoWord) : Statement (.enNflush w) := of_instr _ _ rfl (fun _ => rfl)
theorem enActload (w : TwoWord) : Statement (.enActload w) := of_instr _ _ rfl (fun _ => rfl)
theorem enNbind (w : TwoWord) : Statement (.enNbind w) := of_instr _ _ rfl (fun _ => rfl)
theorem enNstat (w : TwoWord) : Statement (.enNstat w) := of_instr _ _ rfl (fun _ => rfl)
theorem gxVamp (w : TwoWord) : Statement (.gxVamp w) := of_instr _ _ rfl (fun _ => rfl)
theorem gxVclose (w : TwoWord) : Statement (.gxVclose w) := of_instr _ _ rfl (fun _ => rfl)
theorem gxLensmap (w : TwoWord) : Statement (.gxLensmap w) := of_instr _ _ rfl (fun _ => rfl)
theorem gxPresent (w : TwoWord) : Statement (.gxPresent w) := of_instr _ _ rfl (fun _ => rfl)
theorem gxVopen (w : TwoWord) : Statement (.gxVopen w) := of_instr _ _ rfl (fun _ => rfl)
theorem gxVset (w : TwoWord) : Statement (.gxVset w) := of_instr _ _ rfl (fun _ => rfl)
theorem gxGazeld (w : TwoWord) : Statement (.gxGazeld w) := of_instr _ _ rfl (fun _ => rfl)
theorem gxVtile (w : TwoWord) : Statement (.gxVtile w) := of_instr _ _ rfl (fun _ => rfl)
theorem gxVcov (w : TwoWord) : Statement (.gxVcov w) := of_instr _ _ rfl (fun _ => rfl)
theorem gxVrec (w : TwoWord) : Statement (.gxVrec w) := of_instr _ _ rfl (fun _ => rfl)
theorem gxRlaunch (w : TwoWord) : Statement (.gxRlaunch w) := of_instr _ _ rfl (fun _ => rfl)
theorem gxRload (w : TwoWord) : Statement (.gxRload w) := of_instr _ _ rfl (fun _ => rfl)
theorem gxRstore (w : TwoWord) : Statement (.gxRstore w) := of_instr _ _ rfl (fun _ => rfl)
theorem gxRbox (w : TwoWord) : Statement (.gxRbox w) := of_instr _ _ rfl (fun _ => rfl)
theorem gxRtri (w : TwoWord) : Statement (.gxRtri w) := of_instr _ _ rfl (fun _ => rfl)
theorem gxRspush (w : TwoWord) : Statement (.gxRspush w) := of_instr _ _ rfl (fun _ => rfl)
theorem gxRspop (w : TwoWord) : Statement (.gxRspop w) := of_instr _ _ rfl (fun _ => rfl)
theorem gxBunion (w : TwoWord) : Statement (.gxBunion w) := of_instr _ _ rfl (fun _ => rfl)
theorem gxBsah (w : TwoWord) : Statement (.gxBsah w) := of_instr _ _ rfl (fun _ => rfl)
theorem gxBpack (w : TwoWord) : Statement (.gxBpack w) := of_instr _ _ rfl (fun _ => rfl)
theorem syLaunch (w : TwoWord) : Statement (.syLaunch w) := of_instr _ _ rfl (fun _ => rfl)
theorem syQpost (w : TwoWord) : Statement (.syQpost w) := of_instr _ _ rfl (fun _ => rfl)
theorem syTspawn (w : TwoWord) : Statement (.syTspawn w) := of_instr _ _ rfl (fun _ => rfl)
theorem syTreserve (w : TwoWord) : Statement (.syTreserve w) := of_instr _ _ rfl (fun _ => rfl)
theorem syTcommit (w : TwoWord) : Statement (.syTcommit w) := of_instr _ _ rfl (fun _ => rfl)
theorem syEvsig (w : TwoWord) : Statement (.syEvsig w) := of_instr _ _ rfl (fun _ => rfl)
theorem syEvwait (w : TwoWord) : Statement (.syEvwait w) := of_instr _ _ rfl (fun _ => rfl)
theorem syEvread (w : TwoWord) : Statement (.syEvread w) := of_instr _ _ rfl (fun _ => rfl)
theorem syBsync (w : TwoWord) : Statement (.syBsync w) := of_instr _ _ rfl (fun h => by
  simp only [Instr.wf, Instr.enc, Bool.and_eq_true, decide_eq_true_eq] at h
  simp [Enc.instr, syInstr, h.2])
theorem syBsyncCluster (w : TwoWord) : Statement (.syBsyncCluster w) := of_instr _ _ rfl (fun h => by
  simp only [Instr.wf, Instr.enc, Bool.and_eq_true, decide_eq_true_eq] at h
  simp [Enc.instr, syInstr, h.2])
theorem syBarrive (w : TwoWord) : Statement (.syBarrive w) := of_instr _ _ rfl (fun _ => rfl)
theorem syBwait (w : TwoWord) : Statement (.syBwait w) := of_instr _ _ rfl (fun _ => rfl)
theorem syRsync (w : TwoWord) : Statement (.syRsync w) := of_instr _ _ rfl (fun _ => rfl)
theorem syRarrive (w : TwoWord) : Statement (.syRarrive w) := of_instr _ _ rfl (fun _ => rfl)
theorem syRwait (w : TwoWord) : Statement (.syRwait w) := of_instr _ _ rfl (fun _ => rfl)
theorem syVgrow (w : TwoWord) : Statement (.syVgrow w) := of_instr _ _ rfl (fun _ => rfl)
theorem syVshrink (w : TwoWord) : Statement (.syVshrink w) := of_instr _ _ rfl (fun _ => rfl)
theorem syVquery (w : TwoWord) : Statement (.syVquery w) := of_instr _ _ rfl (fun _ => rfl)
theorem syVzero (w : TwoWord) : Statement (.syVzero w) := of_instr _ _ rfl (fun _ => rfl)
theorem syTrap (w : TwoWord) : Statement (.syTrap w) := of_instr _ _ rfl (fun _ => rfl)
theorem syBrk (w : TwoWord) : Statement (.syBrk w) := of_instr _ _ rfl (fun _ => rfl)
theorem syCsrr (w : TwoWord) : Statement (.syCsrr w) := of_instr _ _ rfl (fun _ => rfl)
theorem syCsrw (w : TwoWord) : Statement (.syCsrw w) := of_instr _ _ rfl (fun _ => rfl)
theorem syCsrs (w : TwoWord) : Statement (.syCsrs w) := of_instr _ _ rfl (fun _ => rfl)
theorem syCsrc (w : TwoWord) : Statement (.syCsrc w) := of_instr _ _ rfl (fun _ => rfl)
theorem syTret (w : TwoWord) : Statement (.syTret w) := of_instr _ _ rfl (fun _ => rfl)
theorem syCtxsave (w : TwoWord) : Statement (.syCtxsave w) := of_instr _ _ rfl (fun _ => rfl)
theorem syMsend (w : TwoWord) : Statement (.syMsend w) := of_instr _ _ rfl (fun _ => rfl)
theorem syMrecv (w : TwoWord) : Statement (.syMrecv w) := of_instr _ _ rfl (fun _ => rfl)
theorem syMcast (w : TwoWord) : Statement (.syMcast w) := of_instr _ _ rfl (fun _ => rfl)
theorem syMprobe (w : TwoWord) : Statement (.syMprobe w) := of_instr _ _ rfl (fun _ => rfl)
theorem evClauseIssue (group : Nat) : Statement (.evClauseIssue group) := of_event _ rfl
theorem evTensionRound (group : Nat) : Statement (.evTensionRound group) := of_event _ rfl
theorem evPortPassoverLimit (group port : Nat) : Statement (.evPortPassoverLimit group port) := of_event _ rfl
theorem evGroupResume (group : Nat) : Statement (.evGroupResume group) := of_event _ rfl
theorem evLoadReturn (group op : Nat) (res : IoEnd) (data : List Nat) : Statement (.evLoadReturn group op res data) := of_event _ rfl
theorem evStorePerformed (group : Nat) (res : IoEnd) (data : List Nat) : Statement (.evStorePerformed group res data) := of_event _ rfl
theorem evWatchExpiry (group : Nat) : Statement (.evWatchExpiry group) := of_event _ rfl
theorem evGroupEnd (group : Nat) : Statement (.evGroupEnd group) := of_event _ rfl
theorem evPageWalk (group : Nat) : Statement (.evPageWalk group) := of_event _ rfl
theorem evFaultReplay (die slot : Nat) : Statement (.evFaultReplay die slot) := of_event _ rfl
theorem evFaultAbort (die slot : Nat) : Statement (.evFaultAbort die slot) := of_event _ rfl
theorem evFaultReplayDone (die slot : Nat) : Statement (.evFaultReplayDone die slot) := of_event _ rfl
theorem evPginvStart (ctl : Word) : Statement (.evPginvStart ctl) := of_event _ rfl
theorem evPginvComplete : Statement .evPginvComplete := of_event _ rfl
theorem evCtxdescWrite (ctx : Nat) (addr : Nat) : Statement (.evCtxdescWrite ctx addr) := of_event _ rfl
theorem evInstall (ctx : Nat) : Statement (.evInstall ctx) := of_event _ rfl
theorem evSuspend (ctx : Nat) : Statement (.evSuspend ctx) := of_event _ rfl
theorem evResume (ctx : Nat) (restored : Bool) : Statement (.evResume ctx restored) := of_event _ rfl
theorem evRetire (ctx : Nat) : Statement (.evRetire ctx) := of_event _ rfl
theorem evDrainingEnd (ctx : Nat) : Statement (.evDrainingEnd ctx) := of_event _ rfl
theorem evQuantumExpiry (ctx : Nat) : Statement (.evQuantumExpiry ctx) := of_event _ rfl
theorem evEvpost (ctx ctr : Nat) (amount : Word) : Statement (.evEvpost ctx ctr amount) := of_event _ rfl
theorem evEntryAppend (ctx : Nat) (rec : AppendMsg) : Statement (.evEntryAppend ctx rec) := of_event _ rfl
theorem evHostAppend (slot : Nat) : Statement (.evHostAppend slot) := of_event _ rfl
theorem evQpostReply (group op : Nat) (res : IoEnd) (accepted : Bool) : Statement (.evQpostReply group op res accepted) := of_event _ rfl
theorem evEntryqMove (ctx : Nat) : Statement (.evEntryqMove ctx) := of_event _ rfl
theorem evRecordReady (record : Nat) : Statement (.evRecordReady record) := of_event _ rfl
theorem evTaskqClosed (ctx q : Nat) : Statement (.evTaskqClosed ctx q) := of_event _ rfl
theorem evGatherWaitExpiry (ctx q : Nat) : Statement (.evGatherWaitExpiry ctx q) := of_event _ rfl
theorem evTeamPlace : Statement .evTeamPlace := of_event _ rfl
theorem evSchedPassoverLimit (record : Nat) : Statement (.evSchedPassoverLimit record) := of_event _ rfl
theorem evDisplayPreempt : Statement .evDisplayPreempt := of_event _ rfl
theorem evTeamEnded (team : Nat) : Statement (.evTeamEnded team) := of_event _ rfl
theorem evVgrowGrant (group : Nat) : Statement (.evVgrowGrant group) := of_event _ rfl
theorem evVgrowDeadlockFail (group : Nat) : Statement (.evVgrowDeadlockFail group) := of_event _ rfl
theorem evTransferStart (die engine elements : Nat) : Statement (.evTransferStart die engine elements) := of_event _ rfl
theorem evTransferComplete (die engine : Nat) (res : IoEnd) : Statement (.evTransferComplete die engine res) := of_event _ rfl
theorem evEngineGrant (core : Nat) : Statement (.evEngineGrant core) := of_event _ rfl
theorem evLeaseCountExpiry (core : Nat) : Statement (.evLeaseCountExpiry core) := of_event _ rfl
theorem evLeaseIdleExpiry (core : Nat) : Statement (.evLeaseIdleExpiry core) := of_event _ rfl
theorem evTileOpAccept (core : Nat) : Statement (.evTileOpAccept core) := of_event _ rfl
theorem evTileOpComplete (core : Nat) (res : IoEnd) : Statement (.evTileOpComplete core res) := of_event _ rfl
theorem evWindowTimerExpiry (core window : Nat) : Statement (.evWindowTimerExpiry core window) := of_event _ rfl
theorem evWindowEnterLocks (core window : Nat) : Statement (.evWindowEnterLocks core window) := of_event _ rfl
theorem evWindowScatter (core window : Nat) (res : IoEnd) : Statement (.evWindowScatter core window res) := of_event _ rfl
theorem evActSwap (core table : Nat) : Statement (.evActSwap core table) := of_event _ rfl
theorem evViewOpRun (cluster : Nat) (res : IoEnd) : Statement (.evViewOpRun cluster res) := of_event _ rfl
theorem evViewOpComplete (cluster : Nat) : Statement (.evViewOpComplete cluster) := of_event _ rfl
theorem evVsetApply (set : Nat) : Statement (.evVsetApply set) := of_event _ rfl
theorem evBoundLatchExpiry (set view : Nat) : Statement (.evBoundLatchExpiry set view) := of_event _ rfl
theorem evRowEmit (set view : Nat) : Statement (.evRowEmit set view) := of_event _ rfl
theorem evGazeHostWrite (reg off size data : Nat) : Statement (.evGazeHostWrite reg off size data) := of_event _ rfl
theorem evDpOutputChange (out width height : Nat) : Statement (.evDpOutputChange out width height) := of_event _ rfl
theorem evTileCreditGrant (stream tiles : Nat) : Statement (.evTileCreditGrant stream tiles) := of_event _ rfl
theorem evLinkEnable (port : Nat) : Statement (.evLinkEnable port) := of_event _ rfl
theorem evLinkFence (port : Nat) : Statement (.evLinkFence port) := of_event _ rfl
theorem evLinkDrain (port : Nat) : Statement (.evLinkDrain port) := of_event _ rfl
theorem evLinkDisable (port : Nat) : Statement (.evLinkDisable port) := of_event _ rfl
theorem evLinkTrainingDone (port lanes peer peerPort : Nat) (verified : Bool) : Statement (.evLinkTrainingDone port lanes peer peerPort verified) := of_event _ rfl
theorem evLinkLaneFail (port : Nat) : Statement (.evLinkLaneFail port) := of_event _ rfl
theorem evLinkDrainDone (port : Nat) : Statement (.evLinkDrainDone port) := of_event _ rfl
theorem evBridgeDown (bridge : Nat) : Statement (.evBridgeDown bridge) := of_event _ rfl
theorem evRemoteAccess (src fctx rctx addr : Nat) (op : RemoteOp) : Statement (.evRemoteAccess src fctx rctx addr op) := of_event _ rfl
theorem evHostMemAccess (off n : Nat) (data : List Nat) : Statement (.evHostMemAccess off n data) := of_event _ rfl
theorem evAttest : Statement .evAttest := of_event _ rfl
theorem evAttestDone (sig : List Nat) : Statement (.evAttestDone sig) := of_event _ rfl
theorem evKeyLoad (slot : Nat) : Statement (.evKeyLoad slot) := of_event _ rfl
theorem evKeyClear (slot : Nat) : Statement (.evKeyClear slot) := of_event _ rfl
theorem evColdReset (boot : Boot) : Statement (.evColdReset boot) := of_event _ rfl
theorem evPowerPolicyChange (state aclk : Nat) : Statement (.evPowerPolicyChange state aclk) := of_event _ rfl
theorem evStandbyWake (aclk : Nat) : Statement (.evStandbyWake aclk) := of_event _ rfl
theorem evThrottleOn (temp : Nat) : Statement (.evThrottleOn temp) := of_event _ rfl
theorem evThrottleOff (aclk temp : Nat) : Statement (.evThrottleOff aclk temp) := of_event _ rfl
theorem evTrip (temp : Nat) : Statement (.evTrip temp) := of_event _ rfl
theorem evUnitGate (slice : Bool) (unit : Nat) : Statement (.evUnitGate slice unit) := of_event _ rfl
theorem evUnitWake (slice : Bool) (unit : Nat) : Statement (.evUnitWake slice unit) := of_event _ rfl
theorem evMgmtRegWrite (addr size : Nat) (data : HostData) : Statement (.evMgmtRegWrite addr size data) := of_event _ rfl
theorem evRemoteOperationFails (group : Nat) (op : Option Nat) : Statement (.evRemoteOperationFails group op) := of_event _ rfl
theorem evFlitResend (port : Nat) : Statement (.evFlitResend port) := of_event _ rfl

end Sys2Proof.Laws.Encoding
end

