-- ==== Sys2Proof/Laws/Encode.lean ====
section
/-!
SUPPORT. The words of an encoding (02_encoding R30, R31): the fields that the decoder takes from them are those the encoder put
there, and a literal plays no part in the field rules.
-/
namespace Sys2Proof.Machine

open Sys2Proof.Laws.Encoding

/-- The field rules of an encoding do not look at its literal. -/
theorem Enc.shape_lit (e : Enc) (l : Word) : ({ e with t := { e.t with lit := l } } : Enc).shape = e.shape := rfl

/-- Whether a literal follows does not depend on the literal. -/
theorem Enc.hasLit_lit (e : Enc) (l : Word) : ({ e with t := { e.t with lit := l } } : Enc).hasLit = e.hasLit := rfl

/-- The fields of word 0 come back, and the major opcode. -/
theorem Enc.word0_fields (e : Enc) (x : Word1) (l : Word) :
    fields0 e.word0 x l = ⟨e.t.guard, e.t.d, e.t.a, e.t.b, x, l⟩ ∧ e.word0.extractLsb' 27 5 = e.major := by
  simp only [fields0, Enc.word0, TwoWord.mk.injEq, and_true]
  refine ⟨⟨?_, ?_, ?_, ?_⟩, ?_⟩ <;> apply BitVec.eq_of_toNat_eq <;>
    simp only [toNat_app, BitVec.extractLsb'_toNat, Nat.shiftRight_eq_div_pow] <;>
    have h1 := e.t.guard.isLt <;> have h2 := e.t.d.isLt <;> have h3 := e.t.a.isLt <;> have h4 := e.t.b.isLt <;>
    have h5 := e.major.isLt <;> omega

/-- The fields of word 1 come back, and the minor opcode. -/
theorem Enc.word1_fields (e : Enc) : fields1 e.word1 = e.t.x ∧ e.word1.extractLsb' 20 12 = e.minor := by
  obtain ⟨major, minor, ⟨g, d, a, b, ⟨c, fs, nr, mod1, mod2⟩, lit⟩⟩ := e
  have hc := c.isLt
  have hm := minor.isLt
  have h1 := mod1.isLt
  have h2 := mod2.isLt
  have hf := (BitVec.ofBool fs).isLt
  have hn := (BitVec.ofBool nr).isLt
  simp only [fields1, Enc.word1, Word1.mk.injEq]
  refine ⟨⟨?_, ?_, ?_, ?_, ?_⟩, ?_⟩
  case refine_2 => simp only [BitVec.getLsbD_append]; cases fs <;> rfl
  case refine_3 => simp only [BitVec.getLsbD_append]; cases nr <;> rfl
  all_goals
    apply BitVec.eq_of_toNat_eq
    simp only [toNat_app, BitVec.extractLsb'_toNat, Nat.shiftRight_eq_div_pow]
    omega

/-- Where a check names no fault, its condition does not hold, and the checks after it name none. -/
theorem check_none {α : Type} {c : Prop} [Decidable c] {a : α} {x : Option α} (h : (if c then some a else x) = none) :
    ¬c ∧ x = none := by
  by_cases hc : c
  · rw [if_pos hc] at h; cases h
  · rw [if_neg hc] at h; exact ⟨hc, h⟩

/-- A legal encoding holds no literal and no second word that its form has no place for. -/
theorem Enc.legal_stray (e : Enc) (h : e.illegal = none) :
    (e.hasLit = false → e.t.lit = 0) ∧ (e.two = false → e.t.x = (⟨0, false, false, 0, 0⟩ : Word1)) := by
  unfold Enc.illegal at h
  have h := (check_none (check_none (check_none (check_none (check_none (check_none h).2).2).2).2).2).2
  have h := check_none (check_none (check_none (check_none (check_none (check_none h).2).2).2).2).2
  have h1 := h.1
  have h2 := (check_none h.2).1
  constructor
  · intro hh
    rw [hh] at h1
    simpa only [Bool.not_false, Bool.true_and, decide_eq_true_eq, ne_eq, Decidable.not_not] using h1
  · intro hh
    rw [hh] at h2
    simpa only [Bool.not_false, Bool.true_and, decide_eq_true_eq, ne_eq, Decidable.not_not] using h2

end Sys2Proof.Machine
end

