-- ==== Sys2Proof/Laws/Tab.lean ====
section
/-!
SUPPORT. The sparse tables: reading after writing, the canonical form kept, and an entry replaced twice.
-/
namespace Sys2Proof.Machine

variable {α : Type}

theorem Tab.del_free (m : Tab α) (a : Nat) : ∀ e ∈ Tab.del m a, e.1 ≠ a := by
  induction m with
  | nil => simp [Tab.del]
  | cons e m ih =>
    obtain ⟨k, v⟩ := e
    by_cases h : k = a
    · simpa [Tab.del, h] using ih
    · simpa [Tab.del, h] using ih

theorem Tab.del_of_free (m : Tab α) (a : Nat) (h : ∀ e ∈ m, e.1 ≠ a) : Tab.del m a = m := by
  induction m with
  | nil => rfl
  | cons e m ih =>
    obtain ⟨k, v⟩ := e
    have hk : k ≠ a := h _ (List.mem_cons_self ..)
    simp [Tab.del, hk, ih (fun e he => h e (List.mem_cons_of_mem _ he))]

theorem Tab.get_put (d : α) (m : Tab α) (a b : Nat) (x : α) (h : ∀ e ∈ m, e.1 ≠ a) :
    Tab.get d (Tab.put m a x) b = if a = b then x else Tab.get d m b := by
  induction m with
  | nil => simp [Tab.put, Tab.get]
  | cons e m ih =>
    obtain ⟨k, v⟩ := e
    have hk : k ≠ a := h _ (List.mem_cons_self ..)
    have ih := ih (fun e he => h e (List.mem_cons_of_mem _ he))
    unfold Tab.put
    split
    · simp [Tab.get]
    · simp only [Tab.get, ih]; split <;> split <;> simp_all

theorem Tab.find_put (m : Tab α) (a b : Nat) (x : α) (h : ∀ e ∈ m, e.1 ≠ a) :
    Tab.find (Tab.put m a x) b = if a = b then some x else Tab.find m b := by
  induction m with
  | nil => simp [Tab.put, Tab.find]
  | cons e m ih =>
    obtain ⟨k, v⟩ := e
    have hk : k ≠ a := h _ (List.mem_cons_self ..)
    have ih := ih (fun e he => h e (List.mem_cons_of_mem _ he))
    unfold Tab.put
    split
    · simp [Tab.find]
    · simp only [Tab.find, ih]; split <;> split <;> simp_all

theorem Tab.get_del (d : α) (m : Tab α) (a b : Nat) :
    Tab.get d (Tab.del m a) b = if a = b then d else Tab.get d m b := by
  induction m with
  | nil => simp [Tab.del, Tab.get]
  | cons e m ih =>
    obtain ⟨k, v⟩ := e
    by_cases hk : k = a
    · subst hk; simp only [Tab.del, if_pos, ih, Tab.get]; split <;> rfl
    · simp only [Tab.del, hk, if_false, Tab.get, ih]; split <;> split <;> simp_all

theorem Tab.find_del (m : Tab α) (a b : Nat) :
    Tab.find (Tab.del m a) b = if a = b then none else Tab.find m b := by
  induction m with
  | nil => simp [Tab.del, Tab.find]
  | cons e m ih =>
    obtain ⟨k, v⟩ := e
    by_cases hk : k = a
    · subst hk; simp only [Tab.del, if_pos, ih, Tab.find]; split <;> rfl
    · simp only [Tab.del, hk, if_false, Tab.find, ih]; split <;> split <;> simp_all

/-- A table with one entry written reads that entry there, and elsewhere what it read before. -/
theorem Tab.get_set [DecidableEq α] (d : α) (m : Tab α) (a b : Nat) (x : α) :
    Tab.get d (Tab.set d m a x) b = if a = b then x else Tab.get d m b := by
  unfold Tab.set
  split
  · subst_vars; exact Tab.get_del ..
  · rw [Tab.get_put d _ a b x (Tab.del_free m a), Tab.get_del]; split <;> rfl

@[simp] theorem Tab.get_set_self [DecidableEq α] (d : α) (m : Tab α) (a : Nat) (x : α) :
    Tab.get d (Tab.set d m a x) a = x := by simp [Tab.get_set]

theorem Tab.get_set_ne [DecidableEq α] (d : α) (m : Tab α) (a b : Nat) (x : α) (h : a ≠ b) :
    Tab.get d (Tab.set d m a x) b = Tab.get d m b := by simp [Tab.get_set, h]

theorem Tab.find_ins (m : Tab α) (a b : Nat) (x : α) :
    Tab.find (Tab.ins m a x) b = if a = b then some x else Tab.find m b := by
  unfold Tab.ins
  rw [Tab.find_put _ a b x (Tab.del_free m a), Tab.find_del]; split <;> rfl

@[simp] theorem Tab.find_ins_self (m : Tab α) (a : Nat) (x : α) : Tab.find (Tab.ins m a x) a = some x := by
  simp [Tab.find_ins]

theorem Tab.find_ins_ne (m : Tab α) (a b : Nat) (x : α) (h : a ≠ b) :
    Tab.find (Tab.ins m a x) b = Tab.find m b := by simp [Tab.find_ins, h]

theorem Tab.del_put (m : Tab α) (a : Nat) (x : α) (h : ∀ e ∈ m, e.1 ≠ a) : Tab.del (Tab.put m a x) a = m := by
  induction m with
  | nil => simp [Tab.put, Tab.del]
  | cons e m ih =>
    obtain ⟨k, v⟩ := e
    have hk : k ≠ a := h _ (List.mem_cons_self ..)
    have hm := fun e he => h e (List.mem_cons_of_mem _ he)
    unfold Tab.put
    split
    · simp [Tab.del, hk, Tab.del_of_free m a hm]
    · simp [Tab.del, hk, ih hm]

/-- The second of two writes of one entry stands. -/
@[simp] theorem Tab.ins_ins (m : Tab α) (a : Nat) (x y : α) : Tab.ins (Tab.ins m a x) a y = Tab.ins m a y := by
  unfold Tab.ins; rw [Tab.del_put _ a x (Tab.del_free m a)]

@[simp] theorem Tab.set_set [DecidableEq α] (d : α) (m : Tab α) (a : Nat) (x y : α) :
    Tab.set d (Tab.set d m a x) a y = Tab.set d m a y := by
  have h : Tab.del (Tab.set d m a x) a = Tab.del m a := by
    unfold Tab.set
    split
    · exact Tab.del_of_free _ _ (Tab.del_free m a)
    · exact Tab.del_put _ a x (Tab.del_free m a)
  unfold Tab.set at h ⊢
  rw [h]

/-- The canonical form, unfolded at the head: the entry is no default, and every later key is larger. -/
theorem Tab.wf_cons [DecidableEq α] (d : α) (k : Nat) (v : α) (m : Tab α) :
    Tab.wf d ((k, v) :: m) = true ↔ v ≠ d ∧ (∀ e ∈ m, k < e.1) ∧ Tab.wf d m = true := by
  induction m generalizing k v with
  | nil => simp [Tab.wf]
  | cons e m ih =>
    obtain ⟨k', v'⟩ := e
    have := ih k' v'
    simp only [Tab.wf, Bool.and_eq_true, decide_eq_true_eq, List.mem_cons, forall_eq_or_imp]
    constructor
    · rintro ⟨⟨h1, h2⟩, h3⟩
      exact ⟨h1, ⟨h2, fun e he => Nat.lt_trans h2 ((this.1 h3).2.1 e he)⟩, h3⟩
    · rintro ⟨h1, ⟨h2, -⟩, h3⟩
      exact ⟨⟨h1, h2⟩, h3⟩

theorem Tab.wf_del [DecidableEq α] (d : α) (m : Tab α) (a : Nat) (h : Tab.wf d m = true) :
    Tab.wf d (Tab.del m a) = true ∧ ∀ e ∈ Tab.del m a, e ∈ m := by
  induction m with
  | nil => exact ⟨h, fun _ he => he⟩
  | cons e m ih =>
    obtain ⟨k, v⟩ := e
    rw [Tab.wf_cons] at h
    obtain ⟨h1, h2⟩ := ih h.2.2
    unfold Tab.del
    split
    · exact ⟨h1, fun e he => List.mem_cons_of_mem _ (h2 e he)⟩
    · refine ⟨(Tab.wf_cons ..).2 ⟨h.1, fun e he => h.2.1 e (h2 e he), h1⟩, fun e he => ?_⟩
      rcases List.mem_cons.1 he with he | he
      · exact he ▸ List.mem_cons_self ..
      · exact List.mem_cons_of_mem _ (h2 e he)

theorem Tab.mem_put (m : Tab α) (a : Nat) (x : α) : ∀ e ∈ Tab.put m a x, e = (a, x) ∨ e ∈ m := by
  induction m with
  | nil => simp [Tab.put]
  | cons e m ih =>
    obtain ⟨k, v⟩ := e
    unfold Tab.put
    split
    · intro e he; simpa using he
    · intro e he
      rcases List.mem_cons.1 he with he | he
      · exact .inr (he ▸ List.mem_cons_self ..)
      · exact (ih e he).imp_right (List.mem_cons_of_mem _)

theorem Tab.wf_put [DecidableEq α] (d : α) (m : Tab α) (a : Nat) (x : α) (hx : x ≠ d) (h : Tab.wf d m = true)
    (hf : ∀ e ∈ m, e.1 ≠ a) : Tab.wf d (Tab.put m a x) = true := by
  induction m with
  | nil => simp [Tab.put, Tab.wf, hx]
  | cons e m ih =>
    obtain ⟨k, v⟩ := e
    have hk : k ≠ a := hf _ (List.mem_cons_self ..)
    have hw := (Tab.wf_cons ..).1 h
    unfold Tab.put
    split
    · rename_i hlt
      refine (Tab.wf_cons ..).2 ⟨hx, fun e he => ?_, h⟩
      rcases List.mem_cons.1 he with he | he
      · exact he ▸ hlt
      · exact Nat.lt_trans hlt (hw.2.1 e he)
    · refine (Tab.wf_cons ..).2 ⟨hw.1, fun e he => ?_, ih hw.2.2 (fun e he => hf e (List.mem_cons_of_mem _ he))⟩
      rcases Tab.mem_put m a x e he with he | he
      · subst he; show k < a; omega
      · exact hw.2.1 e he

/-- A write keeps the canonical form of a table. -/
theorem Tab.wf_set [DecidableEq α] (d : α) (m : Tab α) (a : Nat) (x : α) (h : Tab.wf d m = true) :
    Tab.wf d (Tab.set d m a x) = true := by
  unfold Tab.set
  split
  · exact (Tab.wf_del d m a h).1
  · exact Tab.wf_put d _ a x ‹_› (Tab.wf_del d m a h).1 (Tab.del_free m a)

/-- Leaving entries out keeps the canonical form of a table. -/
theorem Tab.wf_filter [DecidableEq α] (d : α) (m : Tab α) (p : Nat × α → Bool) (h : Tab.wf d m = true) :
    Tab.wf d (m.filter p) = true := by
  induction m with
  | nil => exact h
  | cons e m ih =>
    obtain ⟨k, v⟩ := e
    have hw := (Tab.wf_cons ..).1 h
    rw [List.filter_cons]
    split
    · exact (Tab.wf_cons ..).2 ⟨hw.1, fun e he => hw.2.1 e (List.mem_filter.1 he).1, ih hw.2.2⟩
    · exact ih hw.2.2

end Sys2Proof.Machine
end

