-- ==== Sys2Proof/Laws/State.lean ====
section
/-!
SUPPORT. One lemma per field per update of the state, of a group and of its registers: what an update leaves alone, true by
definition; and what the accessors read after it.
-/
namespace Sys2Proof.Machine

@[simp] theorem State.setGroup_code (s : State) (g : Nat) (x : Group) : (s.setGroup g x).code = s.code := rfl
@[simp] theorem State.setGroup_sched (s : State) (g : Nat) (x : Group) : (s.setGroup g x).sched = s.sched := rfl
@[simp] theorem State.setGroup_mem (s : State) (g : Nat) (x : Group) : (s.setGroup g x).mem = s.mem := rfl
@[simp] theorem State.setGroup_keyTag (s : State) (g : Nat) (x : Group) : (s.setGroup g x).keyTag = s.keyTag := rfl
@[simp] theorem State.setGroup_hostMem (s : State) (g : Nat) (x : Group) : (s.setGroup g x).hostMem = s.hostMem := rfl
@[simp] theorem State.setGroup_sp (s : State) (g : Nat) (x : Group) : (s.setGroup g x).sp = s.sp := rfl
@[simp] theorem State.setGroup_presence (s : State) (g : Nat) (x : Group) : (s.setGroup g x).presence = s.presence := rfl
@[simp] theorem State.setGroup_csp (s : State) (g : Nat) (x : Group) : (s.setGroup g x).csp = s.csp := rfl
@[simp] theorem State.setGroup_keyFull (s : State) (g : Nat) (x : Group) : (s.setGroup g x).keyFull = s.keyFull := rfl
@[simp] theorem State.setGroup_keyLoads (s : State) (g : Nat) (x : Group) : (s.setGroup g x).keyLoads = s.keyLoads := rfl
@[simp] theorem State.setGroup_pginv (s : State) (g : Nat) (x : Group) : (s.setGroup g x).pginv = s.pginv := rfl
@[simp] theorem State.setGroup_tlb (s : State) (g : Nat) (x : Group) : (s.setGroup g x).tlb = s.tlb := rfl
@[simp] theorem State.setGroup_uppers (s : State) (g : Nat) (x : Group) : (s.setGroup g x).uppers = s.uppers := rfl
@[simp] theorem State.setGroup_faults (s : State) (g : Nat) (x : Group) : (s.setGroup g x).faults = s.faults := rfl
@[simp] theorem State.setGroup_slotless (s : State) (g : Nat) (x : Group) : (s.setGroup g x).slotless = s.slotless := rfl
@[simp] theorem State.setGroup_records (s : State) (g : Nat) (x : Group) : (s.setGroup g x).records = s.records := rfl
@[simp] theorem State.setGroup_teams (s : State) (g : Nat) (x : Group) : (s.setGroup g x).teams = s.teams := rfl
@[simp] theorem State.setGroup_saves (s : State) (g : Nat) (x : Group) : (s.setGroup g x).saves = s.saves := rfl
@[simp] theorem State.setGroup_ctxs (s : State) (g : Nat) (x : Group) : (s.setGroup g x).ctxs = s.ctxs := rfl
@[simp] theorem State.setGroup_cores (s : State) (g : Nat) (x : Group) : (s.setGroup g x).cores = s.cores := rfl
@[simp] theorem State.setGroup_pools (s : State) (g : Nat) (x : Group) : (s.setGroup g x).pools = s.pools := rfl
@[simp] theorem State.setGroup_engines (s : State) (g : Nat) (x : Group) : (s.setGroup g x).engines = s.engines := rfl
@[simp] theorem State.setGroup_books (s : State) (g : Nat) (x : Group) : (s.setGroup g x).books = s.books := rfl
@[simp] theorem State.setGroup_clusters (s : State) (g : Nat) (x : Group) : (s.setGroup g x).clusters = s.clusters := rfl
@[simp] theorem State.setGroup_gatedSlices (s : State) (g : Nat) (x : Group) : (s.setGroup g x).gatedSlices = s.gatedSlices := rfl
@[simp] theorem State.setGroup_vsets (s : State) (g : Nat) (x : Group) : (s.setGroup g x).vsets = s.vsets := rfl
@[simp] theorem State.setGroup_gazes (s : State) (g : Nat) (x : Group) : (s.setGroup g x).gazes = s.gazes := rfl
@[simp] theorem State.setGroup_dpout (s : State) (g : Nat) (x : Group) : (s.setGroup g x).dpout = s.dpout := rfl
@[simp] theorem State.setGroup_streams (s : State) (g : Nat) (x : Group) : (s.setGroup g x).streams = s.streams := rfl
@[simp] theorem State.setGroup_ports (s : State) (g : Nat) (x : Group) : (s.setGroup g x).ports = s.ports := rfl
@[simp] theorem State.setGroup_bridgeDown (s : State) (g : Nat) (x : Group) : (s.setGroup g x).bridgeDown = s.bridgeDown := rfl
@[simp] theorem State.setGroup_modid (s : State) (g : Nat) (x : Group) : (s.setGroup g x).modid = s.modid := rfl
@[simp] theorem State.setGroup_ints (s : State) (g : Nat) (x : Group) : (s.setGroup g x).ints = s.ints := rfl
@[simp] theorem State.setGroup_appendBuf (s : State) (g : Nat) (x : Group) : (s.setGroup g x).appendBuf = s.appendBuf := rfl
@[simp] theorem State.setGroup_appSeq (s : State) (g : Nat) (x : Group) : (s.setGroup g x).appSeq = s.appSeq := rfl
@[simp] theorem State.setGroup_appRes (s : State) (g : Nat) (x : Group) : (s.setGroup g x).appRes = s.appRes := rfl
@[simp] theorem State.setGroup_pwr (s : State) (g : Nat) (x : Group) : (s.setGroup g x).pwr = s.pwr := rfl
@[simp] theorem State.setGroup_tmax (s : State) (g : Nat) (x : Group) : (s.setGroup g x).tmax = s.tmax := rfl
@[simp] theorem State.setGroup_gauge (s : State) (g : Nat) (x : Group) : (s.setGroup g x).gauge = s.gauge := rfl
@[simp] theorem State.setGroup_cerr (s : State) (g : Nat) (x : Group) : (s.setGroup g x).cerr = s.cerr := rfl
@[simp] theorem State.setGroup_fw (s : State) (g : Nat) (x : Group) : (s.setGroup g x).fw = s.fw := rfl
@[simp] theorem State.setGroup_sent (s : State) (g : Nat) (x : Group) : (s.setGroup g x).sent = s.sent := rfl

@[simp] theorem State.setTeam_code (s : State) (t : Nat) (x : Team) : (s.setTeam t x).code = s.code := rfl
@[simp] theorem State.setTeam_sched (s : State) (t : Nat) (x : Team) : (s.setTeam t x).sched = s.sched := rfl
@[simp] theorem State.setTeam_mem (s : State) (t : Nat) (x : Team) : (s.setTeam t x).mem = s.mem := rfl
@[simp] theorem State.setTeam_keyTag (s : State) (t : Nat) (x : Team) : (s.setTeam t x).keyTag = s.keyTag := rfl
@[simp] theorem State.setTeam_hostMem (s : State) (t : Nat) (x : Team) : (s.setTeam t x).hostMem = s.hostMem := rfl
@[simp] theorem State.setTeam_sp (s : State) (t : Nat) (x : Team) : (s.setTeam t x).sp = s.sp := rfl
@[simp] theorem State.setTeam_presence (s : State) (t : Nat) (x : Team) : (s.setTeam t x).presence = s.presence := rfl
@[simp] theorem State.setTeam_csp (s : State) (t : Nat) (x : Team) : (s.setTeam t x).csp = s.csp := rfl
@[simp] theorem State.setTeam_keyFull (s : State) (t : Nat) (x : Team) : (s.setTeam t x).keyFull = s.keyFull := rfl
@[simp] theorem State.setTeam_keyLoads (s : State) (t : Nat) (x : Team) : (s.setTeam t x).keyLoads = s.keyLoads := rfl
@[simp] theorem State.setTeam_pginv (s : State) (t : Nat) (x : Team) : (s.setTeam t x).pginv = s.pginv := rfl
@[simp] theorem State.setTeam_tlb (s : State) (t : Nat) (x : Team) : (s.setTeam t x).tlb = s.tlb := rfl
@[simp] theorem State.setTeam_uppers (s : State) (t : Nat) (x : Team) : (s.setTeam t x).uppers = s.uppers := rfl
@[simp] theorem State.setTeam_faults (s : State) (t : Nat) (x : Team) : (s.setTeam t x).faults = s.faults := rfl
@[simp] theorem State.setTeam_slotless (s : State) (t : Nat) (x : Team) : (s.setTeam t x).slotless = s.slotless := rfl
@[simp] theorem State.setTeam_records (s : State) (t : Nat) (x : Team) : (s.setTeam t x).records = s.records := rfl
@[simp] theorem State.setTeam_groups (s : State) (t : Nat) (x : Team) : (s.setTeam t x).groups = s.groups := rfl
@[simp] theorem State.setTeam_saves (s : State) (t : Nat) (x : Team) : (s.setTeam t x).saves = s.saves := rfl
@[simp] theorem State.setTeam_ctxs (s : State) (t : Nat) (x : Team) : (s.setTeam t x).ctxs = s.ctxs := rfl
@[simp] theorem State.setTeam_cores (s : State) (t : Nat) (x : Team) : (s.setTeam t x).cores = s.cores := rfl
@[simp] theorem State.setTeam_pools (s : State) (t : Nat) (x : Team) : (s.setTeam t x).pools = s.pools := rfl
@[simp] theorem State.setTeam_engines (s : State) (t : Nat) (x : Team) : (s.setTeam t x).engines = s.engines := rfl
@[simp] theorem State.setTeam_books (s : State) (t : Nat) (x : Team) : (s.setTeam t x).books = s.books := rfl
@[simp] theorem State.setTeam_clusters (s : State) (t : Nat) (x : Team) : (s.setTeam t x).clusters = s.clusters := rfl
@[simp] theorem State.setTeam_gatedSlices (s : State) (t : Nat) (x : Team) : (s.setTeam t x).gatedSlices = s.gatedSlices := rfl
@[simp] theorem State.setTeam_vsets (s : State) (t : Nat) (x : Team) : (s.setTeam t x).vsets = s.vsets := rfl
@[simp] theorem State.setTeam_gazes (s : State) (t : Nat) (x : Team) : (s.setTeam t x).gazes = s.gazes := rfl
@[simp] theorem State.setTeam_dpout (s : State) (t : Nat) (x : Team) : (s.setTeam t x).dpout = s.dpout := rfl
@[simp] theorem State.setTeam_streams (s : State) (t : Nat) (x : Team) : (s.setTeam t x).streams = s.streams := rfl
@[simp] theorem State.setTeam_ports (s : State) (t : Nat) (x : Team) : (s.setTeam t x).ports = s.ports := rfl
@[simp] theorem State.setTeam_bridgeDown (s : State) (t : Nat) (x : Team) : (s.setTeam t x).bridgeDown = s.bridgeDown := rfl
@[simp] theorem State.setTeam_modid (s : State) (t : Nat) (x : Team) : (s.setTeam t x).modid = s.modid := rfl
@[simp] theorem State.setTeam_ints (s : State) (t : Nat) (x : Team) : (s.setTeam t x).ints = s.ints := rfl
@[simp] theorem State.setTeam_appendBuf (s : State) (t : Nat) (x : Team) : (s.setTeam t x).appendBuf = s.appendBuf := rfl
@[simp] theorem State.setTeam_appSeq (s : State) (t : Nat) (x : Team) : (s.setTeam t x).appSeq = s.appSeq := rfl
@[simp] theorem State.setTeam_appRes (s : State) (t : Nat) (x : Team) : (s.setTeam t x).appRes = s.appRes := rfl
@[simp] theorem State.setTeam_pwr (s : State) (t : Nat) (x : Team) : (s.setTeam t x).pwr = s.pwr := rfl
@[simp] theorem State.setTeam_tmax (s : State) (t : Nat) (x : Team) : (s.setTeam t x).tmax = s.tmax := rfl
@[simp] theorem State.setTeam_gauge (s : State) (t : Nat) (x : Team) : (s.setTeam t x).gauge = s.gauge := rfl
@[simp] theorem State.setTeam_cerr (s : State) (t : Nat) (x : Team) : (s.setTeam t x).cerr = s.cerr := rfl
@[simp] theorem State.setTeam_fw (s : State) (t : Nat) (x : Team) : (s.setTeam t x).fw = s.fw := rfl
@[simp] theorem State.setTeam_sent (s : State) (t : Nat) (x : Team) : (s.setTeam t x).sent = s.sent := rfl

@[simp] theorem State.setCtx_code (s : State) (c : Nat) (x : Ctx) : (s.setCtx c x).code = s.code := rfl
@[simp] theorem State.setCtx_sched (s : State) (c : Nat) (x : Ctx) : (s.setCtx c x).sched = s.sched := rfl
@[simp] theorem State.setCtx_mem (s : State) (c : Nat) (x : Ctx) : (s.setCtx c x).mem = s.mem := rfl
@[simp] theorem State.setCtx_keyTag (s : State) (c : Nat) (x : Ctx) : (s.setCtx c x).keyTag = s.keyTag := rfl
@[simp] theorem State.setCtx_hostMem (s : State) (c : Nat) (x : Ctx) : (s.setCtx c x).hostMem = s.hostMem := rfl
@[simp] theorem State.setCtx_sp (s : State) (c : Nat) (x : Ctx) : (s.setCtx c x).sp = s.sp := rfl
@[simp] theorem State.setCtx_presence (s : State) (c : Nat) (x : Ctx) : (s.setCtx c x).presence = s.presence := rfl
@[simp] theorem State.setCtx_csp (s : State) (c : Nat) (x : Ctx) : (s.setCtx c x).csp = s.csp := rfl
@[simp] theorem State.setCtx_keyFull (s : State) (c : Nat) (x : Ctx) : (s.setCtx c x).keyFull = s.keyFull := rfl
@[simp] theorem State.setCtx_keyLoads (s : State) (c : Nat) (x : Ctx) : (s.setCtx c x).keyLoads = s.keyLoads := rfl
@[simp] theorem State.setCtx_pginv (s : State) (c : Nat) (x : Ctx) : (s.setCtx c x).pginv = s.pginv := rfl
@[simp] theorem State.setCtx_tlb (s : State) (c : Nat) (x : Ctx) : (s.setCtx c x).tlb = s.tlb := rfl
@[simp] theorem State.setCtx_uppers (s : State) (c : Nat) (x : Ctx) : (s.setCtx c x).uppers = s.uppers := rfl
@[simp] theorem State.setCtx_faults (s : State) (c : Nat) (x : Ctx) : (s.setCtx c x).faults = s.faults := rfl
@[simp] theorem State.setCtx_slotless (s : State) (c : Nat) (x : Ctx) : (s.setCtx c x).slotless = s.slotless := rfl
@[simp] theorem State.setCtx_records (s : State) (c : Nat) (x : Ctx) : (s.setCtx c x).records = s.records := rfl
@[simp] theorem State.setCtx_teams (s : State) (c : Nat) (x : Ctx) : (s.setCtx c x).teams = s.teams := rfl
@[simp] theorem State.setCtx_groups (s : State) (c : Nat) (x : Ctx) : (s.setCtx c x).groups = s.groups := rfl
@[simp] theorem State.setCtx_saves (s : State) (c : Nat) (x : Ctx) : (s.setCtx c x).saves = s.saves := rfl
@[simp] theorem State.setCtx_cores (s : State) (c : Nat) (x : Ctx) : (s.setCtx c x).cores = s.cores := rfl
@[simp] theorem State.setCtx_pools (s : State) (c : Nat) (x : Ctx) : (s.setCtx c x).pools = s.pools := rfl
@[simp] theorem State.setCtx_engines (s : State) (c : Nat) (x : Ctx) : (s.setCtx c x).engines = s.engines := rfl
@[simp] theorem State.setCtx_books (s : State) (c : Nat) (x : Ctx) : (s.setCtx c x).books = s.books := rfl
@[simp] theorem State.setCtx_clusters (s : State) (c : Nat) (x : Ctx) : (s.setCtx c x).clusters = s.clusters := rfl
@[simp] theorem State.setCtx_gatedSlices (s : State) (c : Nat) (x : Ctx) : (s.setCtx c x).gatedSlices = s.gatedSlices := rfl
@[simp] theorem State.setCtx_vsets (s : State) (c : Nat) (x : Ctx) : (s.setCtx c x).vsets = s.vsets := rfl
@[simp] theorem State.setCtx_gazes (s : State) (c : Nat) (x : Ctx) : (s.setCtx c x).gazes = s.gazes := rfl
@[simp] theorem State.setCtx_dpout (s : State) (c : Nat) (x : Ctx) : (s.setCtx c x).dpout = s.dpout := rfl
@[simp] theorem State.setCtx_streams (s : State) (c : Nat) (x : Ctx) : (s.setCtx c x).streams = s.streams := rfl
@[simp] theorem State.setCtx_ports (s : State) (c : Nat) (x : Ctx) : (s.setCtx c x).ports = s.ports := rfl
@[simp] theorem State.setCtx_bridgeDown (s : State) (c : Nat) (x : Ctx) : (s.setCtx c x).bridgeDown = s.bridgeDown := rfl
@[simp] theorem State.setCtx_modid (s : State) (c : Nat) (x : Ctx) : (s.setCtx c x).modid = s.modid := rfl
@[simp] theorem State.setCtx_ints (s : State) (c : Nat) (x : Ctx) : (s.setCtx c x).ints = s.ints := rfl
@[simp] theorem State.setCtx_appendBuf (s : State) (c : Nat) (x : Ctx) : (s.setCtx c x).appendBuf = s.appendBuf := rfl
@[simp] theorem State.setCtx_appSeq (s : State) (c : Nat) (x : Ctx) : (s.setCtx c x).appSeq = s.appSeq := rfl
@[simp] theorem State.setCtx_appRes (s : State) (c : Nat) (x : Ctx) : (s.setCtx c x).appRes = s.appRes := rfl
@[simp] theorem State.setCtx_pwr (s : State) (c : Nat) (x : Ctx) : (s.setCtx c x).pwr = s.pwr := rfl
@[simp] theorem State.setCtx_tmax (s : State) (c : Nat) (x : Ctx) : (s.setCtx c x).tmax = s.tmax := rfl
@[simp] theorem State.setCtx_gauge (s : State) (c : Nat) (x : Ctx) : (s.setCtx c x).gauge = s.gauge := rfl
@[simp] theorem State.setCtx_cerr (s : State) (c : Nat) (x : Ctx) : (s.setCtx c x).cerr = s.cerr := rfl
@[simp] theorem State.setCtx_fw (s : State) (c : Nat) (x : Ctx) : (s.setCtx c x).fw = s.fw := rfl
@[simp] theorem State.setCtx_sent (s : State) (c : Nat) (x : Ctx) : (s.setCtx c x).sent = s.sent := rfl

@[simp] theorem State.modCtx_code (s : State) (c : Nat) (f : Ctx → Ctx) : (s.modCtx c f).code = s.code := rfl
@[simp] theorem State.modCtx_sched (s : State) (c : Nat) (f : Ctx → Ctx) : (s.modCtx c f).sched = s.sched := rfl
@[simp] theorem State.modCtx_mem (s : State) (c : Nat) (f : Ctx → Ctx) : (s.modCtx c f).mem = s.mem := rfl
@[simp] theorem State.modCtx_keyTag (s : State) (c : Nat) (f : Ctx → Ctx) : (s.modCtx c f).keyTag = s.keyTag := rfl
@[simp] theorem State.modCtx_hostMem (s : State) (c : Nat) (f : Ctx → Ctx) : (s.modCtx c f).hostMem = s.hostMem := rfl
@[simp] theorem State.modCtx_sp (s : State) (c : Nat) (f : Ctx → Ctx) : (s.modCtx c f).sp = s.sp := rfl
@[simp] theorem State.modCtx_presence (s : State) (c : Nat) (f : Ctx → Ctx) : (s.modCtx c f).presence = s.presence := rfl
@[simp] theorem State.modCtx_csp (s : State) (c : Nat) (f : Ctx → Ctx) : (s.modCtx c f).csp = s.csp := rfl
@[simp] theorem State.modCtx_keyFull (s : State) (c : Nat) (f : Ctx → Ctx) : (s.modCtx c f).keyFull = s.keyFull := rfl
@[simp] theorem State.modCtx_keyLoads (s : State) (c : Nat) (f : Ctx → Ctx) : (s.modCtx c f).keyLoads = s.keyLoads := rfl
@[simp] theorem State.modCtx_pginv (s : State) (c : Nat) (f : Ctx → Ctx) : (s.modCtx c f).pginv = s.pginv := rfl
@[simp] theorem State.modCtx_tlb (s : State) (c : Nat) (f : Ctx → Ctx) : (s.modCtx c f).tlb = s.tlb := rfl
@[simp] theorem State.modCtx_uppers (s : State) (c : Nat) (f : Ctx → Ctx) : (s.modCtx c f).uppers = s.uppers := rfl
@[simp] theorem State.modCtx_faults (s : State) (c : Nat) (f : Ctx → Ctx) : (s.modCtx c f).faults = s.faults := rfl
@[simp] theorem State.modCtx_slotless (s : State) (c : Nat) (f : Ctx → Ctx) : (s.modCtx c f).slotless = s.slotless := rfl
@[simp] theorem State.modCtx_records (s : State) (c : Nat) (f : Ctx → Ctx) : (s.modCtx c f).records = s.records := rfl
@[simp] theorem State.modCtx_teams (s : State) (c : Nat) (f : Ctx → Ctx) : (s.modCtx c f).teams = s.teams := rfl
@[simp] theorem State.modCtx_groups (s : State) (c : Nat) (f : Ctx → Ctx) : (s.modCtx c f).groups = s.groups := rfl
@[simp] theorem State.modCtx_saves (s : State) (c : Nat) (f : Ctx → Ctx) : (s.modCtx c f).saves = s.saves := rfl
@[simp] theorem State.modCtx_cores (s : State) (c : Nat) (f : Ctx → Ctx) : (s.modCtx c f).cores = s.cores := rfl
@[simp] theorem State.modCtx_pools (s : State) (c : Nat) (f : Ctx → Ctx) : (s.modCtx c f).pools = s.pools := rfl
@[simp] theorem State.modCtx_engines (s : State) (c : Nat) (f : Ctx → Ctx) : (s.modCtx c f).engines = s.engines := rfl
@[simp] theorem State.modCtx_books (s : State) (c : Nat) (f : Ctx → Ctx) : (s.modCtx c f).books = s.books := rfl
@[simp] theorem State.modCtx_clusters (s : State) (c : Nat) (f : Ctx → Ctx) : (s.modCtx c f).clusters = s.clusters := rfl
@[simp] theorem State.modCtx_gatedSlices (s : State) (c : Nat) (f : Ctx → Ctx) : (s.modCtx c f).gatedSlices = s.gatedSlices := rfl
@[simp] theorem State.modCtx_vsets (s : State) (c : Nat) (f : Ctx → Ctx) : (s.modCtx c f).vsets = s.vsets := rfl
@[simp] theorem State.modCtx_gazes (s : State) (c : Nat) (f : Ctx → Ctx) : (s.modCtx c f).gazes = s.gazes := rfl
@[simp] theorem State.modCtx_dpout (s : State) (c : Nat) (f : Ctx → Ctx) : (s.modCtx c f).dpout = s.dpout := rfl
@[simp] theorem State.modCtx_streams (s : State) (c : Nat) (f : Ctx → Ctx) : (s.modCtx c f).streams = s.streams := rfl
@[simp] theorem State.modCtx_ports (s : State) (c : Nat) (f : Ctx → Ctx) : (s.modCtx c f).ports = s.ports := rfl
@[simp] theorem State.modCtx_bridgeDown (s : State) (c : Nat) (f : Ctx → Ctx) : (s.modCtx c f).bridgeDown = s.bridgeDown := rfl
@[simp] theorem State.modCtx_modid (s : State) (c : Nat) (f : Ctx → Ctx) : (s.modCtx c f).modid = s.modid := rfl
@[simp] theorem State.modCtx_ints (s : State) (c : Nat) (f : Ctx → Ctx) : (s.modCtx c f).ints = s.ints := rfl
@[simp] theorem State.modCtx_appendBuf (s : State) (c : Nat) (f : Ctx → Ctx) : (s.modCtx c f).appendBuf = s.appendBuf := rfl
@[simp] theorem State.modCtx_appSeq (s : State) (c : Nat) (f : Ctx → Ctx) : (s.modCtx c f).appSeq = s.appSeq := rfl
@[simp] theorem State.modCtx_appRes (s : State) (c : Nat) (f : Ctx → Ctx) : (s.modCtx c f).appRes = s.appRes := rfl
@[simp] theorem State.modCtx_pwr (s : State) (c : Nat) (f : Ctx → Ctx) : (s.modCtx c f).pwr = s.pwr := rfl
@[simp] theorem State.modCtx_tmax (s : State) (c : Nat) (f : Ctx → Ctx) : (s.modCtx c f).tmax = s.tmax := rfl
@[simp] theorem State.modCtx_gauge (s : State) (c : Nat) (f : Ctx → Ctx) : (s.modCtx c f).gauge = s.gauge := rfl
@[simp] theorem State.modCtx_cerr (s : State) (c : Nat) (f : Ctx → Ctx) : (s.modCtx c f).cerr = s.cerr := rfl
@[simp] theorem State.modCtx_fw (s : State) (c : Nat) (f : Ctx → Ctx) : (s.modCtx c f).fw = s.fw := rfl
@[simp] theorem State.modCtx_sent (s : State) (c : Nat) (f : Ctx → Ctx) : (s.modCtx c f).sent = s.sent := rfl

@[simp] theorem State.setCore_code (s : State) (k : Nat) (x : Core) : (s.setCore k x).code = s.code := rfl
@[simp] theorem State.setCore_sched (s : State) (k : Nat) (x : Core) : (s.setCore k x).sched = s.sched := rfl
@[simp] theorem State.setCore_mem (s : State) (k : Nat) (x : Core) : (s.setCore k x).mem = s.mem := rfl
@[simp] theorem State.setCore_keyTag (s : State) (k : Nat) (x : Core) : (s.setCore k x).keyTag = s.keyTag := rfl
@[simp] theorem State.setCore_hostMem (s : State) (k : Nat) (x : Core) : (s.setCore k x).hostMem = s.hostMem := rfl
@[simp] theorem State.setCore_sp (s : State) (k : Nat) (x : Core) : (s.setCore k x).sp = s.sp := rfl
@[simp] theorem State.setCore_presence (s : State) (k : Nat) (x : Core) : (s.setCore k x).presence = s.presence := rfl
@[simp] theorem State.setCore_csp (s : State) (k : Nat) (x : Core) : (s.setCore k x).csp = s.csp := rfl
@[simp] theorem State.setCore_keyFull (s : State) (k : Nat) (x : Core) : (s.setCore k x).keyFull = s.keyFull := rfl
@[simp] theorem State.setCore_keyLoads (s : State) (k : Nat) (x : Core) : (s.setCore k x).keyLoads = s.keyLoads := rfl
@[simp] theorem State.setCore_pginv (s : State) (k : Nat) (x : Core) : (s.setCore k x).pginv = s.pginv := rfl
@[simp] theorem State.setCore_tlb (s : State) (k : Nat) (x : Core) : (s.setCore k x).tlb = s.tlb := rfl
@[simp] theorem State.setCore_uppers (s : State) (k : Nat) (x : Core) : (s.setCore k x).uppers = s.uppers := rfl
@[simp] theorem State.setCore_faults (s : State) (k : Nat) (x : Core) : (s.setCore k x).faults = s.faults := rfl
@[simp] theorem State.setCore_slotless (s : State) (k : Nat) (x : Core) : (s.setCore k x).slotless = s.slotless := rfl
@[simp] theorem State.setCore_records (s : State) (k : Nat) (x : Core) : (s.setCore k x).records = s.records := rfl
@[simp] theorem State.setCore_teams (s : State) (k : Nat) (x : Core) : (s.setCore k x).teams = s.teams := rfl
@[simp] theorem State.setCore_groups (s : State) (k : Nat) (x : Core) : (s.setCore k x).groups = s.groups := rfl
@[simp] theorem State.setCore_saves (s : State) (k : Nat) (x : Core) : (s.setCore k x).saves = s.saves := rfl
@[simp] theorem State.setCore_ctxs (s : State) (k : Nat) (x : Core) : (s.setCore k x).ctxs = s.ctxs := rfl
@[simp] theorem State.setCore_pools (s : State) (k : Nat) (x : Core) : (s.setCore k x).pools = s.pools := rfl
@[simp] theorem State.setCore_engines (s : State) (k : Nat) (x : Core) : (s.setCore k x).engines = s.engines := rfl
@[simp] theorem State.setCore_books (s : State) (k : Nat) (x : Core) : (s.setCore k x).books = s.books := rfl
@[simp] theorem State.setCore_clusters (s : State) (k : Nat) (x : Core) : (s.setCore k x).clusters = s.clusters := rfl
@[simp] theorem State.setCore_gatedSlices (s : State) (k : Nat) (x : Core) : (s.setCore k x).gatedSlices = s.gatedSlices := rfl
@[simp] theorem State.setCore_vsets (s : State) (k : Nat) (x : Core) : (s.setCore k x).vsets = s.vsets := rfl
@[simp] theorem State.setCore_gazes (s : State) (k : Nat) (x : Core) : (s.setCore k x).gazes = s.gazes := rfl
@[simp] theorem State.setCore_dpout (s : State) (k : Nat) (x : Core) : (s.setCore k x).dpout = s.dpout := rfl
@[simp] theorem State.setCore_streams (s : State) (k : Nat) (x : Core) : (s.setCore k x).streams = s.streams := rfl
@[simp] theorem State.setCore_ports (s : State) (k : Nat) (x : Core) : (s.setCore k x).ports = s.ports := rfl
@[simp] theorem State.setCore_bridgeDown (s : State) (k : Nat) (x : Core) : (s.setCore k x).bridgeDown = s.bridgeDown := rfl
@[simp] theorem State.setCore_modid (s : State) (k : Nat) (x : Core) : (s.setCore k x).modid = s.modid := rfl
@[simp] theorem State.setCore_ints (s : State) (k : Nat) (x : Core) : (s.setCore k x).ints = s.ints := rfl
@[simp] theorem State.setCore_appendBuf (s : State) (k : Nat) (x : Core) : (s.setCore k x).appendBuf = s.appendBuf := rfl
@[simp] theorem State.setCore_appSeq (s : State) (k : Nat) (x : Core) : (s.setCore k x).appSeq = s.appSeq := rfl
@[simp] theorem State.setCore_appRes (s : State) (k : Nat) (x : Core) : (s.setCore k x).appRes = s.appRes := rfl
@[simp] theorem State.setCore_pwr (s : State) (k : Nat) (x : Core) : (s.setCore k x).pwr = s.pwr := rfl
@[simp] theorem State.setCore_tmax (s : State) (k : Nat) (x : Core) : (s.setCore k x).tmax = s.tmax := rfl
@[simp] theorem State.setCore_gauge (s : State) (k : Nat) (x : Core) : (s.setCore k x).gauge = s.gauge := rfl
@[simp] theorem State.setCore_cerr (s : State) (k : Nat) (x : Core) : (s.setCore k x).cerr = s.cerr := rfl
@[simp] theorem State.setCore_fw (s : State) (k : Nat) (x : Core) : (s.setCore k x).fw = s.fw := rfl
@[simp] theorem State.setCore_sent (s : State) (k : Nat) (x : Core) : (s.setCore k x).sent = s.sent := rfl

@[simp] theorem State.modCore_code (s : State) (k : Nat) (f : Core → Core) : (s.modCore k f).code = s.code := rfl
@[simp] theorem State.modCore_sched (s : State) (k : Nat) (f : Core → Core) : (s.modCore k f).sched = s.sched := rfl
@[simp] theorem State.modCore_mem (s : State) (k : Nat) (f : Core → Core) : (s.modCore k f).mem = s.mem := rfl
@[simp] theorem State.modCore_keyTag (s : State) (k : Nat) (f : Core → Core) : (s.modCore k f).keyTag = s.keyTag := rfl
@[simp] theorem State.modCore_hostMem (s : State) (k : Nat) (f : Core → Core) : (s.modCore k f).hostMem = s.hostMem := rfl
@[simp] theorem State.modCore_sp (s : State) (k : Nat) (f : Core → Core) : (s.modCore k f).sp = s.sp := rfl
@[simp] theorem State.modCore_presence (s : State) (k : Nat) (f : Core → Core) : (s.modCore k f).presence = s.presence := rfl
@[simp] theorem State.modCore_csp (s : State) (k : Nat) (f : Core → Core) : (s.modCore k f).csp = s.csp := rfl
@[simp] theorem State.modCore_keyFull (s : State) (k : Nat) (f : Core → Core) : (s.modCore k f).keyFull = s.keyFull := rfl
@[simp] theorem State.modCore_keyLoads (s : State) (k : Nat) (f : Core → Core) : (s.modCore k f).keyLoads = s.keyLoads := rfl
@[simp] theorem State.modCore_pginv (s : State) (k : Nat) (f : Core → Core) : (s.modCore k f).pginv = s.pginv := rfl
@[simp] theorem State.modCore_tlb (s : State) (k : Nat) (f : Core → Core) : (s.modCore k f).tlb = s.tlb := rfl
@[simp] theorem State.modCore_uppers (s : State) (k : Nat) (f : Core → Core) : (s.modCore k f).uppers = s.uppers := rfl
@[simp] theorem State.modCore_faults (s : State) (k : Nat) (f : Core → Core) : (s.modCore k f).faults = s.faults := rfl
@[simp] theorem State.modCore_slotless (s : State) (k : Nat) (f : Core → Core) : (s.modCore k f).slotless = s.slotless := rfl
@[simp] theorem State.modCore_records (s : State) (k : Nat) (f : Core → Core) : (s.modCore k f).records = s.records := rfl
@[simp] theorem State.modCore_teams (s : State) (k : Nat) (f : Core → Core) : (s.modCore k f).teams = s.teams := rfl
@[simp] theorem State.modCore_groups (s : State) (k : Nat) (f : Core → Core) : (s.modCore k f).groups = s.groups := rfl
@[simp] theorem State.modCore_saves (s : State) (k : Nat) (f : Core → Core) : (s.modCore k f).saves = s.saves := rfl
@[simp] theorem State.modCore_ctxs (s : State) (k : Nat) (f : Core → Core) : (s.modCore k f).ctxs = s.ctxs := rfl
@[simp] theorem State.modCore_pools (s : State) (k : Nat) (f : Core → Core) : (s.modCore k f).pools = s.pools := rfl
@[simp] theorem State.modCore_engines (s : State) (k : Nat) (f : Core → Core) : (s.modCore k f).engines = s.engines := rfl
@[simp] theorem State.modCore_books (s : State) (k : Nat) (f : Core → Core) : (s.modCore k f).books = s.books := rfl
@[simp] theorem State.modCore_clusters (s : State) (k : Nat) (f : Core → Core) : (s.modCore k f).clusters = s.clusters := rfl
@[simp] theorem State.modCore_gatedSlices (s : State) (k : Nat) (f : Core → Core) : (s.modCore k f).gatedSlices = s.gatedSlices := rfl
@[simp] theorem State.modCore_vsets (s : State) (k : Nat) (f : Core → Core) : (s.modCore k f).vsets = s.vsets := rfl
@[simp] theorem State.modCore_gazes (s : State) (k : Nat) (f : Core → Core) : (s.modCore k f).gazes = s.gazes := rfl
@[simp] theorem State.modCore_dpout (s : State) (k : Nat) (f : Core → Core) : (s.modCore k f).dpout = s.dpout := rfl
@[simp] theorem State.modCore_streams (s : State) (k : Nat) (f : Core → Core) : (s.modCore k f).streams = s.streams := rfl
@[simp] theorem State.modCore_ports (s : State) (k : Nat) (f : Core → Core) : (s.modCore k f).ports = s.ports := rfl
@[simp] theorem State.modCore_bridgeDown (s : State) (k : Nat) (f : Core → Core) : (s.modCore k f).bridgeDown = s.bridgeDown := rfl
@[simp] theorem State.modCore_modid (s : State) (k : Nat) (f : Core → Core) : (s.modCore k f).modid = s.modid := rfl
@[simp] theorem State.modCore_ints (s : State) (k : Nat) (f : Core → Core) : (s.modCore k f).ints = s.ints := rfl
@[simp] theorem State.modCore_appendBuf (s : State) (k : Nat) (f : Core → Core) : (s.modCore k f).appendBuf = s.appendBuf := rfl
@[simp] theorem State.modCore_appSeq (s : State) (k : Nat) (f : Core → Core) : (s.modCore k f).appSeq = s.appSeq := rfl
@[simp] theorem State.modCore_appRes (s : State) (k : Nat) (f : Core → Core) : (s.modCore k f).appRes = s.appRes := rfl
@[simp] theorem State.modCore_pwr (s : State) (k : Nat) (f : Core → Core) : (s.modCore k f).pwr = s.pwr := rfl
@[simp] theorem State.modCore_tmax (s : State) (k : Nat) (f : Core → Core) : (s.modCore k f).tmax = s.tmax := rfl
@[simp] theorem State.modCore_gauge (s : State) (k : Nat) (f : Core → Core) : (s.modCore k f).gauge = s.gauge := rfl
@[simp] theorem State.modCore_cerr (s : State) (k : Nat) (f : Core → Core) : (s.modCore k f).cerr = s.cerr := rfl
@[simp] theorem State.modCore_fw (s : State) (k : Nat) (f : Core → Core) : (s.modCore k f).fw = s.fw := rfl
@[simp] theorem State.modCore_sent (s : State) (k : Nat) (f : Core → Core) : (s.modCore k f).sent = s.sent := rfl

@[simp] theorem State.modCluster_code (s : State) (k : Nat) (f : Cluster → Cluster) : (s.modCluster k f).code = s.code := rfl
@[simp] theorem State.modCluster_sched (s : State) (k : Nat) (f : Cluster → Cluster) : (s.modCluster k f).sched = s.sched := rfl
@[simp] theorem State.modCluster_mem (s : State) (k : Nat) (f : Cluster → Cluster) : (s.modCluster k f).mem = s.mem := rfl
@[simp] theorem State.modCluster_keyTag (s : State) (k : Nat) (f : Cluster → Cluster) : (s.modCluster k f).keyTag = s.keyTag := rfl
@[simp] theorem State.modCluster_hostMem (s : State) (k : Nat) (f : Cluster → Cluster) : (s.modCluster k f).hostMem = s.hostMem := rfl
@[simp] theorem State.modCluster_sp (s : State) (k : Nat) (f : Cluster → Cluster) : (s.modCluster k f).sp = s.sp := rfl
@[simp] theorem State.modCluster_presence (s : State) (k : Nat) (f : Cluster → Cluster) : (s.modCluster k f).presence = s.presence := rfl
@[simp] theorem State.modCluster_csp (s : State) (k : Nat) (f : Cluster → Cluster) : (s.modCluster k f).csp = s.csp := rfl
@[simp] theorem State.modCluster_keyFull (s : State) (k : Nat) (f : Cluster → Cluster) : (s.modCluster k f).keyFull = s.keyFull := rfl
@[simp] theorem State.modCluster_keyLoads (s : State) (k : Nat) (f : Cluster → Cluster) : (s.modCluster k f).keyLoads = s.keyLoads := rfl
@[simp] theorem State.modCluster_pginv (s : State) (k : Nat) (f : Cluster → Cluster) : (s.modCluster k f).pginv = s.pginv := rfl
@[simp] theorem State.modCluster_tlb (s : State) (k : Nat) (f : Cluster → Cluster) : (s.modCluster k f).tlb = s.tlb := rfl
@[simp] theorem State.modCluster_uppers (s : State) (k : Nat) (f : Cluster → Cluster) : (s.modCluster k f).uppers = s.uppers := rfl
@[simp] theorem State.modCluster_faults (s : State) (k : Nat) (f : Cluster → Cluster) : (s.modCluster k f).faults = s.faults := rfl
@[simp] theorem State.modCluster_slotless (s : State) (k : Nat) (f : Cluster → Cluster) : (s.modCluster k f).slotless = s.slotless := rfl
@[simp] theorem State.modCluster_records (s : State) (k : Nat) (f : Cluster → Cluster) : (s.modCluster k f).records = s.records := rfl
@[simp] theorem State.modCluster_teams (s : State) (k : Nat) (f : Cluster → Cluster) : (s.modCluster k f).teams = s.teams := rfl
@[simp] theorem State.modCluster_groups (s : State) (k : Nat) (f : Cluster → Cluster) : (s.modCluster k f).groups = s.groups := rfl
@[simp] theorem State.modCluster_saves (s : State) (k : Nat) (f : Cluster → Cluster) : (s.modCluster k f).saves = s.saves := rfl
@[simp] theorem State.modCluster_ctxs (s : State) (k : Nat) (f : Cluster → Cluster) : (s.modCluster k f).ctxs = s.ctxs := rfl
@[simp] theorem State.modCluster_cores (s : State) (k : Nat) (f : Cluster → Cluster) : (s.modCluster k f).cores = s.cores := rfl
@[simp] theorem State.modCluster_pools (s : State) (k : Nat) (f : Cluster → Cluster) : (s.modCluster k f).pools = s.pools := rfl
@[simp] theorem State.modCluster_engines (s : State) (k : Nat) (f : Cluster → Cluster) : (s.modCluster k f).engines = s.engines := rfl
@[simp] theorem State.modCluster_books (s : State) (k : Nat) (f : Cluster → Cluster) : (s.modCluster k f).books = s.books := rfl
@[simp] theorem State.modCluster_gatedSlices (s : State) (k : Nat) (f : Cluster → Cluster) : (s.modCluster k f).gatedSlices = s.gatedSlices := rfl
@[simp] theorem State.modCluster_vsets (s : State) (k : Nat) (f : Cluster → Cluster) : (s.modCluster k f).vsets = s.vsets := rfl
@[simp] theorem State.modCluster_gazes (s : State) (k : Nat) (f : Cluster → Cluster) : (s.modCluster k f).gazes = s.gazes := rfl
@[simp] theorem State.modCluster_dpout (s : State) (k : Nat) (f : Cluster → Cluster) : (s.modCluster k f).dpout = s.dpout := rfl
@[simp] theorem State.modCluster_streams (s : State) (k : Nat) (f : Cluster → Cluster) : (s.modCluster k f).streams = s.streams := rfl
@[simp] theorem State.modCluster_ports (s : State) (k : Nat) (f : Cluster → Cluster) : (s.modCluster k f).ports = s.ports := rfl
@[simp] theorem State.modCluster_bridgeDown (s : State) (k : Nat) (f : Cluster → Cluster) : (s.modCluster k f).bridgeDown = s.bridgeDown := rfl
@[simp] theorem State.modCluster_modid (s : State) (k : Nat) (f : Cluster → Cluster) : (s.modCluster k f).modid = s.modid := rfl
@[simp] theorem State.modCluster_ints (s : State) (k : Nat) (f : Cluster → Cluster) : (s.modCluster k f).ints = s.ints := rfl
@[simp] theorem State.modCluster_appendBuf (s : State) (k : Nat) (f : Cluster → Cluster) : (s.modCluster k f).appendBuf = s.appendBuf := rfl
@[simp] theorem State.modCluster_appSeq (s : State) (k : Nat) (f : Cluster → Cluster) : (s.modCluster k f).appSeq = s.appSeq := rfl
@[simp] theorem State.modCluster_appRes (s : State) (k : Nat) (f : Cluster → Cluster) : (s.modCluster k f).appRes = s.appRes := rfl
@[simp] theorem State.modCluster_pwr (s : State) (k : Nat) (f : Cluster → Cluster) : (s.modCluster k f).pwr = s.pwr := rfl
@[simp] theorem State.modCluster_tmax (s : State) (k : Nat) (f : Cluster → Cluster) : (s.modCluster k f).tmax = s.tmax := rfl
@[simp] theorem State.modCluster_gauge (s : State) (k : Nat) (f : Cluster → Cluster) : (s.modCluster k f).gauge = s.gauge := rfl
@[simp] theorem State.modCluster_cerr (s : State) (k : Nat) (f : Cluster → Cluster) : (s.modCluster k f).cerr = s.cerr := rfl
@[simp] theorem State.modCluster_fw (s : State) (k : Nat) (f : Cluster → Cluster) : (s.modCluster k f).fw = s.fw := rfl
@[simp] theorem State.modCluster_sent (s : State) (k : Nat) (f : Cluster → Cluster) : (s.modCluster k f).sent = s.sent := rfl

@[simp] theorem State.modPool_code (s : State) (k : Nat) (f : Pool → Pool) : (s.modPool k f).code = s.code := rfl
@[simp] theorem State.modPool_sched (s : State) (k : Nat) (f : Pool → Pool) : (s.modPool k f).sched = s.sched := rfl
@[simp] theorem State.modPool_mem (s : State) (k : Nat) (f : Pool → Pool) : (s.modPool k f).mem = s.mem := rfl
@[simp] theorem State.modPool_keyTag (s : State) (k : Nat) (f : Pool → Pool) : (s.modPool k f).keyTag = s.keyTag := rfl
@[simp] theorem State.modPool_hostMem (s : State) (k : Nat) (f : Pool → Pool) : (s.modPool k f).hostMem = s.hostMem := rfl
@[simp] theorem State.modPool_sp (s : State) (k : Nat) (f : Pool → Pool) : (s.modPool k f).sp = s.sp := rfl
@[simp] theorem State.modPool_presence (s : State) (k : Nat) (f : Pool → Pool) : (s.modPool k f).presence = s.presence := rfl
@[simp] theorem State.modPool_csp (s : State) (k : Nat) (f : Pool → Pool) : (s.modPool k f).csp = s.csp := rfl
@[simp] theorem State.modPool_keyFull (s : State) (k : Nat) (f : Pool → Pool) : (s.modPool k f).keyFull = s.keyFull := rfl
@[simp] theorem State.modPool_keyLoads (s : State) (k : Nat) (f : Pool → Pool) : (s.modPool k f).keyLoads = s.keyLoads := rfl
@[simp] theorem State.modPool_pginv (s : State) (k : Nat) (f : Pool → Pool) : (s.modPool k f).pginv = s.pginv := rfl
@[simp] theorem State.modPool_tlb (s : State) (k : Nat) (f : Pool → Pool) : (s.modPool k f).tlb = s.tlb := rfl
@[simp] theorem State.modPool_uppers (s : State) (k : Nat) (f : Pool → Pool) : (s.modPool k f).uppers = s.uppers := rfl
@[simp] theorem State.modPool_faults (s : State) (k : Nat) (f : Pool → Pool) : (s.modPool k f).faults = s.faults := rfl
@[simp] theorem State.modPool_slotless (s : State) (k : Nat) (f : Pool → Pool) : (s.modPool k f).slotless = s.slotless := rfl
@[simp] theorem State.modPool_records (s : State) (k : Nat) (f : Pool → Pool) : (s.modPool k f).records = s.records := rfl
@[simp] theorem State.modPool_teams (s : State) (k : Nat) (f : Pool → Pool) : (s.modPool k f).teams = s.teams := rfl
@[simp] theorem State.modPool_groups (s : State) (k : Nat) (f : Pool → Pool) : (s.modPool k f).groups = s.groups := rfl
@[simp] theorem State.modPool_saves (s : State) (k : Nat) (f : Pool → Pool) : (s.modPool k f).saves = s.saves := rfl
@[simp] theorem State.modPool_ctxs (s : State) (k : Nat) (f : Pool → Pool) : (s.modPool k f).ctxs = s.ctxs := rfl
@[simp] theorem State.modPool_cores (s : State) (k : Nat) (f : Pool → Pool) : (s.modPool k f).cores = s.cores := rfl
@[simp] theorem State.modPool_engines (s : State) (k : Nat) (f : Pool → Pool) : (s.modPool k f).engines = s.engines := rfl
@[simp] theorem State.modPool_books (s : State) (k : Nat) (f : Pool → Pool) : (s.modPool k f).books = s.books := rfl
@[simp] theorem State.modPool_clusters (s : State) (k : Nat) (f : Pool → Pool) : (s.modPool k f).clusters = s.clusters := rfl
@[simp] theorem State.modPool_gatedSlices (s : State) (k : Nat) (f : Pool → Pool) : (s.modPool k f).gatedSlices = s.gatedSlices := rfl
@[simp] theorem State.modPool_vsets (s : State) (k : Nat) (f : Pool → Pool) : (s.modPool k f).vsets = s.vsets := rfl
@[simp] theorem State.modPool_gazes (s : State) (k : Nat) (f : Pool → Pool) : (s.modPool k f).gazes = s.gazes := rfl
@[simp] theorem State.modPool_dpout (s : State) (k : Nat) (f : Pool → Pool) : (s.modPool k f).dpout = s.dpout := rfl
@[simp] theorem State.modPool_streams (s : State) (k : Nat) (f : Pool → Pool) : (s.modPool k f).streams = s.streams := rfl
@[simp] theorem State.modPool_ports (s : State) (k : Nat) (f : Pool → Pool) : (s.modPool k f).ports = s.ports := rfl
@[simp] theorem State.modPool_bridgeDown (s : State) (k : Nat) (f : Pool → Pool) : (s.modPool k f).bridgeDown = s.bridgeDown := rfl
@[simp] theorem State.modPool_modid (s : State) (k : Nat) (f : Pool → Pool) : (s.modPool k f).modid = s.modid := rfl
@[simp] theorem State.modPool_ints (s : State) (k : Nat) (f : Pool → Pool) : (s.modPool k f).ints = s.ints := rfl
@[simp] theorem State.modPool_appendBuf (s : State) (k : Nat) (f : Pool → Pool) : (s.modPool k f).appendBuf = s.appendBuf := rfl
@[simp] theorem State.modPool_appSeq (s : State) (k : Nat) (f : Pool → Pool) : (s.modPool k f).appSeq = s.appSeq := rfl
@[simp] theorem State.modPool_appRes (s : State) (k : Nat) (f : Pool → Pool) : (s.modPool k f).appRes = s.appRes := rfl
@[simp] theorem State.modPool_pwr (s : State) (k : Nat) (f : Pool → Pool) : (s.modPool k f).pwr = s.pwr := rfl
@[simp] theorem State.modPool_tmax (s : State) (k : Nat) (f : Pool → Pool) : (s.modPool k f).tmax = s.tmax := rfl
@[simp] theorem State.modPool_gauge (s : State) (k : Nat) (f : Pool → Pool) : (s.modPool k f).gauge = s.gauge := rfl
@[simp] theorem State.modPool_cerr (s : State) (k : Nat) (f : Pool → Pool) : (s.modPool k f).cerr = s.cerr := rfl
@[simp] theorem State.modPool_fw (s : State) (k : Nat) (f : Pool → Pool) : (s.modPool k f).fw = s.fw := rfl
@[simp] theorem State.modPool_sent (s : State) (k : Nat) (f : Pool → Pool) : (s.modPool k f).sent = s.sent := rfl

@[simp] theorem State.tick_code (s : State) : s.tick.code = s.code := rfl
@[simp] theorem State.tick_mem (s : State) : s.tick.mem = s.mem := rfl
@[simp] theorem State.tick_keyTag (s : State) : s.tick.keyTag = s.keyTag := rfl
@[simp] theorem State.tick_hostMem (s : State) : s.tick.hostMem = s.hostMem := rfl
@[simp] theorem State.tick_sp (s : State) : s.tick.sp = s.sp := rfl
@[simp] theorem State.tick_presence (s : State) : s.tick.presence = s.presence := rfl
@[simp] theorem State.tick_csp (s : State) : s.tick.csp = s.csp := rfl
@[simp] theorem State.tick_keyFull (s : State) : s.tick.keyFull = s.keyFull := rfl
@[simp] theorem State.tick_keyLoads (s : State) : s.tick.keyLoads = s.keyLoads := rfl
@[simp] theorem State.tick_pginv (s : State) : s.tick.pginv = s.pginv := rfl
@[simp] theorem State.tick_tlb (s : State) : s.tick.tlb = s.tlb := rfl
@[simp] theorem State.tick_uppers (s : State) : s.tick.uppers = s.uppers := rfl
@[simp] theorem State.tick_faults (s : State) : s.tick.faults = s.faults := rfl
@[simp] theorem State.tick_slotless (s : State) : s.tick.slotless = s.slotless := rfl
@[simp] theorem State.tick_records (s : State) : s.tick.records = s.records := rfl
@[simp] theorem State.tick_teams (s : State) : s.tick.teams = s.teams := rfl
@[simp] theorem State.tick_groups (s : State) : s.tick.groups = s.groups := rfl
@[simp] theorem State.tick_saves (s : State) : s.tick.saves = s.saves := rfl
@[simp] theorem State.tick_ctxs (s : State) : s.tick.ctxs = s.ctxs := rfl
@[simp] theorem State.tick_cores (s : State) : s.tick.cores = s.cores := rfl
@[simp] theorem State.tick_engines (s : State) : s.tick.engines = s.engines := rfl
@[simp] theorem State.tick_books (s : State) : s.tick.books = s.books := rfl
@[simp] theorem State.tick_clusters (s : State) : s.tick.clusters = s.clusters := rfl
@[simp] theorem State.tick_gatedSlices (s : State) : s.tick.gatedSlices = s.gatedSlices := rfl
@[simp] theorem State.tick_vsets (s : State) : s.tick.vsets = s.vsets := rfl
@[simp] theorem State.tick_gazes (s : State) : s.tick.gazes = s.gazes := rfl
@[simp] theorem State.tick_dpout (s : State) : s.tick.dpout = s.dpout := rfl
@[simp] theorem State.tick_streams (s : State) : s.tick.streams = s.streams := rfl
@[simp] theorem State.tick_ports (s : State) : s.tick.ports = s.ports := rfl
@[simp] theorem State.tick_bridgeDown (s : State) : s.tick.bridgeDown = s.bridgeDown := rfl
@[simp] theorem State.tick_modid (s : State) : s.tick.modid = s.modid := rfl
@[simp] theorem State.tick_ints (s : State) : s.tick.ints = s.ints := rfl
@[simp] theorem State.tick_appendBuf (s : State) : s.tick.appendBuf = s.appendBuf := rfl
@[simp] theorem State.tick_appSeq (s : State) : s.tick.appSeq = s.appSeq := rfl
@[simp] theorem State.tick_appRes (s : State) : s.tick.appRes = s.appRes := rfl
@[simp] theorem State.tick_pwr (s : State) : s.tick.pwr = s.pwr := rfl
@[simp] theorem State.tick_cerr (s : State) : s.tick.cerr = s.cerr := rfl
@[simp] theorem State.tick_fw (s : State) : s.tick.fw = s.fw := rfl
@[simp] theorem State.tick_sent (s : State) : s.tick.sent = s.sent := rfl

@[simp] theorem State.send_code (s : State) (m : Sent) : (s.send m).code = s.code := rfl
@[simp] theorem State.send_sched (s : State) (m : Sent) : (s.send m).sched = s.sched := rfl
@[simp] theorem State.send_mem (s : State) (m : Sent) : (s.send m).mem = s.mem := rfl
@[simp] theorem State.send_keyTag (s : State) (m : Sent) : (s.send m).keyTag = s.keyTag := rfl
@[simp] theorem State.send_hostMem (s : State) (m : Sent) : (s.send m).hostMem = s.hostMem := rfl
@[simp] theorem State.send_sp (s : State) (m : Sent) : (s.send m).sp = s.sp := rfl
@[simp] theorem State.send_presence (s : State) (m : Sent) : (s.send m).presence = s.presence := rfl
@[simp] theorem State.send_csp (s : State) (m : Sent) : (s.send m).csp = s.csp := rfl
@[simp] theorem State.send_keyFull (s : State) (m : Sent) : (s.send m).keyFull = s.keyFull := rfl
@[simp] theorem State.send_keyLoads (s : State) (m : Sent) : (s.send m).keyLoads = s.keyLoads := rfl
@[simp] theorem State.send_pginv (s : State) (m : Sent) : (s.send m).pginv = s.pginv := rfl
@[simp] theorem State.send_tlb (s : State) (m : Sent) : (s.send m).tlb = s.tlb := rfl
@[simp] theorem State.send_uppers (s : State) (m : Sent) : (s.send m).uppers = s.uppers := rfl
@[simp] theorem State.send_faults (s : State) (m : Sent) : (s.send m).faults = s.faults := rfl
@[simp] theorem State.send_slotless (s : State) (m : Sent) : (s.send m).slotless = s.slotless := rfl
@[simp] theorem State.send_records (s : State) (m : Sent) : (s.send m).records = s.records := rfl
@[simp] theorem State.send_teams (s : State) (m : Sent) : (s.send m).teams = s.teams := rfl
@[simp] theorem State.send_groups (s : State) (m : Sent) : (s.send m).groups = s.groups := rfl
@[simp] theorem State.send_saves (s : State) (m : Sent) : (s.send m).saves = s.saves := rfl
@[simp] theorem State.send_ctxs (s : State) (m : Sent) : (s.send m).ctxs = s.ctxs := rfl
@[simp] theorem State.send_cores (s : State) (m : Sent) : (s.send m).cores = s.cores := rfl
@[simp] theorem State.send_pools (s : State) (m : Sent) : (s.send m).pools = s.pools := rfl
@[simp] theorem State.send_engines (s : State) (m : Sent) : (s.send m).engines = s.engines := rfl
@[simp] theorem State.send_books (s : State) (m : Sent) : (s.send m).books = s.books := rfl
@[simp] theorem State.send_clusters (s : State) (m : Sent) : (s.send m).clusters = s.clusters := rfl
@[simp] theorem State.send_gatedSlices (s : State) (m : Sent) : (s.send m).gatedSlices = s.gatedSlices := rfl
@[simp] theorem State.send_vsets (s : State) (m : Sent) : (s.send m).vsets = s.vsets := rfl
@[simp] theorem State.send_gazes (s : State) (m : Sent) : (s.send m).gazes = s.gazes := rfl
@[simp] theorem State.send_dpout (s : State) (m : Sent) : (s.send m).dpout = s.dpout := rfl
@[simp] theorem State.send_streams (s : State) (m : Sent) : (s.send m).streams = s.streams := rfl
@[simp] theorem State.send_ports (s : State) (m : Sent) : (s.send m).ports = s.ports := rfl
@[simp] theorem State.send_bridgeDown (s : State) (m : Sent) : (s.send m).bridgeDown = s.bridgeDown := rfl
@[simp] theorem State.send_modid (s : State) (m : Sent) : (s.send m).modid = s.modid := rfl
@[simp] theorem State.send_ints (s : State) (m : Sent) : (s.send m).ints = s.ints := rfl
@[simp] theorem State.send_appendBuf (s : State) (m : Sent) : (s.send m).appendBuf = s.appendBuf := rfl
@[simp] theorem State.send_appSeq (s : State) (m : Sent) : (s.send m).appSeq = s.appSeq := rfl
@[simp] theorem State.send_appRes (s : State) (m : Sent) : (s.send m).appRes = s.appRes := rfl
@[simp] theorem State.send_pwr (s : State) (m : Sent) : (s.send m).pwr = s.pwr := rfl
@[simp] theorem State.send_tmax (s : State) (m : Sent) : (s.send m).tmax = s.tmax := rfl
@[simp] theorem State.send_gauge (s : State) (m : Sent) : (s.send m).gauge = s.gauge := rfl
@[simp] theorem State.send_cerr (s : State) (m : Sent) : (s.send m).cerr = s.cerr := rfl
@[simp] theorem State.send_fw (s : State) (m : Sent) : (s.send m).fw = s.fw := rfl

@[simp] theorem State.setTurn_code (s : State) (t : Option Nat) : (s.setTurn t).code = s.code := rfl
@[simp] theorem State.setTurn_mem (s : State) (t : Option Nat) : (s.setTurn t).mem = s.mem := rfl
@[simp] theorem State.setTurn_keyTag (s : State) (t : Option Nat) : (s.setTurn t).keyTag = s.keyTag := rfl
@[simp] theorem State.setTurn_hostMem (s : State) (t : Option Nat) : (s.setTurn t).hostMem = s.hostMem := rfl
@[simp] theorem State.setTurn_sp (s : State) (t : Option Nat) : (s.setTurn t).sp = s.sp := rfl
@[simp] theorem State.setTurn_presence (s : State) (t : Option Nat) : (s.setTurn t).presence = s.presence := rfl
@[simp] theorem State.setTurn_csp (s : State) (t : Option Nat) : (s.setTurn t).csp = s.csp := rfl
@[simp] theorem State.setTurn_keyFull (s : State) (t : Option Nat) : (s.setTurn t).keyFull = s.keyFull := rfl
@[simp] theorem State.setTurn_keyLoads (s : State) (t : Option Nat) : (s.setTurn t).keyLoads = s.keyLoads := rfl
@[simp] theorem State.setTurn_pginv (s : State) (t : Option Nat) : (s.setTurn t).pginv = s.pginv := rfl
@[simp] theorem State.setTurn_tlb (s : State) (t : Option Nat) : (s.setTurn t).tlb = s.tlb := rfl
@[simp] theorem State.setTurn_uppers (s : State) (t : Option Nat) : (s.setTurn t).uppers = s.uppers := rfl
@[simp] theorem State.setTurn_faults (s : State) (t : Option Nat) : (s.setTurn t).faults = s.faults := rfl
@[simp] theorem State.setTurn_slotless (s : State) (t : Option Nat) : (s.setTurn t).slotless = s.slotless := rfl
@[simp] theorem State.setTurn_records (s : State) (t : Option Nat) : (s.setTurn t).records = s.records := rfl
@[simp] theorem State.setTurn_teams (s : State) (t : Option Nat) : (s.setTurn t).teams = s.teams := rfl
@[simp] theorem State.setTurn_groups (s : State) (t : Option Nat) : (s.setTurn t).groups = s.groups := rfl
@[simp] theorem State.setTurn_saves (s : State) (t : Option Nat) : (s.setTurn t).saves = s.saves := rfl
@[simp] theorem State.setTurn_ctxs (s : State) (t : Option Nat) : (s.setTurn t).ctxs = s.ctxs := rfl
@[simp] theorem State.setTurn_cores (s : State) (t : Option Nat) : (s.setTurn t).cores = s.cores := rfl
@[simp] theorem State.setTurn_pools (s : State) (t : Option Nat) : (s.setTurn t).pools = s.pools := rfl
@[simp] theorem State.setTurn_engines (s : State) (t : Option Nat) : (s.setTurn t).engines = s.engines := rfl
@[simp] theorem State.setTurn_books (s : State) (t : Option Nat) : (s.setTurn t).books = s.books := rfl
@[simp] theorem State.setTurn_clusters (s : State) (t : Option Nat) : (s.setTurn t).clusters = s.clusters := rfl
@[simp] theorem State.setTurn_gatedSlices (s : State) (t : Option Nat) : (s.setTurn t).gatedSlices = s.gatedSlices := rfl
@[simp] theorem State.setTurn_vsets (s : State) (t : Option Nat) : (s.setTurn t).vsets = s.vsets := rfl
@[simp] theorem State.setTurn_gazes (s : State) (t : Option Nat) : (s.setTurn t).gazes = s.gazes := rfl
@[simp] theorem State.setTurn_dpout (s : State) (t : Option Nat) : (s.setTurn t).dpout = s.dpout := rfl
@[simp] theorem State.setTurn_streams (s : State) (t : Option Nat) : (s.setTurn t).streams = s.streams := rfl
@[simp] theorem State.setTurn_ports (s : State) (t : Option Nat) : (s.setTurn t).ports = s.ports := rfl
@[simp] theorem State.setTurn_bridgeDown (s : State) (t : Option Nat) : (s.setTurn t).bridgeDown = s.bridgeDown := rfl
@[simp] theorem State.setTurn_modid (s : State) (t : Option Nat) : (s.setTurn t).modid = s.modid := rfl
@[simp] theorem State.setTurn_ints (s : State) (t : Option Nat) : (s.setTurn t).ints = s.ints := rfl
@[simp] theorem State.setTurn_appendBuf (s : State) (t : Option Nat) : (s.setTurn t).appendBuf = s.appendBuf := rfl
@[simp] theorem State.setTurn_appSeq (s : State) (t : Option Nat) : (s.setTurn t).appSeq = s.appSeq := rfl
@[simp] theorem State.setTurn_appRes (s : State) (t : Option Nat) : (s.setTurn t).appRes = s.appRes := rfl
@[simp] theorem State.setTurn_pwr (s : State) (t : Option Nat) : (s.setTurn t).pwr = s.pwr := rfl
@[simp] theorem State.setTurn_tmax (s : State) (t : Option Nat) : (s.setTurn t).tmax = s.tmax := rfl
@[simp] theorem State.setTurn_gauge (s : State) (t : Option Nat) : (s.setTurn t).gauge = s.gauge := rfl
@[simp] theorem State.setTurn_cerr (s : State) (t : Option Nat) : (s.setTurn t).cerr = s.cerr := rfl
@[simp] theorem State.setTurn_fw (s : State) (t : Option Nat) : (s.setTurn t).fw = s.fw := rfl
@[simp] theorem State.setTurn_sent (s : State) (t : Option Nat) : (s.setTurn t).sent = s.sent := rfl

@[simp] theorem State.writeSpRaw_code (s : State) (core off : Nat) (b : Byte) : (s.writeSpRaw core off b).code = s.code := rfl
@[simp] theorem State.writeSpRaw_sched (s : State) (core off : Nat) (b : Byte) : (s.writeSpRaw core off b).sched = s.sched := rfl
@[simp] theorem State.writeSpRaw_mem (s : State) (core off : Nat) (b : Byte) : (s.writeSpRaw core off b).mem = s.mem := rfl
@[simp] theorem State.writeSpRaw_keyTag (s : State) (core off : Nat) (b : Byte) : (s.writeSpRaw core off b).keyTag = s.keyTag := rfl
@[simp] theorem State.writeSpRaw_hostMem (s : State) (core off : Nat) (b : Byte) : (s.writeSpRaw core off b).hostMem = s.hostMem := rfl
@[simp] theorem State.writeSpRaw_presence (s : State) (core off : Nat) (b : Byte) : (s.writeSpRaw core off b).presence = s.presence := rfl
@[simp] theorem State.writeSpRaw_csp (s : State) (core off : Nat) (b : Byte) : (s.writeSpRaw core off b).csp = s.csp := rfl
@[simp] theorem State.writeSpRaw_keyFull (s : State) (core off : Nat) (b : Byte) : (s.writeSpRaw core off b).keyFull = s.keyFull := rfl
@[simp] theorem State.writeSpRaw_keyLoads (s : State) (core off : Nat) (b : Byte) : (s.writeSpRaw core off b).keyLoads = s.keyLoads := rfl
@[simp] theorem State.writeSpRaw_pginv (s : State) (core off : Nat) (b : Byte) : (s.writeSpRaw core off b).pginv = s.pginv := rfl
@[simp] theorem State.writeSpRaw_tlb (s : State) (core off : Nat) (b : Byte) : (s.writeSpRaw core off b).tlb = s.tlb := rfl
@[simp] theorem State.writeSpRaw_uppers (s : State) (core off : Nat) (b : Byte) : (s.writeSpRaw core off b).uppers = s.uppers := rfl
@[simp] theorem State.writeSpRaw_faults (s : State) (core off : Nat) (b : Byte) : (s.writeSpRaw core off b).faults = s.faults := rfl
@[simp] theorem State.writeSpRaw_slotless (s : State) (core off : Nat) (b : Byte) : (s.writeSpRaw core off b).slotless = s.slotless := rfl
@[simp] theorem State.writeSpRaw_records (s : State) (core off : Nat) (b : Byte) : (s.writeSpRaw core off b).records = s.records := rfl
@[simp] theorem State.writeSpRaw_teams (s : State) (core off : Nat) (b : Byte) : (s.writeSpRaw core off b).teams = s.teams := rfl
@[simp] theorem State.writeSpRaw_groups (s : State) (core off : Nat) (b : Byte) : (s.writeSpRaw core off b).groups = s.groups := rfl
@[simp] theorem State.writeSpRaw_saves (s : State) (core off : Nat) (b : Byte) : (s.writeSpRaw core off b).saves = s.saves := rfl
@[simp] theorem State.writeSpRaw_ctxs (s : State) (core off : Nat) (b : Byte) : (s.writeSpRaw core off b).ctxs = s.ctxs := rfl
@[simp] theorem State.writeSpRaw_cores (s : State) (core off : Nat) (b : Byte) : (s.writeSpRaw core off b).cores = s.cores := rfl
@[simp] theorem State.writeSpRaw_pools (s : State) (core off : Nat) (b : Byte) : (s.writeSpRaw core off b).pools = s.pools := rfl
@[simp] theorem State.writeSpRaw_engines (s : State) (core off : Nat) (b : Byte) : (s.writeSpRaw core off b).engines = s.engines := rfl
@[simp] theorem State.writeSpRaw_books (s : State) (core off : Nat) (b : Byte) : (s.writeSpRaw core off b).books = s.books := rfl
@[simp] theorem State.writeSpRaw_clusters (s : State) (core off : Nat) (b : Byte) : (s.writeSpRaw core off b).clusters = s.clusters := rfl
@[simp] theorem State.writeSpRaw_gatedSlices (s : State) (core off : Nat) (b : Byte) : (s.writeSpRaw core off b).gatedSlices = s.gatedSlices := rfl
@[simp] theorem State.writeSpRaw_vsets (s : State) (core off : Nat) (b : Byte) : (s.writeSpRaw core off b).vsets = s.vsets := rfl
@[simp] theorem State.writeSpRaw_gazes (s : State) (core off : Nat) (b : Byte) : (s.writeSpRaw core off b).gazes = s.gazes := rfl
@[simp] theorem State.writeSpRaw_dpout (s : State) (core off : Nat) (b : Byte) : (s.writeSpRaw core off b).dpout = s.dpout := rfl
@[simp] theorem State.writeSpRaw_streams (s : State) (core off : Nat) (b : Byte) : (s.writeSpRaw core off b).streams = s.streams := rfl
@[simp] theorem State.writeSpRaw_ports (s : State) (core off : Nat) (b : Byte) : (s.writeSpRaw core off b).ports = s.ports := rfl
@[simp] theorem State.writeSpRaw_bridgeDown (s : State) (core off : Nat) (b : Byte) : (s.writeSpRaw core off b).bridgeDown = s.bridgeDown := rfl
@[simp] theorem State.writeSpRaw_modid (s : State) (core off : Nat) (b : Byte) : (s.writeSpRaw core off b).modid = s.modid := rfl
@[simp] theorem State.writeSpRaw_ints (s : State) (core off : Nat) (b : Byte) : (s.writeSpRaw core off b).ints = s.ints := rfl
@[simp] theorem State.writeSpRaw_appendBuf (s : State) (core off : Nat) (b : Byte) : (s.writeSpRaw core off b).appendBuf = s.appendBuf := rfl
@[simp] theorem State.writeSpRaw_appSeq (s : State) (core off : Nat) (b : Byte) : (s.writeSpRaw core off b).appSeq = s.appSeq := rfl
@[simp] theorem State.writeSpRaw_appRes (s : State) (core off : Nat) (b : Byte) : (s.writeSpRaw core off b).appRes = s.appRes := rfl
@[simp] theorem State.writeSpRaw_pwr (s : State) (core off : Nat) (b : Byte) : (s.writeSpRaw core off b).pwr = s.pwr := rfl
@[simp] theorem State.writeSpRaw_tmax (s : State) (core off : Nat) (b : Byte) : (s.writeSpRaw core off b).tmax = s.tmax := rfl
@[simp] theorem State.writeSpRaw_gauge (s : State) (core off : Nat) (b : Byte) : (s.writeSpRaw core off b).gauge = s.gauge := rfl
@[simp] theorem State.writeSpRaw_cerr (s : State) (core off : Nat) (b : Byte) : (s.writeSpRaw core off b).cerr = s.cerr := rfl
@[simp] theorem State.writeSpRaw_fw (s : State) (core off : Nat) (b : Byte) : (s.writeSpRaw core off b).fw = s.fw := rfl
@[simp] theorem State.writeSpRaw_sent (s : State) (core off : Nat) (b : Byte) : (s.writeSpRaw core off b).sent = s.sent := rfl

@[simp] theorem State.setPresent_code (s : State) (core line : Nat) (b : Bool) : (s.setPresent core line b).code = s.code := rfl
@[simp] theorem State.setPresent_sched (s : State) (core line : Nat) (b : Bool) : (s.setPresent core line b).sched = s.sched := rfl
@[simp] theorem State.setPresent_mem (s : State) (core line : Nat) (b : Bool) : (s.setPresent core line b).mem = s.mem := rfl
@[simp] theorem State.setPresent_keyTag (s : State) (core line : Nat) (b : Bool) : (s.setPresent core line b).keyTag = s.keyTag := rfl
@[simp] theorem State.setPresent_hostMem (s : State) (core line : Nat) (b : Bool) : (s.setPresent core line b).hostMem = s.hostMem := rfl
@[simp] theorem State.setPresent_sp (s : State) (core line : Nat) (b : Bool) : (s.setPresent core line b).sp = s.sp := rfl
@[simp] theorem State.setPresent_csp (s : State) (core line : Nat) (b : Bool) : (s.setPresent core line b).csp = s.csp := rfl
@[simp] theorem State.setPresent_keyFull (s : State) (core line : Nat) (b : Bool) : (s.setPresent core line b).keyFull = s.keyFull := rfl
@[simp] theorem State.setPresent_keyLoads (s : State) (core line : Nat) (b : Bool) : (s.setPresent core line b).keyLoads = s.keyLoads := rfl
@[simp] theorem State.setPresent_pginv (s : State) (core line : Nat) (b : Bool) : (s.setPresent core line b).pginv = s.pginv := rfl
@[simp] theorem State.setPresent_tlb (s : State) (core line : Nat) (b : Bool) : (s.setPresent core line b).tlb = s.tlb := rfl
@[simp] theorem State.setPresent_uppers (s : State) (core line : Nat) (b : Bool) : (s.setPresent core line b).uppers = s.uppers := rfl
@[simp] theorem State.setPresent_faults (s : State) (core line : Nat) (b : Bool) : (s.setPresent core line b).faults = s.faults := rfl
@[simp] theorem State.setPresent_slotless (s : State) (core line : Nat) (b : Bool) : (s.setPresent core line b).slotless = s.slotless := rfl
@[simp] theorem State.setPresent_records (s : State) (core line : Nat) (b : Bool) : (s.setPresent core line b).records = s.records := rfl
@[simp] theorem State.setPresent_teams (s : State) (core line : Nat) (b : Bool) : (s.setPresent core line b).teams = s.teams := rfl
@[simp] theorem State.setPresent_groups (s : State) (core line : Nat) (b : Bool) : (s.setPresent core line b).groups = s.groups := rfl
@[simp] theorem State.setPresent_saves (s : State) (core line : Nat) (b : Bool) : (s.setPresent core line b).saves = s.saves := rfl
@[simp] theorem State.setPresent_ctxs (s : State) (core line : Nat) (b : Bool) : (s.setPresent core line b).ctxs = s.ctxs := rfl
@[simp] theorem State.setPresent_cores (s : State) (core line : Nat) (b : Bool) : (s.setPresent core line b).cores = s.cores := rfl
@[simp] theorem State.setPresent_pools (s : State) (core line : Nat) (b : Bool) : (s.setPresent core line b).pools = s.pools := rfl
@[simp] theorem State.setPresent_engines (s : State) (core line : Nat) (b : Bool) : (s.setPresent core line b).engines = s.engines := rfl
@[simp] theorem State.setPresent_books (s : State) (core line : Nat) (b : Bool) : (s.setPresent core line b).books = s.books := rfl
@[simp] theorem State.setPresent_clusters (s : State) (core line : Nat) (b : Bool) : (s.setPresent core line b).clusters = s.clusters := rfl
@[simp] theorem State.setPresent_gatedSlices (s : State) (core line : Nat) (b : Bool) : (s.setPresent core line b).gatedSlices = s.gatedSlices := rfl
@[simp] theorem State.setPresent_vsets (s : State) (core line : Nat) (b : Bool) : (s.setPresent core line b).vsets = s.vsets := rfl
@[simp] theorem State.setPresent_gazes (s : State) (core line : Nat) (b : Bool) : (s.setPresent core line b).gazes = s.gazes := rfl
@[simp] theorem State.setPresent_dpout (s : State) (core line : Nat) (b : Bool) : (s.setPresent core line b).dpout = s.dpout := rfl
@[simp] theorem State.setPresent_streams (s : State) (core line : Nat) (b : Bool) : (s.setPresent core line b).streams = s.streams := rfl
@[simp] theorem State.setPresent_ports (s : State) (core line : Nat) (b : Bool) : (s.setPresent core line b).ports = s.ports := rfl
@[simp] theorem State.setPresent_bridgeDown (s : State) (core line : Nat) (b : Bool) : (s.setPresent core line b).bridgeDown = s.bridgeDown := rfl
@[simp] theorem State.setPresent_modid (s : State) (core line : Nat) (b : Bool) : (s.setPresent core line b).modid = s.modid := rfl
@[simp] theorem State.setPresent_ints (s : State) (core line : Nat) (b : Bool) : (s.setPresent core line b).ints = s.ints := rfl
@[simp] theorem State.setPresent_appendBuf (s : State) (core line : Nat) (b : Bool) : (s.setPresent core line b).appendBuf = s.appendBuf := rfl
@[simp] theorem State.setPresent_appSeq (s : State) (core line : Nat) (b : Bool) : (s.setPresent core line b).appSeq = s.appSeq := rfl
@[simp] theorem State.setPresent_appRes (s : State) (core line : Nat) (b : Bool) : (s.setPresent core line b).appRes = s.appRes := rfl
@[simp] theorem State.setPresent_pwr (s : State) (core line : Nat) (b : Bool) : (s.setPresent core line b).pwr = s.pwr := rfl
@[simp] theorem State.setPresent_tmax (s : State) (core line : Nat) (b : Bool) : (s.setPresent core line b).tmax = s.tmax := rfl
@[simp] theorem State.setPresent_gauge (s : State) (core line : Nat) (b : Bool) : (s.setPresent core line b).gauge = s.gauge := rfl
@[simp] theorem State.setPresent_cerr (s : State) (core line : Nat) (b : Bool) : (s.setPresent core line b).cerr = s.cerr := rfl
@[simp] theorem State.setPresent_fw (s : State) (core line : Nat) (b : Bool) : (s.setPresent core line b).fw = s.fw := rfl
@[simp] theorem State.setPresent_sent (s : State) (core line : Nat) (b : Bool) : (s.setPresent core line b).sent = s.sent := rfl

@[simp] theorem State.writeSp_code (s : State) (core off : Nat) (b : Byte) : (s.writeSp core off b).code = s.code := rfl
@[simp] theorem State.writeSp_sched (s : State) (core off : Nat) (b : Byte) : (s.writeSp core off b).sched = s.sched := rfl
@[simp] theorem State.writeSp_mem (s : State) (core off : Nat) (b : Byte) : (s.writeSp core off b).mem = s.mem := rfl
@[simp] theorem State.writeSp_keyTag (s : State) (core off : Nat) (b : Byte) : (s.writeSp core off b).keyTag = s.keyTag := rfl
@[simp] theorem State.writeSp_hostMem (s : State) (core off : Nat) (b : Byte) : (s.writeSp core off b).hostMem = s.hostMem := rfl
@[simp] theorem State.writeSp_csp (s : State) (core off : Nat) (b : Byte) : (s.writeSp core off b).csp = s.csp := rfl
@[simp] theorem State.writeSp_keyFull (s : State) (core off : Nat) (b : Byte) : (s.writeSp core off b).keyFull = s.keyFull := rfl
@[simp] theorem State.writeSp_keyLoads (s : State) (core off : Nat) (b : Byte) : (s.writeSp core off b).keyLoads = s.keyLoads := rfl
@[simp] theorem State.writeSp_pginv (s : State) (core off : Nat) (b : Byte) : (s.writeSp core off b).pginv = s.pginv := rfl
@[simp] theorem State.writeSp_tlb (s : State) (core off : Nat) (b : Byte) : (s.writeSp core off b).tlb = s.tlb := rfl
@[simp] theorem State.writeSp_uppers (s : State) (core off : Nat) (b : Byte) : (s.writeSp core off b).uppers = s.uppers := rfl
@[simp] theorem State.writeSp_faults (s : State) (core off : Nat) (b : Byte) : (s.writeSp core off b).faults = s.faults := rfl
@[simp] theorem State.writeSp_slotless (s : State) (core off : Nat) (b : Byte) : (s.writeSp core off b).slotless = s.slotless := rfl
@[simp] theorem State.writeSp_records (s : State) (core off : Nat) (b : Byte) : (s.writeSp core off b).records = s.records := rfl
@[simp] theorem State.writeSp_teams (s : State) (core off : Nat) (b : Byte) : (s.writeSp core off b).teams = s.teams := rfl
@[simp] theorem State.writeSp_groups (s : State) (core off : Nat) (b : Byte) : (s.writeSp core off b).groups = s.groups := rfl
@[simp] theorem State.writeSp_saves (s : State) (core off : Nat) (b : Byte) : (s.writeSp core off b).saves = s.saves := rfl
@[simp] theorem State.writeSp_ctxs (s : State) (core off : Nat) (b : Byte) : (s.writeSp core off b).ctxs = s.ctxs := rfl
@[simp] theorem State.writeSp_cores (s : State) (core off : Nat) (b : Byte) : (s.writeSp core off b).cores = s.cores := rfl
@[simp] theorem State.writeSp_pools (s : State) (core off : Nat) (b : Byte) : (s.writeSp core off b).pools = s.pools := rfl
@[simp] theorem State.writeSp_engines (s : State) (core off : Nat) (b : Byte) : (s.writeSp core off b).engines = s.engines := rfl
@[simp] theorem State.writeSp_books (s : State) (core off : Nat) (b : Byte) : (s.writeSp core off b).books = s.books := rfl
@[simp] theorem State.writeSp_clusters (s : State) (core off : Nat) (b : Byte) : (s.writeSp core off b).clusters = s.clusters := rfl
@[simp] theorem State.writeSp_gatedSlices (s : State) (core off : Nat) (b : Byte) : (s.writeSp core off b).gatedSlices = s.gatedSlices := rfl
@[simp] theorem State.writeSp_vsets (s : State) (core off : Nat) (b : Byte) : (s.writeSp core off b).vsets = s.vsets := rfl
@[simp] theorem State.writeSp_gazes (s : State) (core off : Nat) (b : Byte) : (s.writeSp core off b).gazes = s.gazes := rfl
@[simp] theorem State.writeSp_dpout (s : State) (core off : Nat) (b : Byte) : (s.writeSp core off b).dpout = s.dpout := rfl
@[simp] theorem State.writeSp_streams (s : State) (core off : Nat) (b : Byte) : (s.writeSp core off b).streams = s.streams := rfl
@[simp] theorem State.writeSp_ports (s : State) (core off : Nat) (b : Byte) : (s.writeSp core off b).ports = s.ports := rfl
@[simp] theorem State.writeSp_bridgeDown (s : State) (core off : Nat) (b : Byte) : (s.writeSp core off b).bridgeDown = s.bridgeDown := rfl
@[simp] theorem State.writeSp_modid (s : State) (core off : Nat) (b : Byte) : (s.writeSp core off b).modid = s.modid := rfl
@[simp] theorem State.writeSp_ints (s : State) (core off : Nat) (b : Byte) : (s.writeSp core off b).ints = s.ints := rfl
@[simp] theorem State.writeSp_appendBuf (s : State) (core off : Nat) (b : Byte) : (s.writeSp core off b).appendBuf = s.appendBuf := rfl
@[simp] theorem State.writeSp_appSeq (s : State) (core off : Nat) (b : Byte) : (s.writeSp core off b).appSeq = s.appSeq := rfl
@[simp] theorem State.writeSp_appRes (s : State) (core off : Nat) (b : Byte) : (s.writeSp core off b).appRes = s.appRes := rfl
@[simp] theorem State.writeSp_pwr (s : State) (core off : Nat) (b : Byte) : (s.writeSp core off b).pwr = s.pwr := rfl
@[simp] theorem State.writeSp_tmax (s : State) (core off : Nat) (b : Byte) : (s.writeSp core off b).tmax = s.tmax := rfl
@[simp] theorem State.writeSp_gauge (s : State) (core off : Nat) (b : Byte) : (s.writeSp core off b).gauge = s.gauge := rfl
@[simp] theorem State.writeSp_cerr (s : State) (core off : Nat) (b : Byte) : (s.writeSp core off b).cerr = s.cerr := rfl
@[simp] theorem State.writeSp_fw (s : State) (core off : Nat) (b : Byte) : (s.writeSp core off b).fw = s.fw := rfl
@[simp] theorem State.writeSp_sent (s : State) (core off : Nat) (b : Byte) : (s.writeSp core off b).sent = s.sent := rfl

@[simp] theorem State.writeCsp_code (s : State) (die off : Nat) (b : Byte) : (s.writeCsp die off b).code = s.code := rfl
@[simp] theorem State.writeCsp_sched (s : State) (die off : Nat) (b : Byte) : (s.writeCsp die off b).sched = s.sched := rfl
@[simp] theorem State.writeCsp_mem (s : State) (die off : Nat) (b : Byte) : (s.writeCsp die off b).mem = s.mem := rfl
@[simp] theorem State.writeCsp_keyTag (s : State) (die off : Nat) (b : Byte) : (s.writeCsp die off b).keyTag = s.keyTag := rfl
@[simp] theorem State.writeCsp_hostMem (s : State) (die off : Nat) (b : Byte) : (s.writeCsp die off b).hostMem = s.hostMem := rfl
@[simp] theorem State.writeCsp_sp (s : State) (die off : Nat) (b : Byte) : (s.writeCsp die off b).sp = s.sp := rfl
@[simp] theorem State.writeCsp_presence (s : State) (die off : Nat) (b : Byte) : (s.writeCsp die off b).presence = s.presence := rfl
@[simp] theorem State.writeCsp_keyFull (s : State) (die off : Nat) (b : Byte) : (s.writeCsp die off b).keyFull = s.keyFull := rfl
@[simp] theorem State.writeCsp_keyLoads (s : State) (die off : Nat) (b : Byte) : (s.writeCsp die off b).keyLoads = s.keyLoads := rfl
@[simp] theorem State.writeCsp_pginv (s : State) (die off : Nat) (b : Byte) : (s.writeCsp die off b).pginv = s.pginv := rfl
@[simp] theorem State.writeCsp_tlb (s : State) (die off : Nat) (b : Byte) : (s.writeCsp die off b).tlb = s.tlb := rfl
@[simp] theorem State.writeCsp_uppers (s : State) (die off : Nat) (b : Byte) : (s.writeCsp die off b).uppers = s.uppers := rfl
@[simp] theorem State.writeCsp_faults (s : State) (die off : Nat) (b : Byte) : (s.writeCsp die off b).faults = s.faults := rfl
@[simp] theorem State.writeCsp_slotless (s : State) (die off : Nat) (b : Byte) : (s.writeCsp die off b).slotless = s.slotless := rfl
@[simp] theorem State.writeCsp_records (s : State) (die off : Nat) (b : Byte) : (s.writeCsp die off b).records = s.records := rfl
@[simp] theorem State.writeCsp_teams (s : State) (die off : Nat) (b : Byte) : (s.writeCsp die off b).teams = s.teams := rfl
@[simp] theorem State.writeCsp_groups (s : State) (die off : Nat) (b : Byte) : (s.writeCsp die off b).groups = s.groups := rfl
@[simp] theorem State.writeCsp_saves (s : State) (die off : Nat) (b : Byte) : (s.writeCsp die off b).saves = s.saves := rfl
@[simp] theorem State.writeCsp_ctxs (s : State) (die off : Nat) (b : Byte) : (s.writeCsp die off b).ctxs = s.ctxs := rfl
@[simp] theorem State.writeCsp_cores (s : State) (die off : Nat) (b : Byte) : (s.writeCsp die off b).cores = s.cores := rfl
@[simp] theorem State.writeCsp_pools (s : State) (die off : Nat) (b : Byte) : (s.writeCsp die off b).pools = s.pools := rfl
@[simp] theorem State.writeCsp_engines (s : State) (die off : Nat) (b : Byte) : (s.writeCsp die off b).engines = s.engines := rfl
@[simp] theorem State.writeCsp_books (s : State) (die off : Nat) (b : Byte) : (s.writeCsp die off b).books = s.books := rfl
@[simp] theorem State.writeCsp_clusters (s : State) (die off : Nat) (b : Byte) : (s.writeCsp die off b).clusters = s.clusters := rfl
@[simp] theorem State.writeCsp_gatedSlices (s : State) (die off : Nat) (b : Byte) : (s.writeCsp die off b).gatedSlices = s.gatedSlices := rfl
@[simp] theorem State.writeCsp_vsets (s : State) (die off : Nat) (b : Byte) : (s.writeCsp die off b).vsets = s.vsets := rfl
@[simp] theorem State.writeCsp_gazes (s : State) (die off : Nat) (b : Byte) : (s.writeCsp die off b).gazes = s.gazes := rfl
@[simp] theorem State.writeCsp_dpout (s : State) (die off : Nat) (b : Byte) : (s.writeCsp die off b).dpout = s.dpout := rfl
@[simp] theorem State.writeCsp_streams (s : State) (die off : Nat) (b : Byte) : (s.writeCsp die off b).streams = s.streams := rfl
@[simp] theorem State.writeCsp_ports (s : State) (die off : Nat) (b : Byte) : (s.writeCsp die off b).ports = s.ports := rfl
@[simp] theorem State.writeCsp_bridgeDown (s : State) (die off : Nat) (b : Byte) : (s.writeCsp die off b).bridgeDown = s.bridgeDown := rfl
@[simp] theorem State.writeCsp_modid (s : State) (die off : Nat) (b : Byte) : (s.writeCsp die off b).modid = s.modid := rfl
@[simp] theorem State.writeCsp_ints (s : State) (die off : Nat) (b : Byte) : (s.writeCsp die off b).ints = s.ints := rfl
@[simp] theorem State.writeCsp_appendBuf (s : State) (die off : Nat) (b : Byte) : (s.writeCsp die off b).appendBuf = s.appendBuf := rfl
@[simp] theorem State.writeCsp_appSeq (s : State) (die off : Nat) (b : Byte) : (s.writeCsp die off b).appSeq = s.appSeq := rfl
@[simp] theorem State.writeCsp_appRes (s : State) (die off : Nat) (b : Byte) : (s.writeCsp die off b).appRes = s.appRes := rfl
@[simp] theorem State.writeCsp_pwr (s : State) (die off : Nat) (b : Byte) : (s.writeCsp die off b).pwr = s.pwr := rfl
@[simp] theorem State.writeCsp_tmax (s : State) (die off : Nat) (b : Byte) : (s.writeCsp die off b).tmax = s.tmax := rfl
@[simp] theorem State.writeCsp_gauge (s : State) (die off : Nat) (b : Byte) : (s.writeCsp die off b).gauge = s.gauge := rfl
@[simp] theorem State.writeCsp_cerr (s : State) (die off : Nat) (b : Byte) : (s.writeCsp die off b).cerr = s.cerr := rfl
@[simp] theorem State.writeCsp_fw (s : State) (die off : Nat) (b : Byte) : (s.writeCsp die off b).fw = s.fw := rfl
@[simp] theorem State.writeCsp_sent (s : State) (die off : Nat) (b : Byte) : (s.writeCsp die off b).sent = s.sent := rfl

@[simp] theorem Group.modRegs_team (x : Group) (f : Regs → Regs) : (x.modRegs f).team = x.team := rfl
@[simp] theorem Group.modRegs_gid (x : Group) (f : Regs → Regs) : (x.modRegs f).gid = x.gid := rfl
@[simp] theorem Group.modRegs_core (x : Group) (f : Regs → Regs) : (x.modRegs f).core = x.core := rfl
@[simp] theorem Group.modRegs_slot (x : Group) (f : Regs → Regs) : (x.modRegs f).slot = x.slot := rfl
@[simp] theorem Group.modRegs_on (x : Group) (f : Regs → Regs) : (x.modRegs f).on = x.on := rfl
@[simp] theorem Group.modRegs_w (x : Group) (f : Regs → Regs) : (x.modRegs f).w = x.w := rfl
@[simp] theorem Group.modRegs_alloc (x : Group) (f : Regs → Regs) : (x.modRegs f).alloc = x.alloc := rfl
@[simp] theorem Group.modRegs_grans (x : Group) (f : Regs → Regs) : (x.modRegs f).grans = x.grans := rfl
@[simp] theorem Group.modRegs_lanes (x : Group) (f : Regs → Regs) : (x.modRegs f).lanes = x.lanes := rfl
@[simp] theorem Group.modRegs_regs (x : Group) (f : Regs → Regs) : (x.modRegs f).regs = f x.regs := rfl
@[simp] theorem Group.modRegs_ctl (x : Group) (f : Regs → Regs) : (x.modRegs f).ctl = x.ctl := rfl
@[simp] theorem Group.modRegs_flow (x : Group) (f : Regs → Regs) : (x.modRegs f).flow = x.flow := rfl
@[simp] theorem Group.modRegs_io (x : Group) (f : Regs → Regs) : (x.modRegs f).io = x.io := rfl
@[simp] theorem Group.modRegs_bar (x : Group) (f : Regs → Regs) : (x.modRegs f).bar = x.bar := rfl
@[simp] theorem Group.modRegs_tile0 (x : Group) (f : Regs → Regs) : (x.modRegs f).tile0 = x.tile0 := rfl
@[simp] theorem Group.modRegs_tiles (x : Group) (f : Regs → Regs) : (x.modRegs f).tiles = x.tiles := rfl
@[simp] theorem Group.modRegs_area (x : Group) (f : Regs → Regs) : (x.modRegs f).area = x.area := rfl

@[simp] theorem Group.modCtl_team (x : Group) (f : Ctl → Ctl) : (x.modCtl f).team = x.team := rfl
@[simp] theorem Group.modCtl_gid (x : Group) (f : Ctl → Ctl) : (x.modCtl f).gid = x.gid := rfl
@[simp] theorem Group.modCtl_core (x : Group) (f : Ctl → Ctl) : (x.modCtl f).core = x.core := rfl
@[simp] theorem Group.modCtl_slot (x : Group) (f : Ctl → Ctl) : (x.modCtl f).slot = x.slot := rfl
@[simp] theorem Group.modCtl_on (x : Group) (f : Ctl → Ctl) : (x.modCtl f).on = x.on := rfl
@[simp] theorem Group.modCtl_w (x : Group) (f : Ctl → Ctl) : (x.modCtl f).w = x.w := rfl
@[simp] theorem Group.modCtl_alloc (x : Group) (f : Ctl → Ctl) : (x.modCtl f).alloc = x.alloc := rfl
@[simp] theorem Group.modCtl_grans (x : Group) (f : Ctl → Ctl) : (x.modCtl f).grans = x.grans := rfl
@[simp] theorem Group.modCtl_lanes (x : Group) (f : Ctl → Ctl) : (x.modCtl f).lanes = x.lanes := rfl
@[simp] theorem Group.modCtl_regs (x : Group) (f : Ctl → Ctl) : (x.modCtl f).regs = x.regs := rfl
@[simp] theorem Group.modCtl_ctl (x : Group) (f : Ctl → Ctl) : (x.modCtl f).ctl = f x.ctl := rfl
@[simp] theorem Group.modCtl_flow (x : Group) (f : Ctl → Ctl) : (x.modCtl f).flow = x.flow := rfl
@[simp] theorem Group.modCtl_io (x : Group) (f : Ctl → Ctl) : (x.modCtl f).io = x.io := rfl
@[simp] theorem Group.modCtl_bar (x : Group) (f : Ctl → Ctl) : (x.modCtl f).bar = x.bar := rfl
@[simp] theorem Group.modCtl_tile0 (x : Group) (f : Ctl → Ctl) : (x.modCtl f).tile0 = x.tile0 := rfl
@[simp] theorem Group.modCtl_tiles (x : Group) (f : Ctl → Ctl) : (x.modCtl f).tiles = x.tiles := rfl
@[simp] theorem Group.modCtl_area (x : Group) (f : Ctl → Ctl) : (x.modCtl f).area = x.area := rfl

@[simp] theorem Group.modFlow_team (x : Group) (f : Flow → Flow) : (x.modFlow f).team = x.team := rfl
@[simp] theorem Group.modFlow_gid (x : Group) (f : Flow → Flow) : (x.modFlow f).gid = x.gid := rfl
@[simp] theorem Group.modFlow_core (x : Group) (f : Flow → Flow) : (x.modFlow f).core = x.core := rfl
@[simp] theorem Group.modFlow_slot (x : Group) (f : Flow → Flow) : (x.modFlow f).slot = x.slot := rfl
@[simp] theorem Group.modFlow_on (x : Group) (f : Flow → Flow) : (x.modFlow f).on = x.on := rfl
@[simp] theorem Group.modFlow_w (x : Group) (f : Flow → Flow) : (x.modFlow f).w = x.w := rfl
@[simp] theorem Group.modFlow_alloc (x : Group) (f : Flow → Flow) : (x.modFlow f).alloc = x.alloc := rfl
@[simp] theorem Group.modFlow_grans (x : Group) (f : Flow → Flow) : (x.modFlow f).grans = x.grans := rfl
@[simp] theorem Group.modFlow_lanes (x : Group) (f : Flow → Flow) : (x.modFlow f).lanes = x.lanes := rfl
@[simp] theorem Group.modFlow_regs (x : Group) (f : Flow → Flow) : (x.modFlow f).regs = x.regs := rfl
@[simp] theorem Group.modFlow_ctl (x : Group) (f : Flow → Flow) : (x.modFlow f).ctl = x.ctl := rfl
@[simp] theorem Group.modFlow_flow (x : Group) (f : Flow → Flow) : (x.modFlow f).flow = f x.flow := rfl
@[simp] theorem Group.modFlow_io (x : Group) (f : Flow → Flow) : (x.modFlow f).io = x.io := rfl
@[simp] theorem Group.modFlow_bar (x : Group) (f : Flow → Flow) : (x.modFlow f).bar = x.bar := rfl
@[simp] theorem Group.modFlow_tile0 (x : Group) (f : Flow → Flow) : (x.modFlow f).tile0 = x.tile0 := rfl
@[simp] theorem Group.modFlow_tiles (x : Group) (f : Flow → Flow) : (x.modFlow f).tiles = x.tiles := rfl
@[simp] theorem Group.modFlow_area (x : Group) (f : Flow → Flow) : (x.modFlow f).area = x.area := rfl

@[simp] theorem Group.modIo_team (x : Group) (f : Io → Io) : (x.modIo f).team = x.team := rfl
@[simp] theorem Group.modIo_gid (x : Group) (f : Io → Io) : (x.modIo f).gid = x.gid := rfl
@[simp] theorem Group.modIo_core (x : Group) (f : Io → Io) : (x.modIo f).core = x.core := rfl
@[simp] theorem Group.modIo_slot (x : Group) (f : Io → Io) : (x.modIo f).slot = x.slot := rfl
@[simp] theorem Group.modIo_on (x : Group) (f : Io → Io) : (x.modIo f).on = x.on := rfl
@[simp] theorem Group.modIo_w (x : Group) (f : Io → Io) : (x.modIo f).w = x.w := rfl
@[simp] theorem Group.modIo_alloc (x : Group) (f : Io → Io) : (x.modIo f).alloc = x.alloc := rfl
@[simp] theorem Group.modIo_grans (x : Group) (f : Io → Io) : (x.modIo f).grans = x.grans := rfl
@[simp] theorem Group.modIo_lanes (x : Group) (f : Io → Io) : (x.modIo f).lanes = x.lanes := rfl
@[simp] theorem Group.modIo_regs (x : Group) (f : Io → Io) : (x.modIo f).regs = x.regs := rfl
@[simp] theorem Group.modIo_ctl (x : Group) (f : Io → Io) : (x.modIo f).ctl = x.ctl := rfl
@[simp] theorem Group.modIo_flow (x : Group) (f : Io → Io) : (x.modIo f).flow = x.flow := rfl
@[simp] theorem Group.modIo_io (x : Group) (f : Io → Io) : (x.modIo f).io = f x.io := rfl
@[simp] theorem Group.modIo_bar (x : Group) (f : Io → Io) : (x.modIo f).bar = x.bar := rfl
@[simp] theorem Group.modIo_tile0 (x : Group) (f : Io → Io) : (x.modIo f).tile0 = x.tile0 := rfl
@[simp] theorem Group.modIo_tiles (x : Group) (f : Io → Io) : (x.modIo f).tiles = x.tiles := rfl
@[simp] theorem Group.modIo_area (x : Group) (f : Io → Io) : (x.modIo f).area = x.area := rfl

@[simp] theorem Group.mapLanes_team (x : Group) (m : Mask) (f : Nat → Lane → Lane) : (x.mapLanes m f).team = x.team := rfl
@[simp] theorem Group.mapLanes_gid (x : Group) (m : Mask) (f : Nat → Lane → Lane) : (x.mapLanes m f).gid = x.gid := rfl
@[simp] theorem Group.mapLanes_core (x : Group) (m : Mask) (f : Nat → Lane → Lane) : (x.mapLanes m f).core = x.core := rfl
@[simp] theorem Group.mapLanes_slot (x : Group) (m : Mask) (f : Nat → Lane → Lane) : (x.mapLanes m f).slot = x.slot := rfl
@[simp] theorem Group.mapLanes_on (x : Group) (m : Mask) (f : Nat → Lane → Lane) : (x.mapLanes m f).on = x.on := rfl
@[simp] theorem Group.mapLanes_w (x : Group) (m : Mask) (f : Nat → Lane → Lane) : (x.mapLanes m f).w = x.w := rfl
@[simp] theorem Group.mapLanes_alloc (x : Group) (m : Mask) (f : Nat → Lane → Lane) : (x.mapLanes m f).alloc = x.alloc := rfl
@[simp] theorem Group.mapLanes_grans (x : Group) (m : Mask) (f : Nat → Lane → Lane) : (x.mapLanes m f).grans = x.grans := rfl
@[simp] theorem Group.mapLanes_regs (x : Group) (m : Mask) (f : Nat → Lane → Lane) : (x.mapLanes m f).regs = x.regs := rfl
@[simp] theorem Group.mapLanes_ctl (x : Group) (m : Mask) (f : Nat → Lane → Lane) : (x.mapLanes m f).ctl = x.ctl := rfl
@[simp] theorem Group.mapLanes_flow (x : Group) (m : Mask) (f : Nat → Lane → Lane) : (x.mapLanes m f).flow = x.flow := rfl
@[simp] theorem Group.mapLanes_io (x : Group) (m : Mask) (f : Nat → Lane → Lane) : (x.mapLanes m f).io = x.io := rfl
@[simp] theorem Group.mapLanes_bar (x : Group) (m : Mask) (f : Nat → Lane → Lane) : (x.mapLanes m f).bar = x.bar := rfl
@[simp] theorem Group.mapLanes_tile0 (x : Group) (m : Mask) (f : Nat → Lane → Lane) : (x.mapLanes m f).tile0 = x.tile0 := rfl
@[simp] theorem Group.mapLanes_tiles (x : Group) (m : Mask) (f : Nat → Lane → Lane) : (x.mapLanes m f).tiles = x.tiles := rfl
@[simp] theorem Group.mapLanes_area (x : Group) (m : Mask) (f : Nat → Lane → Lane) : (x.mapLanes m f).area = x.area := rfl

@[simp] theorem Group.raise_team (x : Group) (f : Flags) : (x.raise f).team = x.team := rfl
@[simp] theorem Group.raise_gid (x : Group) (f : Flags) : (x.raise f).gid = x.gid := rfl
@[simp] theorem Group.raise_core (x : Group) (f : Flags) : (x.raise f).core = x.core := rfl
@[simp] theorem Group.raise_slot (x : Group) (f : Flags) : (x.raise f).slot = x.slot := rfl
@[simp] theorem Group.raise_on (x : Group) (f : Flags) : (x.raise f).on = x.on := rfl
@[simp] theorem Group.raise_w (x : Group) (f : Flags) : (x.raise f).w = x.w := rfl
@[simp] theorem Group.raise_alloc (x : Group) (f : Flags) : (x.raise f).alloc = x.alloc := rfl
@[simp] theorem Group.raise_grans (x : Group) (f : Flags) : (x.raise f).grans = x.grans := rfl
@[simp] theorem Group.raise_lanes (x : Group) (f : Flags) : (x.raise f).lanes = x.lanes := rfl
@[simp] theorem Group.raise_regs (x : Group) (f : Flags) : (x.raise f).regs = x.regs := rfl
@[simp] theorem Group.raise_flow (x : Group) (f : Flags) : (x.raise f).flow = x.flow := rfl
@[simp] theorem Group.raise_io (x : Group) (f : Flags) : (x.raise f).io = x.io := rfl
@[simp] theorem Group.raise_bar (x : Group) (f : Flags) : (x.raise f).bar = x.bar := rfl
@[simp] theorem Group.raise_tile0 (x : Group) (f : Flags) : (x.raise f).tile0 = x.tile0 := rfl
@[simp] theorem Group.raise_tiles (x : Group) (f : Flags) : (x.raise f).tiles = x.tiles := rfl
@[simp] theorem Group.raise_area (x : Group) (f : Flags) : (x.raise f).area = x.area := rfl

@[simp] theorem Regs.setV_s (r : Regs) (n l : Nat) (x : Word) : (r.setV n l x).s = r.s := rfl
@[simp] theorem Regs.setV_q (r : Regs) (n l : Nat) (x : Word) : (r.setV n l x).q = r.q := rfl
@[simp] theorem Regs.setV_f (r : Regs) (n l : Nat) (x : Word) : (r.setV n l x).f = r.f := rfl
@[simp] theorem Regs.setS_v (r : Regs) (n : Nat) (x : Word) : (r.setS n x).v = r.v := rfl
@[simp] theorem Regs.setS_q (r : Regs) (n : Nat) (x : Word) : (r.setS n x).q = r.q := rfl
@[simp] theorem Regs.setS_f (r : Regs) (n : Nat) (x : Word) : (r.setS n x).f = r.f := rfl
@[simp] theorem Regs.setQ_s (r : Regs) (n : Nat) (m x : Mask) : (r.setQ n m x).s = r.s := rfl
@[simp] theorem Regs.setQ_v (r : Regs) (n : Nat) (m x : Mask) : (r.setQ n m x).v = r.v := rfl
@[simp] theorem Regs.setQ_f (r : Regs) (n : Nat) (m x : Mask) : (r.setQ n m x).f = r.f := rfl
@[simp] theorem Regs.setF_s (r : Regs) (n x : Nat) : (r.setF n x).s = r.s := rfl
@[simp] theorem Regs.setF_v (r : Regs) (n x : Nat) : (r.setF n x).v = r.v := rfl
@[simp] theorem Regs.setF_q (r : Regs) (n x : Nat) : (r.setF n x).q = r.q := rfl

@[simp] theorem State.group_setGroup (s : State) (g : Nat) (x : Group) : (s.setGroup g x).group g = some x := by
  simp [State.group, State.setGroup]

theorem State.group_setGroup_ne (s : State) (g h : Nat) (x : Group) (hn : h ≠ g) : (s.setGroup g x).group h = s.group h := by
  simp [State.group, State.setGroup, Tab.find_ins, Ne.symm hn]

@[simp] theorem State.setGroup_setGroup (s : State) (g : Nat) (x y : Group) :
    (s.setGroup g x).setGroup g y = s.setGroup g y := by simp [State.setGroup]

/-- A group changed in place, where it exists. -/
theorem State.modGroup_eq (s : State) (g : Nat) (x : Group) (f : Group → Group) (h : s.group g = some x) :
    s.modGroup g f = s.setGroup g (f x) := by simp [State.modGroup, h]

@[simp] theorem State.modGroup_setGroup (s : State) (g : Nat) (x : Group) (f : Group → Group) :
    (s.setGroup g x).modGroup g f = s.setGroup g (f x) := by simp [State.modGroup]

@[simp] theorem State.pools_tick (s : State) : s.tick.pools = s.rename.pools := rfl

/-- The register unit of a core after its change, and of another core. -/
@[simp] theorem State.pool_modPool (s : State) (k : Nat) (f : Pool → Pool) : (s.modPool k f).pool k = f (s.pool k) := by
  simp [State.modPool, State.pool]

theorem State.pool_modPool_ne (s : State) (k j : Nat) (f : Pool → Pool) (h : j ≠ k) : (s.modPool k f).pool j = s.pool j := by
  simp [State.modPool, State.pool, Tab.get_set, Ne.symm h]

@[simp] theorem State.group_modPool (s : State) (k g : Nat) (f : Pool → Pool) : (s.modPool k f).group g = s.group g := rfl

@[simp] theorem State.group_tick (s : State) (g : Nat) : s.tick.group g = s.group g := rfl

@[simp] theorem State.group_modCore (s : State) (k g : Nat) (f : Core → Core) : (s.modCore k f).group g = s.group g := rfl

@[simp] theorem State.group_modCtx (s : State) (c g : Nat) (f : Ctx → Ctx) : (s.modCtx c f).group g = s.group g := rfl

@[simp] theorem State.team_setGroup (s : State) (g t : Nat) (x : Group) : (s.setGroup g x).team t = s.team t := rfl

@[simp] theorem State.core_setGroup (s : State) (g k : Nat) (x : Group) : (s.setGroup g x).core k = s.core k := rfl

@[simp] theorem State.ctx_setGroup (s : State) (g c : Nat) (x : Group) : (s.setGroup g x).ctx c = s.ctx c := rfl

@[simp] theorem State.core_modCore (s : State) (k : Nat) (f : Core → Core) : (s.modCore k f).core k = f (s.core k) := by
  simp [State.modCore, State.setCore, State.core]

theorem State.core_modCore_ne (s : State) (k j : Nat) (f : Core → Core) (h : j ≠ k) :
    (s.modCore k f).core j = s.core j := by
  simp [State.modCore, State.setCore, State.core, Tab.get_set, Ne.symm h]

@[simp] theorem State.ctx_modCtx (s : State) (c : Nat) (f : Ctx → Ctx) : (s.modCtx c f).ctx c = f (s.ctx c) := by
  simp [State.modCtx, State.setCtx, State.ctx]

theorem State.ctx_modCtx_ne (s : State) (c d : Nat) (f : Ctx → Ctx) (h : d ≠ c) : (s.modCtx c f).ctx d = s.ctx d := by
  simp [State.modCtx, State.setCtx, State.ctx, Tab.get_set, Ne.symm h]

/-- A lane's register after one lane of one register is written. -/
theorem Regs.getV_setV (r : Regs) (n l m k : Nat) (x : Word) (hl : l < 64) (hk : k < 64) :
    (r.setV n l x).getV m k = if m = n ∧ k = l then x else r.getV m k := by
  simp only [Regs.setV, Regs.getV, Tab.get_set]
  by_cases h : m = n ∧ k = l
  · simp [h]
  · rw [if_neg h, if_neg (by omega)]

@[simp] theorem Regs.getS_setS (r : Regs) (n m : Nat) (x : Word) :
    (r.setS n x).getS m = if n = m then x else r.getS m := by simp [Regs.setS, Regs.getS, Tab.get_set]

@[simp] theorem Regs.getF_setF (r : Regs) (n m x : Nat) :
    (r.setF n x).getF m = if n = m then x else r.getF m := by simp [Regs.setF, Regs.getF, Tab.get_set]

/-- q0 reads true in every lane, whatever is written (04_lane R81). -/
@[simp] theorem Regs.getQ_zero (r : Regs) : r.getQ 0 = BitVec.allOnes 64 := by simp [Regs.getQ]

theorem Regs.getQ_setQ (r : Regs) (n k : Nat) (m x : Mask) (hn : n ≠ 0) :
    (r.setQ n m x).getQ k = if k = n then (r.getQ n &&& ~~~m) ||| (x &&& m) else r.getQ k := by
  by_cases hk : k = 0
  · subst hk; simp [Regs.getQ, Ne.symm hn]
  · by_cases h : k = n
    · subst h; simp [Regs.getQ, Regs.setQ, hk]
    · simp [Regs.getQ, Regs.setQ, hk, h, Tab.get_set, Ne.symm h]

/-- A write of several lanes' values to one register, in order: the lanes of the list, the last value of each. -/
theorem Regs.getV_foldl (ps : List (Nat × Word × Flags)) (r : Regs) (d m k : Nat) (hp : ∀ p ∈ ps, p.1 < 64) (hk : k < 64) :
    (ps.foldl (fun r p => r.setV d p.1 p.2.1) r).getV m k =
      if m = d then ((ps.reverse.find? (fun p => p.1 = k)).map (·.2.1)).getD (r.getV m k) else r.getV m k := by
  induction ps generalizing r with
  | nil => simp
  | cons p ps ih =>
    rw [List.foldl_cons, ih _ (fun q hq => hp q (List.mem_cons_of_mem _ hq)),
      Regs.getV_setV _ _ _ _ _ _ (hp p (List.mem_cons_self ..)) hk]
    rw [List.reverse_cons, List.find?_append]
    by_cases hm : m = d
    · subst hm
      rcases h : ps.reverse.find? (fun p => decide (p.1 = k)) with _ | q
      · rw [h]
        by_cases hpk : k = p.1
        · subst hpk; simp
        · simp [hpk, Ne.symm hpk]
      · rw [h]; simp
    · simp [hm]

theorem Regs.foldl_setV_s (ps : List (Nat × Word × Flags)) (r : Regs) (d : Nat) :
    (ps.foldl (fun r p => r.setV d p.1 p.2.1) r).s = r.s
      ∧ (ps.foldl (fun r p => r.setV d p.1 p.2.1) r).q = r.q ∧ (ps.foldl (fun r p => r.setV d p.1 p.2.1) r).f = r.f := by
  induction ps generalizing r with
  | nil => simp
  | cons p ps ih => simpa using ih (r.setV d p.1 p.2.1)

end Sys2Proof.Machine
end

