-- ==== Sys2Proof/Laws/Issue.lean ====
section
/-!
SUPPORT. What issue can do: the checks before a word (gate), the end of its effect (settle), and what advancing leaves alone.
-/
namespace Sys2Proof.Machine

/-- The checks let a word take effect in the states that ReadyIf describes. -/
theorem gate_of_ready (ill : Env → State → Bool) (i : Instr) (s : State) (v : Env) (h : ReadyIf ill i s v) :
    gate i ill s = .go v (v.at_ s) := by
  obtain ⟨ht, he, hw, ⟨x, c, hg, hc, hp, htm, hcl, hf, hi, hm⟩, ha, hx, hl, hb, hk⟩ := h
  obtain ⟨g, vx, cl, e, act, cn, team⟩ := v
  dsimp only at *
  subst ha hx
  simp only [gate, ht, hg, he, hc, hp, htm, hw, hcl, hf, hi, hm, Bool.not_true, Bool.or_false, Bool.false_eq_true, if_false,
    State.setGroup_setGroup]
  simp only [gateMet, hl, hb, Env.at_]
  split
  · rename_i k hk'
    rw [if_neg]
    rintro ⟨h1, h2⟩
    rcases hk k hk' with h | h
    · omega
    · simp [Option.isNone_iff_eq_none.1 h2] at h
  · rfl

/-- A word takes effect only where it is ready. -/
theorem ready_of_gate (ill : Env → State → Bool) (i : Instr) (s t : State) (v : Env) (h : gate i ill s = .go v t) :
    ReadyIf ill i s v ∧ t = v.at_ s := by
  unfold gate at h
  split at h <;> try cases h
  rename_i g hg
  split at h <;> try cases h
  rename_i x e hx he
  split at h <;> try cases h
  rename_i c tm hc hp htm
  dsimp only at h
  by_cases hill : (!i.wf || !classAllows (hdrClass c.hdr) e.major.toNat || !e.fits x.w x.alloc ||
      ill ⟨g, x.sized c e, c.sized e, e, activeOf e (x.sized c e) (c.sized e), tm.ctx, tm⟩
        (s.setGroup g (x.sized c e))) = true
  · rw [if_pos hill] at h; cases h
  rw [if_neg hill] at h
  simp only [Bool.or_eq_true, Bool.not_eq_true', not_or, Bool.not_eq_false, Bool.not_eq_true] at hill
  obtain ⟨⟨⟨h1, h2⟩, h3⟩, h4⟩ := hill
  split at h
  · cases h
  rename_i y c' hm
  unfold gateMet at h
  dsimp only at h
  split at h
  · cases h
  rename_i hlate
  split at h
  · cases h
  rename_i hblk
  have key : ∀ (w : Env), w = ⟨g, y, c', e, activeOf e y c', tm.ctx, tm⟩ →
      (∀ k, w.flag = some k → y.regs.getF k < 63 ∨ (y.resuming c'.own).isSome = true) →
      Gate.go w ((s.setGroup g (x.sized c e)).setGroup g y) = Gate.go v t → ReadyIf ill i s v ∧ t = v.at_ s := by
    intro w hw hfl hgo
    injection hgo with hv ht
    subst hv ht hw
    exact ⟨⟨hg, he, h1, ⟨x, c, hx, hc, hp, htm, h2, h3, h4, hm⟩, rfl, rfl, hlate, hblk, hfl⟩,
      State.setGroup_setGroup _ _ _ _⟩
  split at h
  · rename_i k hk
    split at h
    · cases h
    rename_i hn
    refine key _ rfl (fun k' hk' => ?_) h
    rw [hk] at hk'
    injection hk' with hk'
    subst hk'
    by_cases hlt : y.regs.getF k < 63
    · exact .inl hlt
    · refine .inr (Option.isSome_iff_ne_none.2 (fun hcon => hn ⟨by omega, by simp [hcon]⟩))
  · rename_i hk
    refine key _ rfl (fun k' hk' => ?_) h
    rw [hk] at hk'; cases hk'

/-- A word that is ready has its effect. -/
theorem runWord_of_ready (ill : Env → State → Bool) (i : Instr) (f : Env → State → Eff) (s : State) (v : Env)
    (h : ReadyIf ill i s v) : runWord i ill f s = settle v (f v (v.at_ s)) := by
  simp only [runWord, gate_of_ready ill i s v h]

/-- A word whose effect is done, after which issue goes on. -/
theorem runWord_done (ill : Env → State → Bool) (i : Instr) (f : Env → State → Eff) (s t : State) (v : Env)
    (h : ReadyIf ill i s v) (hf : f v (v.at_ s) = .done t) : runWord i ill f s = .next (v.next t) := by
  rw [runWord_of_ready ill i f s v h, hf]; rfl

/-- The same, for an instruction that the stitch table may serve. -/
theorem runPure_done (i : Instr) (f : Env → State → Eff) (s t : State) (v : Env)
    (h : Ready i s v) (hf : f v (v.at_ s) = .done t) :
    runPure i f s = .next (v.next (v.stitch (v.raises f (v.at_ s)) t)) := by
  unfold runPure
  exact runWord_done noIll i _ s _ v h (by simp [hf])

theorem Group.mapLanes_still (x : Group) (m : Mask) (f : Nat → Lane → Lane) (h : ∀ l y, (f l y).still = y.still) :
    (x.mapLanes m f).still = x.still := by
  simp only [Group.still, Group.mapLanes, Group.mk.injEq, true_and]
  refine ⟨?_, trivial⟩
  apply List.ext_getElem
  · simp
  · intro i h1 h2
    simp only [List.getElem_map, List.getElem_mapIdx]
    split
    · exact h _ _
    · rfl

theorem Group.mapAll_still (x : Group) (f : Lane → Lane) (h : ∀ y, (f y).still = y.still) :
    ({ x with lanes := x.lanes.map f } : Group).still = x.still := by
  simp [Group.still, List.map_map, Function.comp_def, h]

@[simp] theorem Group.modFlow_still (x : Group) (f : Flow → Flow) : (x.modFlow f).still = x.still := rfl
@[simp] theorem Group.modRegs_still (x : Group) (f : Regs → Regs) : (x.modRegs f).still = x.still := rfl
@[simp] theorem Group.modCtl_still (x : Group) (f : Ctl → Ctl) : (x.modCtl f).still = x.still := rfl
@[simp] theorem Group.raise_still (x : Group) (f : Flags) : (x.raise f).still = x.still := rfl

/-- Two groups that differ only in issue state and in where their lanes stand. -/
def Group.Moved (x y : Group) : Prop := y.regs = x.regs ∧ y.ctl = x.ctl ∧ y.still = x.still

theorem Group.Moved.refl (x : Group) : x.Moved x := ⟨rfl, rfl, rfl⟩

theorem Group.Moved.trans {x y z : Group} (h : x.Moved y) (h' : y.Moved z) : x.Moved z :=
  ⟨h'.1.trans h.1, h'.2.1.trans h.2.1, h'.2.2.trans h.2.2⟩

theorem Group.moved_modFlow (x : Group) (f : Flow → Flow) : x.Moved (x.modFlow f) := ⟨rfl, rfl, rfl⟩

theorem Group.moved_mapLanes (x : Group) (m : Mask) (f : Nat → Lane → Lane) (h : ∀ l y, (f l y).still = y.still) :
    x.Moved (x.mapLanes m f) := ⟨rfl, rfl, x.mapLanes_still m f h⟩

theorem Group.moved_meet (x : Group) : x.Moved x.meet := by
  refine ⟨rfl, rfl, x.mapAll_still _ (fun y => ?_)⟩
  split
  · rfl
  · split <;> rfl

theorem Group.moved_wake (x : Group) : x.Moved x.wake := by
  unfold Group.wake
  dsimp only
  split
  · exact Group.Moved.refl x
  · split
    · refine ⟨rfl, rfl, x.mapAll_still _ (fun y => ?_)⟩
      split <;> rfl
    · exact Group.Moved.refl x

/-- The end of a clause issue moves lanes and issue state alone. -/
theorem Group.moved_endIssue (x : Group) : x.Moved x.endIssue := by
  unfold Group.endIssue
  split
  · exact Group.Moved.refl x
  · refine Group.Moved.trans ?_ (Group.moved_wake _)
    refine Group.Moved.trans ?_ (Group.moved_meet _)
    refine Group.Moved.trans ?_ (Group.moved_mapLanes _ _ _ (fun _ _ => rfl))
    exact x.moved_modFlow _

theorem Group.moved_leave (x : Group) (pc : Nat → Word) : x.Moved (x.leave pc) := by
  unfold Group.leave
  split
  · exact Group.Moved.refl x
  · refine (Group.moved_mapLanes x _ _ (fun l y => ?_)).trans (Group.moved_endIssue _)
    split <;> rfl

/-- Issue that goes on moves lanes and issue state alone. -/
theorem Group.moved_advance (x : Group) : x.Moved x.advance := by
  unfold Group.advance
  split
  · exact Group.Moved.refl x
  · dsimp only
    split
    · exact Group.moved_endIssue x
    · split
      · exact Group.moved_leave x _
      · exact Group.moved_modFlow x _

@[simp] theorem State.still_setGroup (s : State) (g : Nat) (x : Group) : (s.setGroup g x).still = s.still := rfl
@[simp] theorem State.still_tick (s : State) : s.tick.still = s.still := rfl
@[simp] theorem State.still_modPool (s : State) (k : Nat) (f : Pool → Pool) : (s.modPool k f).still = s.still := rfl
@[simp] theorem State.still_modCore (s : State) (k : Nat) (f : Core → Core) : (s.modCore k f).still = s.still := rfl

theorem State.still_modGroup (s : State) (g : Nat) (f : Group → Group) : (s.modGroup g f).still = s.still := by
  unfold State.modGroup; split <;> rfl

theorem State.core_modGroup (s : State) (g k : Nat) (f : Group → Group) : (s.modGroup g f).core k = s.core k := by
  unfold State.modGroup; split <;> rfl

theorem State.group_modGroup_ne (s : State) (g h : Nat) (f : Group → Group) (hn : h ≠ g) :
    (s.modGroup g f).group h = s.group h := by
  unfold State.modGroup; split
  · exact State.group_setGroup_ne s g h _ hn
  · rfl

/-- Two states that agree beyond groups, cores and schedule agree on every byte of memory. -/
theorem SameMemory.of_still {s t : State} (h : t.still = s.still) : SameMemory s t := by
  have e : ∀ {α : Type} (p : State → α), p t.still = p s.still := fun p => congrArg p h
  have h1 : t.mem = s.mem := e State.mem
  have h2 : t.keyTag = s.keyTag := e State.keyTag
  have h3 : t.hostMem = s.hostMem := e State.hostMem
  have h4 : t.keyLoads = s.keyLoads := e State.keyLoads
  have h5 : t.sp = s.sp := e State.sp
  have h6 : t.csp = s.csp := e State.csp
  have h7 : t.presence = s.presence := e State.presence
  refine ⟨fun pa key => ?_, fun _ _ => ?_, fun _ _ => ?_, fun _ _ => ?_⟩
  · simp only [State.readPa, State.readKeyed, State.sameKey, State.keyId, State.granule, h1, h2, h3, h4]
    rfl
  · simp only [State.readSp, h5]
  · simp only [State.readCsp, h6]
  · simp only [State.present, h7]

/-- What a note of written registers leaves: everything but the register units. -/
theorem Env.rewrote_frame (v : Env) (s : State) :
    (v.rewrote s).groups = s.groups ∧ (v.rewrote s).still = s.still ∧ ∀ k, (v.rewrote s).core k = s.core k := by
  unfold Env.rewrote State.rewrote
  repeat' split
  all_goals exact ⟨rfl, rfl, fun _ => rfl⟩

/-- What the stitch table's use leaves: everything but the register units. -/
theorem Env.stitch_frame (v : Env) (fl : Flags) (s : State) :
    (v.stitch fl s).groups = s.groups ∧ (v.stitch fl s).still = s.still ∧ ∀ k, (v.stitch fl s).core k = s.core k := by
  unfold Env.stitch
  split
  · split
    · dsimp only
      split
      · exact ⟨rfl, rfl, fun _ => rfl⟩
      · exact v.rewrote_frame _
    · exact v.rewrote_frame _
  · exact v.rewrote_frame _

/-- THE FRAME of a word that is done after it has replaced its group by one with other registers: everything that OnlyWith
says. -/
theorem Env.only_of_done (v : Env) (s t : State) (r : Regs) (fl : Flags) (P : Regs → Prop) (C : Core → Core → Prop) (hr : P r)
    (ht : t.groups = ((v.at_ s).setGroup v.g { v.x with regs := r, ctl := { v.x.ctl with fstat := v.x.ctl.fstat ||| fl } }).groups)
    (hs : t.still = s.still) (hc : C (s.core v.x.core) (t.core v.x.core)) (ho : ∀ k, k ≠ v.x.core → t.core k = s.core k) :
    v.OnlyWith s (v.next t) P fl C := by
  have hg : t.group v.g = some { v.x with regs := r, ctl := { v.x.ctl with fstat := v.x.ctl.fstat ||| fl } } := by
    unfold State.group; rw [ht]; exact State.group_setGroup _ _ _
  have hn : ∀ h, h ≠ v.g → t.group h = s.group h := by
    intro h hh
    unfold State.group; rw [ht]
    exact (State.group_setGroup_ne _ _ _ _ hh).trans (State.group_setGroup_ne _ _ _ _ hh)
  have hst : (v.next t).still = s.still := by
    unfold Env.next State.advance; rw [State.still_tick, State.still_modGroup, hs]
  have hcore : ∀ k, (v.next t).core k = t.core k := fun k => State.core_modGroup t v.g k Group.advance
  refine ⟨?_, ?_, hcore _ ▸ hc, fun k h => (hcore k).trans (ho k h), hst, SameMemory.of_still hst⟩
  · unfold Env.next State.advance
    rw [State.group_tick, State.modGroup_eq _ _ _ _ hg, State.group_setGroup]
    obtain ⟨h1, h2, h3⟩ := Group.moved_advance { v.x with regs := r, ctl := { v.x.ctl with fstat := v.x.ctl.fstat ||| fl } }
    exact ⟨_, rfl, h1 ▸ hr, h2, h3⟩
  · intro h hh
    unfold Env.next State.advance
    rw [State.group_tick, State.group_modGroup_ne _ _ _ _ hh, hn h hh]

end Sys2Proof.Machine
end

