-- ==== Sys2Proof/Laws/Lane.lean ====
section
/-!
SUPPORT. What a vector, a scalar and a predicate operation can do: one lemma for each, with its frame.
-/
namespace Sys2Proof.Machine

theorem mem_lanesOf (m : Mask) (l : Nat) : l ∈ lanesOf m ↔ l < 64 ∧ m.has l = true := by
  simp [lanesOf]

theorem find_map_lane {α : Type} (ls : List Nat) (f : Nat → α) (k : Nat) :
    (ls.map (fun l => (l, f l))).reverse.find? (fun p => decide (p.1 = k)) = if k ∈ ls then some (k, f k) else none := by
  rw [← List.map_reverse]
  induction ls with
  | nil => simp
  | cons a ls ih =>
    rw [List.reverse_cons, List.map_append, List.find?_append, ih]
    by_cases h : k ∈ ls
    · simp [h]
    · by_cases ha : a = k
      · subst ha; simp [h]
      · simp [h, ha, Ne.symm ha]

/-- Lane results written: what WroteLanes says of the registers. -/
theorem Env.wroteLanes_foldl (v : Env) (d : Nat) (f : Nat → Res) :
    v.WroteLanes d (fun l => (f l).1)
      ((v.lanes.map (fun l => (l, f l))).foldl (fun r p => r.setV d p.1 p.2.1) v.x.regs) := by
  refine ⟨fun n l hl => ?_, Regs.foldl_setV_s _ _ _⟩
  rw [Regs.getV_foldl _ _ _ _ _ (by
    intro p hp
    obtain ⟨k, hk, rfl⟩ := List.mem_map.1 hp
    exact ((mem_lanesOf _ _).1 hk).1) hl, find_map_lane]
  by_cases h : n = d
  · subst h
    by_cases hk : v.act.has l = true
    · have : l ∈ v.lanes := (mem_lanesOf _ _).2 ⟨hl, hk⟩
      simp only [this, hk, if_true, and_self, Option.map_some, Option.getD_some]
    · have : l ∉ v.lanes := fun hm => hk ((mem_lanesOf _ _).1 hm).2
      simp [this, hk]
  · simp only [h, false_and, if_false]

/-- A group with lane results written, as one record update. -/
theorem Group.writeLanes_eq (x : Group) (d : Nat) (rs : List (Nat × Res)) :
    x.writeLanes d rs = { x with
      regs := rs.foldl (fun r p => r.setV d p.1 p.2.1) x.regs, ctl := { x.ctl with fstat := x.ctl.fstat ||| flagsOf rs } } :=
  rfl

/-- A pure instruction that replaces its group's registers and raises flags. -/
theorem runPure_regs (i : Instr) (f : Env → State → Eff) (s : State) (v : Env) (r : Regs) (fl : Flags) (P : Regs → Prop)
    (h : Ready i s v) (hf : f v (v.at_ s) = .done ((v.at_ s).setGroup v.g
      { v.x with regs := r, ctl := { v.x.ctl with fstat := v.x.ctl.fstat ||| fl } })) (hr : P r) :
    ∃ t, runPure i f s = .next t ∧ v.Only s t P fl := by
  refine ⟨_, runPure_done i f s _ v h hf, ?_⟩
  obtain ⟨h1, h2, h3⟩ := v.stitch_frame (v.raises f (v.at_ s)) ((v.at_ s).setGroup v.g
      { v.x with regs := r, ctl := { v.x.ctl with fstat := v.x.ctl.fstat ||| fl } })
  exact v.only_of_done s _ r fl P _ hr h1 h2 (h3 _) (fun k _ => h3 k)

/-- A vector operation: every lane of Active writes its result to v[D], and the flags of all are raised. -/
theorem vector_spec (i : Instr) (f : Env → Nat → Res) (s : State) (v : Env) (h : Ready i s v) :
    ∃ t, runPure i (vector f) s = .next t
      ∧ v.Only s t (v.WroteLanes v.d (fun l => (f v l).1)) (flagsOf (v.lanes.map (fun l => (l, f v l)))) :=
  runPure_regs i _ s v _ _ _ h (by rw [vector, Env.set, Group.writeLanes_eq]) (v.wroteLanes_foldl v.d (f v))

/-- A scalar operation writes one s register, once per issue. -/
theorem scalar_spec (i : Instr) (f : Env → Res) (s : State) (v : Env) (h : Ready i s v) :
    ∃ t, runPure i (scalar f) s = .next t ∧ v.Only s t (v.WroteScalar v.d (f v).1) (f v).2 := by
  refine runPure_regs i _ s v (v.x.regs.setS v.d (f v).1) _ _ h rfl ⟨fun n => ?_, rfl, rfl, rfl⟩
  rw [Regs.getS_setS]
  by_cases hn : v.d = n
  · simp [hn]
  · simp [hn, Ne.symm hn]

theorem getLsbD_single (k l : Nat) (hl : l < 64) : (Mask.single k).getLsbD l = decide (k = l) := by
  simp only [Mask.single, BitVec.getLsbD_ofNat, hl, decide_true, Bool.true_and, Nat.testBit_two_pow]

theorem has_foldl_or (ls : List Nat) (p : Nat → Bool) (m : Mask) (l : Nat) (hl : l < 64) :
    (ls.foldl (fun m k => if p k then m ||| Mask.single k else m) m).getLsbD l =
      (m.getLsbD l || (decide (l ∈ ls) && p l)) := by
  induction ls generalizing m with
  | nil => simp
  | cons a ls ih =>
    rw [List.foldl_cons, ih]
    by_cases h : l = a
    · subst h
      by_cases hp : p l = true
      · rw [if_pos hp, BitVec.getLsbD_or, getLsbD_single _ _ hl]; simp [hp]
      · simp only [Bool.not_eq_true] at hp; simp [hp]
    · split
      · rw [BitVec.getLsbD_or, getLsbD_single _ _ hl]; simp [h, Ne.symm h]
      · simp [h]

/-- The lanes of which a condition holds. -/
theorem has_maskOf (p : Nat → Bool) (l : Nat) (hl : l < 64) : (maskOf p).has l = p l := by
  rw [Mask.has, maskOf, has_foldl_or _ _ _ _ hl]; simp [hl]

/-- A predicate register after a write of some lanes. -/
theorem Regs.has_setQ (r : Regs) (d : Nat) (m x : Mask) (n l : Nat) (hl : l < 64) :
    ((r.setQ d m x).getQ n).has l = if n = d ∧ n ≠ 0 ∧ m.has l = true then x.has l else (r.getQ n).has l := by
  by_cases h0 : n = 0
  · subst h0; simp
  · by_cases hd : d = 0
    · subst hd
      have : (r.setQ 0 m x).getQ n = r.getQ n := by
        simp [Regs.getQ, Regs.setQ, h0, Tab.get_set, Ne.symm h0]
      simp [this, h0]
    · rw [Regs.getQ_setQ r d n m x hd]
      by_cases h : n = d
      · subst h
        rw [if_pos rfl]
        simp only [Mask.has, BitVec.getLsbD_or, BitVec.getLsbD_and, BitVec.getLsbD_not, hl, decide_true, Bool.true_and]
        by_cases hm : m.getLsbD l = true
        · simp [hm, h0]
        · simp only [Bool.not_eq_true] at hm; simp [hm]
      · simp [h]

/-- A predicate operation: every lane of Active writes its bit of q[QD]; q0 stays true. -/
theorem predicate_spec (i : Instr) (f : Env → Nat → Bool) (s : State) (v : Env) (h : Ready i s v) :
    ∃ t, runPure i (predicate f) s = .next t ∧ v.Only s t (v.WrotePred v.qd (f v)) 0 := by
  refine runPure_regs i _ s v (v.x.regs.setQ v.qd v.act (maskOf (fun l => v.act.has l && f v l))) 0 _ h ?_
    ⟨fun n l hl => ?_, rfl, rfl, rfl⟩
  · simp [predicate, Env.set, Group.modRegs]
  · rw [Regs.has_setQ _ _ _ _ _ _ hl, has_maskOf _ _ hl]
    by_cases hc : n = v.qd ∧ n ≠ 0 ∧ v.act.has l = true
    · rw [if_pos hc, if_pos hc, hc.2.2, Bool.true_and]
    · rw [if_neg hc, if_neg hc]

end Sys2Proof.Machine
end

