-- ==== Sys2Proof/Laws/Memory.lean ====
section
/-!
SUPPORT. The bytes of memory (05_memory R89, 06_page R127): every operation that writes one keeps the canonical form of every
memory, a byte written is read back, and no other byte changes.
-/
namespace Sys2Proof.Machine

/-- A state with the same memories is as canonical. -/
theorem State.canonical_of_eq {s t : State} (h : s.canonical) (h1 : t.mem = s.mem) (h2 : t.keyTag = s.keyTag)
    (h3 : t.hostMem = s.hostMem) (h4 : t.sp = s.sp) (h5 : t.presence = s.presence) (h6 : t.csp = s.csp) : t.canonical := by
  simpa only [State.canonical, h1, h2, h3, h4, h5, h6] using h

theorem State.canonical_reset : State.reset.canonical := ⟨rfl, rfl, rfl, rfl, rfl, rfl⟩

/-- A table written at several keys keeps its form. -/
theorem Tab.wf_foldl_set {α β : Type} [DecidableEq α] (d : α) (k : β → Nat) (f : β → α) :
    ∀ (xs : List β) (t : Tab α), Tab.wf d t = true → Tab.wf d (xs.foldl (fun m i => Tab.set d m (k i) (f i)) t) = true
  | [], _, h => h
  | x :: xs, t, h => Tab.wf_foldl_set d k f xs _ (Tab.wf_set d t (k x) (f x) h)

/-- A key that none of the writes names reads as before. -/
theorem Tab.get_foldl_set_ne {α β : Type} [DecidableEq α] (d : α) (k : β → Nat) (f : β → α) (q : Nat) :
    ∀ (xs : List β) (t : Tab α), (∀ x ∈ xs, k x ≠ q) → Tab.get d (xs.foldl (fun m i => Tab.set d m (k i) (f i)) t) q = Tab.get d t q
  | [], _, _ => rfl
  | x :: xs, t, h => by
    rw [List.foldl_cons, Tab.get_foldl_set_ne d k f q xs _ (fun y hy => h y (List.mem_cons_of_mem _ hy)),
      Tab.get_set_ne _ _ _ _ _ (h x (List.mem_cons_self ..))]

/-- A key that is written reads the value of the writes, where they agree. -/
theorem Tab.get_foldl_set_mem {α β : Type} [DecidableEq α] (d : α) (k : β → Nat) (f : β → α) (q : Nat) (y : α) :
    ∀ (xs : List β) (t : Tab α), (∃ x ∈ xs, k x = q) → (∀ x ∈ xs, k x = q → f x = y) →
      Tab.get d (xs.foldl (fun m i => Tab.set d m (k i) (f i)) t) q = y
  | [], _, ⟨_, h, _⟩, _ => by cases h
  | x :: xs, t, h, hf => by
    rw [List.foldl_cons]
    by_cases hx : ∃ z ∈ xs, k z = q
    · exact Tab.get_foldl_set_mem d k f q y xs _ hx (fun z hz => hf z (List.mem_cons_of_mem _ hz))
    · rw [Tab.get_foldl_set_ne d k f q xs _ (fun z hz hk => hx ⟨z, hz, hk⟩)]
      obtain ⟨z, hz, hk⟩ := h
      rcases List.mem_cons.1 hz with rfl | hz
      · rw [hk, Tab.get_set_self]; exact hf _ (List.mem_cons_self ..) hk
      · exact absurd ⟨z, hz, hk⟩ hx

theorem State.wf_rekey (s : State) (n key : Nat) (h : Tab.wf 0 s.mem = true) : Tab.wf 0 (s.rekey n key).mem = true := by
  unfold State.rekey
  generalize List.range 256 = xs
  exact Tab.wf_foldl_set 0 _ _ xs _ h

/-- A granule rewritten as a key reads it leaves the bytes of the others. -/
theorem State.get_rekey_ne (s : State) (n key j : Nat) (h : j / 256 ≠ n) :
    Tab.get (0 : Byte) (s.rekey n key).mem j = Tab.get 0 s.mem j := by
  unfold State.rekey
  have hx : ∀ i ∈ List.range 256, 256 * n + i ≠ j := fun i hi he => by
    have := List.mem_range.1 hi; omega
  revert hx
  generalize List.range 256 = xs
  exact fun hx => Tab.get_foldl_set_ne 0 _ _ j xs _ hx

/-- Every byte of a granule that a key's write rewrites reads as that key read it. -/
theorem State.get_rekey (s : State) (n key j : Nat) (h : j / 256 = n) :
    Tab.get (0 : Byte) (s.rekey n key).mem j = s.readKeyed j key := by
  unfold State.rekey
  have hx : ∃ i ∈ List.range 256, 256 * n + i = j := ⟨j % 256, List.mem_range.2 (Nat.mod_lt _ (by decide)), by omega⟩
  revert hx
  generalize List.range 256 = xs
  exact fun hx => Tab.get_foldl_set_mem 0 _ _ j _ xs _ hx (fun i _ he => by rw [he])

theorem State.canonical_writePa (s : State) (pa key : Nat) (b : Byte) (h : s.canonical) : (s.writePa pa key b).canonical := by
  obtain ⟨h1, h2, h3, h4, h5, h6⟩ := h
  have hm : Tab.wf 0 (if s.sameKey (pa / 256) key then s.mem else (s.rekey (pa / 256) key).mem) = true := by
    by_cases hk : s.sameKey (pa / 256) key = true
    · rw [if_pos hk]; exact h1
    · rw [if_neg hk]; exact State.wf_rekey s _ _ h1
  have ht : Tab.wf 0 (if s.keyId key = 0 then s.keyTag else Tab.set 0 s.keyTag (pa / 256) (s.keyId key)) = true := by
    by_cases hk : s.keyId key = 0
    · rw [if_pos hk]; exact h2
    · rw [if_neg hk]; exact Tab.wf_set _ _ _ _ h2
  by_cases hp : pa / 2 ^ 40 = 0
  · rw [State.writePa, if_pos hp]
    exact ⟨Tab.wf_set _ _ _ _ hm, ht, h3, h4, h5, h6⟩
  · rw [State.writePa, if_neg hp]
    exact ⟨h1, h2, Tab.wf_set 0 s.hostMem (pa % 2 ^ 40) (b.toNat + 1) h3, h4, h5, h6⟩

theorem State.canonical_writeSpRaw (s : State) (core off : Nat) (b : Byte) (h : s.canonical) :
    (s.writeSpRaw core off b).canonical := by
  obtain ⟨h1, h2, h3, h4, h5, h6⟩ := h
  exact ⟨h1, h2, h3, Tab.wf_set _ _ _ _ h4, h5, h6⟩

theorem State.canonical_setPresent (s : State) (core line : Nat) (b : Bool) (h : s.canonical) :
    (s.setPresent core line b).canonical := by
  obtain ⟨h1, h2, h3, h4, h5, h6⟩ := h
  exact ⟨h1, h2, h3, h4, Tab.wf_set _ _ _ _ h5, h6⟩

theorem State.canonical_writeSp (s : State) (core off : Nat) (b : Byte) (h : s.canonical) :
    (s.writeSp core off b).canonical := State.canonical_setPresent _ _ _ _ (State.canonical_writeSpRaw _ _ _ _ h)

theorem State.canonical_writeCsp (s : State) (die off : Nat) (b : Byte) (h : s.canonical) :
    (s.writeCsp die off b).canonical := by
  obtain ⟨h1, h2, h3, h4, h5, h6⟩ := h
  exact ⟨h1, h2, h3, h4, h5, Tab.wf_set _ _ _ _ h6⟩

/-- A fold whose every step keeps the canonical form keeps it. -/
theorem State.canonical_foldl {α : Type} (f : State → α → State) (hf : ∀ s a, s.canonical → (f s a).canonical) :
    ∀ (xs : List α) (s : State), s.canonical → (xs.foldl f s).canonical
  | [], _, h => h
  | x :: xs, s, h => State.canonical_foldl f hf xs (f s x) (hf s x h)

theorem State.canonical_writePaN (s : State) (pa key : Nat) (bs : List Byte) (h : s.canonical) :
    (s.writePaN pa key bs).canonical := by
  unfold State.writePaN
  suffices ∀ (bs : List Byte) (p : State × Nat), p.1.canonical →
      (bs.foldl (fun (p : State × Nat) b => (p.1.writePa p.2 key b, p.2 + 1)) p).1.canonical from this bs _ h
  intro bs
  induction bs with
  | nil => exact fun _ h => h
  | cons b bs ih => exact fun p h => ih _ (State.canonical_writePa _ _ _ _ h)

theorem State.canonical_writeSpRawN (s : State) (core off : Nat) (bs : List Byte) (h : s.canonical) :
    (s.writeSpRawN core off bs).canonical := by
  unfold State.writeSpRawN
  suffices ∀ (bs : List Byte) (p : State × Nat), p.1.canonical →
      (bs.foldl (fun (p : State × Nat) b => (p.1.writeSpRaw core p.2 b, p.2 + 1)) p).1.canonical from this bs _ h
  intro bs
  induction bs with
  | nil => exact fun _ h => h
  | cons b bs ih => exact fun p h => ih _ (State.canonical_writeSpRaw _ _ _ _ h)

theorem State.canonical_modGroup (s : State) (g : Nat) (f : Group → Group) (h : s.canonical) : (s.modGroup g f).canonical := by
  unfold State.modGroup
  split
  · exact h
  · exact h

theorem State.canonical_writeLoc (s : State) (g : Nat) (l : Loc) (b : Byte) (h : s.canonical) :
    (s.writeLoc g l b).canonical := by
  cases l with
  | sp c o => exact State.canonical_writeSp _ _ _ _ h
  | csp d o => exact State.canonical_writeCsp _ _ _ _ h
  | mem p k => exact State.canonical_writePa _ _ _ _ h
  | stk p k => exact State.canonical_modGroup _ _ _ h
  | far m c f a => exact h

theorem State.canonical_writeCells (s : State) (g : Nat) (cs : List (Loc × Byte)) (h : s.canonical) :
    (s.writeCells g cs).canonical :=
  State.canonical_foldl _ (fun s c h => State.canonical_writeLoc s g c.1 c.2 h) cs s h

theorem State.canonical_unstitchMem (s : State) (line : Nat) (h : s.canonical) : (s.unstitchMem line).canonical := h

theorem State.canonical_flushStack (s : State) (g : Nat) (h : s.canonical) : (s.flushStack g).canonical := by
  unfold State.flushStack
  split
  · exact h
  · exact State.canonical_modGroup _ _ _
      (State.canonical_foldl (fun s (e : Nat × Nat × Nat) => (s.writePa e.1 e.2.2 (BitVec.ofNat 8 e.2.1)).unstitchMem (e.1 / 128))
        (fun s _ h => State.canonical_unstitchMem _ _ (State.canonical_writePa s _ _ _ h)) _ s h)

/-- A granule that a write of a key has left reads under that key as it was written (06_page R136). -/
theorem State.sameKey_written (s : State) (pa key : Nat) (m : Memory) :
    ({ s with mem := m, keyTag := if s.keyId key = 0 then s.keyTag else Tab.set 0 s.keyTag (pa / 256) (s.keyId key) } : State).sameKey
      (pa / 256) key = true := by
  by_cases h : s.keyId key = 0
  · have : ∀ t : State, t.keyLoads = s.keyLoads → t.keyId key = 0 := fun t ht => by
      simpa only [State.keyId, ht] using h
    simp only [State.sameKey, Bool.or_eq_true, decide_eq_true_eq]
    exact Or.inl (Or.inr (this _ rfl))
  · simp only [State.sameKey, if_neg h, Tab.get_set_self]
    simp [State.keyId]

/-- A byte of module memory written under a key reads back under it. -/
theorem State.readPa_writePa_self (s : State) (pa key : Nat) (b : Byte) : (s.writePa pa key b).readPa pa key = b := by
  unfold State.writePa
  split
  · rename_i h
    simp only [State.readPa, if_pos h, State.readKeyed, Tab.get_set_self]
    rw [if_pos (State.sameKey_written s pa key _)]
  · rename_i h
    simp only [State.readPa, if_neg h, Tab.get_set_self, BitVec.ofNat_toNat, BitVec.setWidth_eq]

/-- A byte reads the same in two states whose granule of it is the same. -/
theorem State.readKeyed_congr {s t : State} {q : Nat} (hl : t.keyLoads = s.keyLoads)
    (ht : Tab.get 0 t.keyTag (q / 256) = Tab.get 0 s.keyTag (q / 256))
    (hm : ∀ j, j / 256 = q / 256 → Tab.get (0 : Byte) t.mem j = Tab.get 0 s.mem j) (k : Nat) :
    t.readKeyed q k = s.readKeyed q k := by
  have hi : t.keyId k = s.keyId k := by simp only [State.keyId, hl]
  have hs : t.sameKey (q / 256) k = s.sameKey (q / 256) k := by simp only [State.sameKey, ht, hi]
  have hg : t.granule (q / 256) = s.granule (q / 256) := by
    unfold State.granule
    rw [ht]
    refine congrArg _ (List.map_congr_left fun i h => ?_)
    rw [hm _ (by have := List.mem_range.1 h; omega)]
  simp only [State.readKeyed, hi, hs, hg, hm q rfl]

/-- A byte of another granule reads as before, whatever the key. -/
theorem State.readPa_writePa_ne (s : State) (pa qa key k : Nat) (b : Byte) (h : pa % 2 ^ 40 / 256 ≠ qa % 2 ^ 40 / 256) :
    (s.writePa pa key b).readPa qa k = s.readPa qa k := by
  unfold State.writePa
  split
  · rename_i hp
    by_cases hq : qa / 2 ^ 40 = 0
    · have hg : pa / 256 ≠ qa / 256 := by omega
      simp only [State.readPa, if_pos hq]
      refine State.readKeyed_congr (s := s) ?_ ?_ ?_ k
      · rfl
      · show Tab.get 0 (if s.keyId key = 0 then s.keyTag else Tab.set 0 s.keyTag (pa / 256) (s.keyId key)) (qa / 256) = _
        split
        · rfl
        · exact Tab.get_set_ne _ _ _ _ _ hg
      · intro j hj
        show Tab.get (0 : Byte) (Tab.set 0 (if s.sameKey (pa / 256) key then s.mem else (s.rekey (pa / 256) key).mem) pa b) j = _
        rw [Tab.get_set_ne _ _ _ _ _ (by rintro rfl; exact hg hj)]
        by_cases hk : s.sameKey (pa / 256) key = true
        · rw [if_pos hk]
        · rw [if_neg hk, State.get_rekey_ne _ _ _ _ (by rw [hj]; exact fun e => hg e.symm)]
    · simp only [State.readPa, if_neg hq]
  · rename_i hp
    have hne : pa % 2 ^ 40 ≠ qa % 2 ^ 40 := fun e => h (by rw [e])
    simp only [State.readPa, Tab.get_set_ne _ _ _ _ _ hne]
    rfl

/-- Another byte reads as before under the key of the write. -/
theorem State.readPa_writePa_key (s : State) (pa qa key : Nat) (b : Byte) (h : pa % 2 ^ 40 ≠ qa % 2 ^ 40) :
    (s.writePa pa key b).readPa qa key = s.readPa qa key := by
  by_cases hgr : pa % 2 ^ 40 / 256 = qa % 2 ^ 40 / 256
  · unfold State.writePa
    split
    · rename_i hp
      by_cases hq : qa / 2 ^ 40 = 0
      · have hg : qa / 256 = pa / 256 := by omega
        have hne : pa ≠ qa := fun e => h (e ▸ rfl)
        simp only [State.readPa, if_pos hq, State.readKeyed, Tab.get_set_ne _ _ _ _ _ hne]
        rw [hg, if_pos (State.sameKey_written s pa key _)]
        by_cases hs : s.sameKey (pa / 256) key = true
        · rw [if_pos hs, if_pos hs]
        · rw [if_neg hs, if_neg hs]
          rw [State.get_rekey _ _ _ _ hg, State.readKeyed, hg, if_neg hs]
      · simp only [State.readPa, if_neg hq]
    · simp only [State.readPa, Tab.get_set_ne _ _ _ _ _ h]
      rfl
  · exact State.readPa_writePa_ne s pa qa key key b hgr

/-- A byte of a scratchpad reads back, and its line is present. -/
theorem State.readSp_writeSp_self (s : State) (core off : Nat) (b : Byte) :
    (s.writeSp core off b).readSp core off = b ∧ (s.writeSp core off b).present core (off / 128) = true := by
  simp [State.writeSp, State.writeSpRaw, State.setPresent, State.readSp, State.present]

/-- A byte of the chip scratchpad reads back. -/
theorem State.readCsp_writeCsp_self (s : State) (die off : Nat) (b : Byte) : (s.writeCsp die off b).readCsp die off = b := by
  simp [State.writeCsp, State.readCsp]

end Sys2Proof.Machine
end

