-- ==== Sys2Proof/Tests/Slice0.lean ====
section
/-!
SUPPORT. The model's own tests: words written out from the encodings of the rules and what they decode to, the smoke of
WellFormed, single steps whose results the specification works out, and for each statement of Obligations that has
hypotheses a state that meets them (witness_<name of the statement>).
-/
namespace Sys2Proof.Tests

open Sys2Proof Sys2Proof.Machine Sys2Proof.Claims

set_option Elab.async false

/-- The words decode to this instruction, of this length in words. -/
def decodesTo (ws : List Word) (i : Instr) (n : Nat) : Bool :=
  match decode ws with
  | .ok (j, k) => decide (j = i) && k == n
  | .error _ => false

/-- The words decode to nothing, for this reason. -/
def refusedFor (ws : List Word) (why : DecodeError) : Bool :=
  match decode ws with
  | .ok _ => false
  | .error e => e == why

/-! The words of every form, written from 02_encoding R30, R31, R36 and each instruction's own rule. -/

theorem test_decode_vectorShort : ([
    ([0x01858102], .vaAddI32 ⟨3, 5, 0x81, 2, 0⟩, 1),
    ([0x09858102], .vaSubI32 ⟨3, 5, 0x81, 2, 0⟩, 1),
    ([0x11858102], .vaMulI32 ⟨3, 5, 0x81, 2, 0⟩, 1),
    ([0x19858102], .vaAndB32 ⟨3, 5, 0x81, 2, 0⟩, 1),
    ([0x21858102], .vaOrB32 ⟨3, 5, 0x81, 2, 0⟩, 1),
    ([0x29858102], .vaXorB32 ⟨3, 5, 0x81, 2, 0⟩, 1),
    ([0x31858102], .vaShlB32 ⟨3, 5, 0x81, 2, 0⟩, 1),
    ([0x39858102], .vaShrN32 ⟨3, 5, 0x81, 2, 0⟩, 1),
    ([0x41858102], .vaShrI32 ⟨3, 5, 0x81, 2, 0⟩, 1),
    ([0x49858102], .vaMinI32 ⟨3, 5, 0x81, 2, 0⟩, 1),
    ([0x51858102], .vaMaxI32 ⟨3, 5, 0x81, 2, 0⟩, 1),
    ([0x59858102], .vaMinN32 ⟨3, 5, 0x81, 2, 0⟩, 1),
    ([0x61858102], .vaMaxN32 ⟨3, 5, 0x81, 2, 0⟩, 1),
    ([0x69858102], .vaAddF32 ⟨3, 5, 0x81, 2, 0⟩, 1),
    ([0x71858102], .vaSubF32 ⟨3, 5, 0x81, 2, 0⟩, 1),
    ([0x79858102], .vaMulF32 ⟨3, 5, 0x81, 2, 0⟩, 1),
    ([0x81858102], .vaMinF32 ⟨3, 5, 0x81, 2, 0⟩, 1),
    ([0x89858102], .vaMaxF32 ⟨3, 5, 0x81, 2, 0⟩, 1),
    ([0x91858102], .vaAndnB32 ⟨3, 5, 0x81, 2, 0⟩, 1),
    ([0x980900F0, 0x12345678], .vaMovB32 ⟨0, 9, 0, 0xF0, 0x12345678⟩, 2),
    ([0xA4A27FC9], .cmpInt ⟨9, 4, 2, 0x7F, 0xC9, 0⟩, 1),
    ([0xA86F06E3], .cmpFloat ⟨0, 13, 7, 6, 0xE3, 0⟩, 1),
    ([0xB0030603], .ldo ⟨0, 3, 6, false, false, 3, 0⟩, 1),
    ([0xB8FF85FF], .sto ⟨1, 127, 0x85, true, true, 63, 0⟩, 1)] : List (List Word × Instr × Nat)).all (fun p => decodesTo p.1 p.2.1 p.2.2) = true := by decide

theorem test_decode_scalar : ([
    ([0xD83D81CB], .scAddI32 ⟨61, 0x81, 0xCB, 0⟩, 1),
    ([0xD87D81CB], .scSubI32 ⟨61, 0x81, 0xCB, 0⟩, 1),
    ([0xD8BD81CB], .scMulI32 ⟨61, 0x81, 0xCB, 0⟩, 1),
    ([0xD8FD81CB], .scAndB32 ⟨61, 0x81, 0xCB, 0⟩, 1),
    ([0xD93D81CB], .scOrB32 ⟨61, 0x81, 0xCB, 0⟩, 1),
    ([0xD97D81CB], .scXorB32 ⟨61, 0x81, 0xCB, 0⟩, 1),
    ([0xD9BD81CB], .scShlB32 ⟨61, 0x81, 0xCB, 0⟩, 1),
    ([0xD9FD81CB], .scShrN32 ⟨61, 0x81, 0xCB, 0⟩, 1),
    ([0xDA3D81CB], .scShrI32 ⟨61, 0x81, 0xCB, 0⟩, 1),
    ([0xDA7D81CB], .scMinI32 ⟨61, 0x81, 0xCB, 0⟩, 1),
    ([0xDABD81CB], .scMaxI32 ⟨61, 0x81, 0xCB, 0⟩, 1),
    ([0xDAFD81CB], .scMinN32 ⟨61, 0x81, 0xCB, 0⟩, 1),
    ([0xDB3D81CB], .scMaxN32 ⟨61, 0x81, 0xCB, 0⟩, 1),
    ([0xDB7D80BF], .scMovB32 ⟨61, 0x80, 0xBF, 0⟩, 1),
    ([0xDBBD81CB], .scSltI32 ⟨61, 0x81, 0xCB, 0⟩, 1),
    ([0xDBFD81CB], .scSltN32 ⟨61, 0x81, 0xCB, 0⟩, 1),
    ([0xDC3D81CB], .scSeqB32 ⟨61, 0x81, 0xCB, 0⟩, 1),
    ([0xDC7D8180], .scPopcB32 ⟨61, 0x81, 0x80, 0⟩, 1),
    ([0xDCBD8180], .scClzB32 ⟨61, 0x81, 0x80, 0⟩, 1),
    ([0xDCFD81CB], .scAddF32 ⟨61, 0x81, 0xCB, 0⟩, 1),
    ([0xDD3D81CB], .scMulF32 ⟨61, 0x81, 0xCB, 0⟩, 1),
    ([0xDD7D81CB], .scMinF32 ⟨61, 0x81, 0xCB, 0⟩, 1),
    ([0xDDBD81CB], .scMaxF32 ⟨61, 0x81, 0xCB, 0⟩, 1),
    ([0xDFC78182, 0x00083000], .scMad ⟨7, 0x81, 0x82, ⟨0x83, false, false, 0, 0⟩, 0⟩, 2),
    ([0xDFC78182, 0x00183009], .scFma ⟨7, 0x81, 0x82, ⟨0x83, false, false, 0, 9⟩, 0⟩, 2),
    ([0xDFC78182, 0x00280000], .scBfe ⟨7, 0x81, 0x82, ⟨0x80, false, false, 0, 0⟩, 0⟩, 2),
    ([0xDFC78182, 0x00383002], .scBfi ⟨7, 0x81, 0x82, ⟨0x83, false, false, 0, 2⟩, 0⟩, 2),
    ([0xDFC78180, 0x00490000], .scCvt ⟨7, 0x81, 0x80, ⟨0x90, false, false, 0, 0⟩, 0⟩, 2),
    ([0xDFC78182, 0x00583002], .scSel ⟨7, 0x81, 0x82, ⟨0x83, false, false, 0, 2⟩, 0⟩, 2)] : List (List Word × Instr × Nat)).all (fun p => decodesTo p.1 p.2.1 p.2.2) = true := by decide

theorem test_decode_control : ([
    ([0xE080003D], .cfBra ⟨1, 0x3D⟩, 1),
    ([0xE00FFFC4], .cfJmp ⟨0, 0x7FFC4⟩, 1),
    ([0xE1100005], .cfCall ⟨2, 0x5⟩, 1),
    ([0xE0180000], .cfRet ⟨0, 0x0⟩, 1),
    ([0xE0240800], .cfBrx ⟨0, 0x40800⟩, 1),
    ([0xE0282000], .cfCallx ⟨0, 0x2000⟩, 1),
    ([0xE0300005], .cfMeet ⟨0, 0x5⟩, 1),
    ([0xE0380000], .cfExit ⟨0, 0x0⟩, 1),
    ([0xE2C00000], .cfKill ⟨5, 0x0⟩, 1),
    ([0xE0480000], .cfYield ⟨0, 0x0⟩, 1),
    ([0xE0512007], .cfJz ⟨0, 0x12007⟩, 1),
    ([0xE05FFFFF], .cfJnz ⟨0, 0x7FFFF⟩, 1),
    ([0xE0600000], .cfNop ⟨0, 0x0⟩, 1)] : List (List Word × Instr × Nat)).all (fun p => decodesTo p.1 p.2.1 p.2.2) = true := by decide

theorem test_decode_vectorLong : ([
    ([0xC00A0102, 0x00000400], .vxAdd ⟨0, ⟨0, 10, 0x1, 0x2, ⟨0x0, false, true, 0, 0x0⟩, 0⟩⟩, 2),
    ([0xC00A0102, 0x01300000], .vxSub ⟨3, ⟨0, 10, 0x1, 0x2, ⟨0x0, false, false, 0, 0x0⟩, 0⟩⟩, 2),
    ([0xC00A0102, 0x02900180], .vxMul ⟨9, ⟨0, 10, 0x1, 0x2, ⟨0x0, false, false, 3, 0x0⟩, 0⟩⟩, 2),
    ([0xC00A0102, 0x03200000], .vxAnd ⟨2, ⟨0, 10, 0x1, 0x2, ⟨0x0, false, false, 0, 0x0⟩, 0⟩⟩, 2),
    ([0xC00A0102, 0x04500000], .vxOr ⟨5, ⟨0, 10, 0x1, 0x2, ⟨0x0, false, false, 0, 0x0⟩, 0⟩⟩, 2),
    ([0xC00A0102, 0x05800000], .vxXor ⟨8, ⟨0, 10, 0x1, 0x2, ⟨0x0, false, false, 0, 0x0⟩, 0⟩⟩, 2),
    ([0xC00A0102, 0x06200000], .vxShl ⟨2, ⟨0, 10, 0x1, 0x2, ⟨0x0, false, false, 0, 0x0⟩, 0⟩⟩, 2),
    ([0xC00A0102, 0x07100000], .vxShr ⟨1, ⟨0, 10, 0x1, 0x2, ⟨0x0, false, false, 0, 0x0⟩, 0⟩⟩, 2),
    ([0xC00A0102, 0x08A00000], .vxMin ⟨10, ⟨0, 10, 0x1, 0x2, ⟨0x0, false, false, 0, 0x0⟩, 0⟩⟩, 2),
    ([0xC00A0102, 0x09B00000], .vxMax ⟨11, ⟨0, 10, 0x1, 0x2, ⟨0x0, false, false, 0, 0x0⟩, 0⟩⟩, 2),
    ([0xC00A0102, 0x0A200000], .vxAndn ⟨2, ⟨0, 10, 0x1, 0x2, ⟨0x0, false, false, 0, 0x0⟩, 0⟩⟩, 2),
    ([0xC00A0002, 0x0B200000], .vxMov ⟨2, ⟨0, 10, 0x0, 0x2, ⟨0x0, false, false, 0, 0x0⟩, 0⟩⟩, 2),
    ([0xC00A0102, 0x10600000], .vxAdds ⟨6, ⟨0, 10, 0x1, 0x2, ⟨0x0, false, false, 0, 0x0⟩, 0⟩⟩, 2),
    ([0xC00A0102, 0x11700000], .vxSubs ⟨7, ⟨0, 10, 0x1, 0x2, ⟨0x0, false, false, 0, 0x0⟩, 0⟩⟩, 2),
    ([0xC00A0102, 0x12100000], .vxMulhi ⟨1, ⟨0, 10, 0x1, 0x2, ⟨0x0, false, false, 0, 0x0⟩, 0⟩⟩, 2),
    ([0xC00A0102, 0x13003000], .vxMad ⟨0, ⟨0, 10, 0x1, 0x2, ⟨0x3, false, false, 0, 0x0⟩, 0⟩⟩, 2),
    ([0xC00A0100, 0x14000000], .vxAbs ⟨0, ⟨0, 10, 0x1, 0x0, ⟨0x0, false, false, 0, 0x0⟩, 0⟩⟩, 2),
    ([0xC00A0100, 0x15900000], .vxNeg ⟨9, ⟨0, 10, 0x1, 0x0, ⟨0x0, false, false, 0, 0x0⟩, 0⟩⟩, 2),
    ([0xC00A0102, 0x16100005], .vxLea ⟨1, ⟨0, 10, 0x1, 0x2, ⟨0x0, false, false, 0, 0x5⟩, 0⟩⟩, 2),
    ([0xC00A0102, 0x17000000], .vxBfe ⟨0, ⟨0, 10, 0x1, 0x2, ⟨0x0, false, false, 0, 0x0⟩, 0⟩⟩, 2),
    ([0xC00A0102, 0x18203000], .vxBfi ⟨2, ⟨0, 10, 0x1, 0x2, ⟨0x3, false, false, 0, 0x0⟩, 0⟩⟩, 2),
    ([0xC00A0102, 0x19203000], .vxFshl ⟨2, ⟨0, 10, 0x1, 0x2, ⟨0x3, false, false, 0, 0x0⟩, 0⟩⟩, 2),
    ([0xC00A0102, 0x1A2C9000], .vxFshr ⟨2, ⟨0, 10, 0x1, 0x2, ⟨0xC9, false, false, 0, 0x0⟩, 0⟩⟩, 2),
    ([0xC00A0100, 0x1B200000], .vxPopc ⟨2, ⟨0, 10, 0x1, 0x0, ⟨0x0, false, false, 0, 0x0⟩, 0⟩⟩, 2),
    ([0xC00A0100, 0x1C200000], .vxClz ⟨2, ⟨0, 10, 0x1, 0x0, ⟨0x0, false, false, 0, 0x0⟩, 0⟩⟩, 2),
    ([0xC00A0100, 0x1D200000], .vxBrev ⟨2, ⟨0, 10, 0x1, 0x0, ⟨0x0, false, false, 0, 0x0⟩, 0⟩⟩, 2),
    ([0xC0150102, 0x1E900000], .vxCmp ⟨9, ⟨0, 21, 0x1, 0x2, ⟨0x0, false, false, 0, 0x0⟩, 0⟩⟩, 2),
    ([0xC00A0102, 0x20903080], .vxFma ⟨9, ⟨0, 10, 0x1, 0x2, ⟨0x3, false, false, 1, 0x0⟩, 0⟩⟩, 2),
    ([0xC00A0102, 0x21903000], .vxClamp ⟨9, ⟨0, 10, 0x1, 0x2, ⟨0x3, false, false, 0, 0x0⟩, 0⟩⟩, 2),
    ([0xC00A0100, 0x22900100], .vxFrnd ⟨9, ⟨0, 10, 0x1, 0x0, ⟨0x0, false, false, 2, 0x0⟩, 0⟩⟩, 2),
    ([0xC00A0100, 0x23A00000], .vxFclass ⟨10, ⟨0, 10, 0x1, 0x0, ⟨0x0, false, false, 0, 0x0⟩, 0⟩⟩, 2),
    ([0xC00A0100, 0x28900000], .vxRcp ⟨9, ⟨0, 10, 0x1, 0x0, ⟨0x0, false, false, 0, 0x0⟩, 0⟩⟩, 2),
    ([0xC00A0100, 0x29900000], .vxRsq ⟨9, ⟨0, 10, 0x1, 0x0, ⟨0x0, false, false, 0, 0x0⟩, 0⟩⟩, 2),
    ([0xC00A0100, 0x2A900000], .vxSqrt ⟨9, ⟨0, 10, 0x1, 0x0, ⟨0x0, false, false, 0, 0x0⟩, 0⟩⟩, 2),
    ([0xC00A0100, 0x2B900000], .vxExp2 ⟨9, ⟨0, 10, 0x1, 0x0, ⟨0x0, false, false, 0, 0x0⟩, 0⟩⟩, 2),
    ([0xC00A0100, 0x2C900000], .vxLog2 ⟨9, ⟨0, 10, 0x1, 0x0, ⟨0x0, false, false, 0, 0x0⟩, 0⟩⟩, 2),
    ([0xC00A0100, 0x2D900000], .vxSinpi ⟨9, ⟨0, 10, 0x1, 0x0, ⟨0x0, false, false, 0, 0x0⟩, 0⟩⟩, 2),
    ([0xC00A0100, 0x2E900000], .vxCospi ⟨9, ⟨0, 10, 0x1, 0x0, ⟨0x0, false, false, 0, 0x0⟩, 0⟩⟩, 2),
    ([0xC00A0100, 0x2F900000], .vxTanh ⟨9, ⟨0, 10, 0x1, 0x0, ⟨0x0, false, false, 0, 0x0⟩, 0⟩⟩, 2),
    ([0xC00A0100, 0x30900000], .vxSigm ⟨9, ⟨0, 10, 0x1, 0x0, ⟨0x0, false, false, 0, 0x0⟩, 0⟩⟩, 2),
    ([0xC00A0102, 0x3820000B], .vxSel ⟨2, ⟨0, 10, 0x1, 0x2, ⟨0x0, false, false, 0, 0xB⟩, 0⟩⟩, 2),
    ([0xC0030182, 0x39000000], .vxPand ⟨0, ⟨0, 3, 0x1, 0x82, ⟨0x0, false, false, 0, 0x0⟩, 0⟩⟩, 2),
    ([0xC0030102, 0x3A000000], .vxPor ⟨0, ⟨0, 3, 0x1, 0x2, ⟨0x0, false, false, 0, 0x0⟩, 0⟩⟩, 2),
    ([0xC0030102, 0x3B000000], .vxPxor ⟨0, ⟨0, 3, 0x1, 0x2, ⟨0x0, false, false, 0, 0x0⟩, 0⟩⟩, 2),
    ([0xC0030100, 0x3C000000], .vxPnot ⟨0, ⟨0, 3, 0x1, 0x0, ⟨0x0, false, false, 0, 0x0⟩, 0⟩⟩, 2),
    ([0xC0070400, 0x40C9A000], .vxCvt ⟨12, ⟨0, 7, 0x4, 0x0, ⟨0x9A, false, false, 0, 0x0⟩, 0⟩⟩, 2),
    ([0xC00A0102, 0x41A00000], .vxPack ⟨10, ⟨0, 10, 0x1, 0x2, ⟨0x0, false, false, 0, 0x0⟩, 0⟩⟩, 2),
    ([0xC00A0100, 0x42600003], .vxUnpack ⟨6, ⟨0, 10, 0x1, 0x0, ⟨0x0, false, false, 0, 0x3⟩, 0⟩⟩, 2)] : List (List Word × Instr × Nat)).all (fun p => decodesTo p.1 p.2.1 p.2.2) = true := by decide

theorem test_decode_crossLane : ([
    ([0xC8040200, 0x00003002], .xlLpullAbs ⟨0, 4, 0x2, 0x0, ⟨0x3, false, false, 0, 0x2⟩, 0x0⟩, 2),
    ([0xC8040200, 0x001C9002], .xlLpullBel ⟨0, 4, 0x2, 0x0, ⟨0xC9, false, false, 0, 0x2⟩, 0x0⟩, 2),
    ([0xC8040200, 0x002C9002], .xlLpullAbv ⟨0, 4, 0x2, 0x0, ⟨0xC9, false, false, 0, 0x2⟩, 0x0⟩, 2),
    ([0xC8040200, 0x003C9002], .xlLpullXor ⟨0, 4, 0x2, 0x0, ⟨0xC9, false, false, 0, 0x2⟩, 0x0⟩, 2),
    ([0xC8040200, 0x00487002], .xlBcast ⟨0, 4, 0x2, 0x0, ⟨0x87, false, false, 0, 0x2⟩, 0x0⟩, 2),
    ([0xC8040200, 0x00587002], .xlLpeek ⟨0, 4, 0x2, 0x0, ⟨0x87, false, false, 0, 0x2⟩, 0x0⟩, 2),
    ([0xC8048200, 0x00687002], .xlLpoke ⟨0, 4, 0x82, 0x0, ⟨0x87, false, false, 0, 0x2⟩, 0x0⟩, 2),
    ([0xC8010300, 0x01000000], .xlVoteAll ⟨0, 1, 0x3, 0x0, ⟨0x0, false, false, 0, 0x0⟩, 0x0⟩, 2),
    ([0xC8018300, 0x01100000], .xlVoteAny ⟨0, 1, 0x83, 0x0, ⟨0x0, false, false, 0, 0x0⟩, 0x0⟩, 2),
    ([0xC8010300, 0x01200000], .xlVoteEq ⟨0, 1, 0x3, 0x0, ⟨0x0, false, false, 0, 0x0⟩, 0x0⟩, 2),
    ([0xC80A0300, 0x01300000], .xlBallot ⟨0, 10, 0x3, 0x0, ⟨0x0, false, false, 0, 0x0⟩, 0x0⟩, 2),
    ([0xC8050100, 0x02001000], .xlScanAdd ⟨0, 5, 0x1, 0x0, ⟨0x1, false, false, 0, 0x0⟩, 0x0⟩, 2),
    ([0xC8050100, 0x02100001], .xlScanMin ⟨0, 5, 0x1, 0x0, ⟨0x0, false, false, 0, 0x1⟩, 0x0⟩, 2),
    ([0xC8050100, 0x02200009], .xlScanMax ⟨0, 5, 0x1, 0x0, ⟨0x0, false, false, 0, 0x9⟩, 0x0⟩, 2),
    ([0xC8070300, 0x02800009], .xlRedAdd ⟨0, 7, 0x3, 0x0, ⟨0x0, false, false, 0, 0x9⟩, 0x0⟩, 2),
    ([0xC8070300, 0x02900000], .xlRedMin ⟨0, 7, 0x3, 0x0, ⟨0x0, false, false, 0, 0x0⟩, 0x0⟩, 2),
    ([0xC8070300, 0x02A00001], .xlRedMax ⟨0, 7, 0x3, 0x0, ⟨0x0, false, false, 0, 0x1⟩, 0x0⟩, 2),
    ([0xC8070300, 0x02B00002], .xlRedAnd ⟨0, 7, 0x3, 0x0, ⟨0x0, false, false, 0, 0x2⟩, 0x0⟩, 2),
    ([0xC8070300, 0x02C00002], .xlRedOr ⟨0, 7, 0x3, 0x0, ⟨0x0, false, false, 0, 0x2⟩, 0x0⟩, 2),
    ([0xC8070300, 0x03000002], .xlMatch ⟨0, 7, 0x3, 0x0, ⟨0x0, false, false, 0, 0x2⟩, 0x0⟩, 2)] : List (List Word × Instr × Nat)).all (fun p => decodesTo p.1 p.2.1 p.2.2) = true := by decide

theorem test_decode_memory : ([
    ([0xD0080200, 0x00085002], .mxLd ⟨0, 8, 0x2, 0x0, ⟨0x85, false, false, 0, 0x2⟩, 0x0⟩, 2),
    ([0xD0088400, 0x001C8014], .mxSt ⟨0, 8, 0x84, 0x0, ⟨0xC8, false, false, 0, 0x14⟩, 0x0⟩, 2),
    ([0xD0080200, 0x002C8002], .mxLdX2 ⟨0, 8, 0x2, 0x0, ⟨0xC8, false, false, 0, 0x2⟩, 0x0⟩, 2),
    ([0xD0080200, 0x003C8022], .mxStX2 ⟨0, 8, 0x2, 0x0, ⟨0xC8, false, false, 0, 0x22⟩, 0x0⟩, 2),
    ([0xD0080200, 0x004C8002], .mxLdX4 ⟨0, 8, 0x2, 0x0, ⟨0xC8, false, false, 0, 0x2⟩, 0x0⟩, 2),
    ([0xD0080200, 0x005C8012], .mxStX4 ⟨0, 8, 0x2, 0x0, ⟨0xC8, false, false, 0, 0x12⟩, 0x0⟩, 2),
    ([0xD0080200, 0x006C8102], .mxLdAcq ⟨0, 8, 0x2, 0x0, ⟨0xC8, false, false, 2, 0x2⟩, 0x0⟩, 2),
    ([0xD0058400, 0x007D0092], .mxStRel ⟨0, 5, 0x84, 0x0, ⟨0xD0, false, false, 1, 0x12⟩, 0x0⟩, 2),
    ([0xD0080214, 0x0080100C], .mxLdmx ⟨0, 8, 0x2, 0x14, ⟨0x1, false, false, 0, 0xC⟩, 0x0⟩, 2),
    ([0xD0000200, 0x009C8002], .mxPref ⟨0, 0, 0x2, 0x0, ⟨0xC8, false, false, 0, 0x2⟩, 0x0⟩, 2),
    ([0xD0088200, 0x00AC8802], .mxSld ⟨0, 8, 0x82, 0x0, ⟨0xC8, true, false, 0, 0x2⟩, 0x0⟩, 2),
    ([0xD0088200, 0x00BC8002], .mxSst ⟨0, 8, 0x82, 0x0, ⟨0xC8, false, false, 0, 0x2⟩, 0x0⟩, 2),
    ([0xD0080200, 0x00CC8002], .mxLdRo ⟨0, 8, 0x2, 0x0, ⟨0xC8, false, false, 0, 0x2⟩, 0x0⟩, 2),
    ([0xD0090401, 0x010C8101], .mxAtomAdd ⟨0, 9, 0x4, 0x1, ⟨0xC8, false, false, 2, 0x1⟩, 0x0⟩, 2),
    ([0xD0090401, 0x011C8101], .mxAtomMin ⟨0, 9, 0x4, 0x1, ⟨0xC8, false, false, 2, 0x1⟩, 0x0⟩, 2),
    ([0xD0090401, 0x012C8101], .mxAtomMax ⟨0, 9, 0x4, 0x1, ⟨0xC8, false, false, 2, 0x1⟩, 0x0⟩, 2),
    ([0xD0090401, 0x013C8102], .mxAtomAnd ⟨0, 9, 0x4, 0x1, ⟨0xC8, false, false, 2, 0x2⟩, 0x0⟩, 2),
    ([0xD0090401, 0x014C8102], .mxAtomOr ⟨0, 9, 0x4, 0x1, ⟨0xC8, false, false, 2, 0x2⟩, 0x0⟩, 2),
    ([0xD0090401, 0x015C8102], .mxAtomXor ⟨0, 9, 0x4, 0x1, ⟨0xC8, false, false, 2, 0x2⟩, 0x0⟩, 2),
    ([0xD0090401, 0x016C8102], .mxAtomXchg ⟨0, 9, 0x4, 0x1, ⟨0xC8, false, false, 2, 0x2⟩, 0x0⟩, 2),
    ([0xD0090401, 0x01703102], .mxAtomCas ⟨0, 9, 0x4, 0x1, ⟨0x3, false, false, 2, 0x2⟩, 0x0⟩, 2),
    ([0xD0000000, 0x02000180], .mxFence ⟨0, 0, 0x0, 0x0, ⟨0x0, false, false, 3, 0x0⟩, 0x0⟩, 2)] : List (List Word × Instr × Nat)).all (fun p => decodesTo p.1 p.2.1 p.2.2) = true := by decide

theorem test_decode_engines : ([
    ([0xE8018800, 0x00003002], .enTcopy ⟨0, 1, 0x88, 0x0, ⟨0x3, false, false, 0, 0x2⟩, 0x0⟩, 2),
    ([0xE8018889, 0x00103002], .enTgather ⟨0, 1, 0x88, 0x89, ⟨0x3, false, false, 0, 0x2⟩, 0x0⟩, 2),
    ([0xE8018C8D, 0x00204015], .enTbin ⟨0, 1, 0x8C, 0x8D, ⟨0x4, false, false, 0, 0x15⟩, 0x0⟩, 2),
    ([0xE8028A00, 0x003B5000], .enCbload ⟨0, 2, 0x8A, 0, ⟨0xB5, false, false, 0, 0⟩, 0⟩, 2),
    ([0xE8008400, 0x00403001], .enHbind ⟨0, 0, 0x84, 0x0, ⟨0x3, false, false, 0, 0x1⟩, 0x0⟩, 2),
    ([0xE8000000, 0x00503002], .enHwait ⟨0, 0, 0x0, 0x0, ⟨0x3, false, false, 0, 0x2⟩, 0x0⟩, 2),
    ([0xE8060000, 0x00603000], .enHstate ⟨0, 6, 0x0, 0x0, ⟨0x3, false, false, 0, 0x0⟩, 0x0⟩, 2),
    ([0xE8000000, 0x00703000], .enHrel ⟨0, 0, 0x0, 0x0, ⟨0x3, false, false, 0, 0x0⟩, 0x0⟩, 2),
    ([0xE8018800, 0x00803000], .enHsig ⟨0, 1, 0x88, 0x0, ⟨0x3, false, false, 0, 0x0⟩, 0x0⟩, 2),
    ([0xE8018488, 0x00903000], .enBinset ⟨0, 1, 0x84, 0x88, ⟨0x3, false, false, 0, 0x0⟩, 0x0⟩, 2),
    ([0xE8048400, 0x00A02000], .enBinrd ⟨0, 4, 0x84, 0x0, ⟨0x2, false, false, 0, 0x0⟩, 0x0⟩, 2),
    ([0xE8040000, 0x00B05000], .enCbstat ⟨0, 4, 0x0, 0x0, ⟨0x5, false, false, 0, 0x0⟩, 0x0⟩, 2),
    ([0xE8231085, 0x04028012], .enMma ⟨0, 0x23, 0x10, 0x85, ⟨0x28, false, false, 0, 0x12⟩, 0⟩, 2),
    ([0xE8030000, 0x04100000], .enTzero ⟨0, 3, 0, 0, ⟨0, false, false, 0, 0⟩, 0⟩, 2),
    ([0xE8088203, 0x04205001], .enTget ⟨0, 8, 0x82, 3, ⟨5, false, false, 0, 1⟩, 0⟩, 2),
    ([0xE8088203, 0x04305000], .enTset ⟨0, 8, 0x82, 0x3, ⟨0x5, false, false, 0, 0x0⟩, 0x0⟩, 2),
    ([0xE8299496, 0x0442301C], .enTdrain ⟨0, 0x29, 0x94, 0x96, ⟨0x23, false, false, 0, 0x1C⟩, 0⟩, 2),
    ([0xE8218687, 0x0450003C], .enOmap ⟨0, 0x21, 0x86, 0x87, ⟨0, false, false, 0, 0x3C⟩, 0⟩, 2),
    ([0xE8400000, 0x04501000], .enOmapRel ⟨0, 0x40, 0, 0, ⟨1, false, false, 0, 0⟩, 0⟩, 2),
    ([0xE8028100, 0x04600000], .enSxsel ⟨0, 2, 0x81, 0x0, ⟨0x0, false, false, 0, 0x0⟩, 0x0⟩, 2),
    ([0xE8030002, 0x04700001], .enTmov ⟨0, 3, 0x0, 0x2, ⟨0x0, false, false, 0, 0x1⟩, 0x0⟩, 2),
    ([0xE8090003, 0x04800000], .enTstat ⟨0, 9, 0, 3, ⟨0, false, false, 0, 0⟩, 0⟩, 2),
    ([0xE8080003, 0x04900001], .enTfill ⟨0, 8, 0x0, 0x3, ⟨0x0, false, false, 0, 0x1⟩, 0x0⟩, 2),
    ([0xE8140401, 0x08007000], .enNeval ⟨0, 0x14, 4, 1, ⟨7, false, false, 0, 0⟩, 0⟩, 2),
    ([0xE8000000, 0x08100000], .enNflush ⟨0, 0, 0, 0, ⟨0, false, false, 0, 0⟩, 0⟩, 2),
    ([0xE8018400, 0x08203000], .enActload ⟨0, 1, 0x84, 0x0, ⟨0x3, false, false, 0, 0x0⟩, 0x0⟩, 2),
    ([0xE8018400, 0x08307000], .enNbind ⟨0, 1, 0x84, 0x0, ⟨0x7, false, false, 0, 0x0⟩, 0x0⟩, 2),
    ([0xE8040000, 0x08407000], .enNstat ⟨0, 4, 0x0, 0x0, ⟨0x7, false, false, 0, 0x0⟩, 0x0⟩, 2)] : List (List Word × Instr × Nat)).all (fun p => decodesTo p.1 p.2.1 p.2.2) = true := by decide

theorem test_decode_graphics : ([
    ([0xF0018485, 0x00002003], .gxVamp ⟨0, 1, 0x84, 0x85, ⟨0x2, false, false, 0, 0x3⟩, 0x0⟩, 2),
    ([0xF0018400, 0x00100003], .gxVclose ⟨0, 1, 0x84, 0x0, ⟨0x0, false, false, 0, 0x3⟩, 0x0⟩, 2),
    ([0xF0018485, 0x00202003], .gxLensmap ⟨0, 1, 0x84, 0x85, ⟨0x2, false, false, 0, 0x3⟩, 0x0⟩, 2),
    ([0xF0028788, 0x00305003], .gxPresent ⟨0, 2, 0x87, 0x88, ⟨0x5, false, false, 0, 0x3⟩, 0x0⟩, 2),
    ([0xF0060000, 0x00400003], .gxVopen ⟨0, 6, 0x0, 0x0, ⟨0x0, false, false, 0, 0x3⟩, 0x0⟩, 2),
    ([0xF0018400, 0x00500003], .gxVset ⟨0, 1, 0x84, 0x0, ⟨0x0, false, false, 0, 0x3⟩, 0x0⟩, 2),
    ([0xF0008283, 0x00609000], .gxGazeld ⟨0, 0, 0x82, 0x83, ⟨0x9, false, false, 0, 0x0⟩, 0x0⟩, 2),
    ([0xF00C8A00, 0x00702000], .gxVtile ⟨0, 12, 0x8A, 0x0, ⟨0x2, false, false, 0, 0x0⟩, 0x0⟩, 2),
    ([0xF0140C84, 0x00800003], .gxVcov ⟨0, 20, 0xC, 0x84, ⟨0x0, false, false, 0, 0x3⟩, 0x0⟩, 2),
    ([0xF0018485, 0x00902003], .gxVrec ⟨0, 1, 0x84, 0x85, ⟨0x2, false, false, 0, 0x3⟩, 0x0⟩, 2),
    ([0xF0019091, 0x04092003], .gxRlaunch ⟨0, 1, 0x90, 0x91, ⟨0x92, false, false, 0, 3⟩, 0⟩, 2),
    ([0xF0048900, 0x04100000], .gxRload ⟨0, 4, 0x89, 0x0, ⟨0x0, false, false, 0, 0x0⟩, 0x0⟩, 2),
    ([0xF0000900, 0x04200002], .gxRstore ⟨0, 0, 0x9, 0x0, ⟨0x0, false, false, 0, 0x2⟩, 0x0⟩, 2),
    ([0xF0140800, 0x04300000], .gxRbox ⟨0, 20, 0x8, 0x0, ⟨0x0, false, false, 0, 0x0⟩, 0x0⟩, 2),
    ([0xF0020800, 0x04400000], .gxRtri ⟨0, 2, 0x8, 0x0, ⟨0x0, false, false, 0, 0x0⟩, 0x0⟩, 2),
    ([0xF0000800, 0x04500000], .gxRspush ⟨0, 0, 0x8, 0x0, ⟨0x0, false, false, 0, 0x0⟩, 0x0⟩, 2),
    ([0xF01E0000, 0x04600000], .gxRspop ⟨0, 30, 0x0, 0x0, ⟨0x0, false, false, 0, 0x0⟩, 0x0⟩, 2),
    ([0xF0080200, 0x04700000], .gxBunion ⟨0, 8, 0x2, 0x0, ⟨0x0, false, false, 0, 0x0⟩, 0x0⟩, 2),
    ([0xF0010200, 0x04800000], .gxBsah ⟨0, 1, 0x2, 0x0, ⟨0x0, false, false, 0, 0x0⟩, 0x0⟩, 2),
    ([0xF0008202, 0x04907000], .gxBpack ⟨0, 0, 0x82, 0x2, ⟨0x7, false, false, 0, 0x0⟩, 0x0⟩, 2)] : List (List Word × Instr × Nat)).all (fun p => decodesTo p.1 p.2.1 p.2.2) = true := by decide

theorem test_decode_system : ([
    ([0xF8020090, 0x00000000], .syLaunch ⟨0, 2, 0x0, 0x90, ⟨0x0, false, false, 0, 0x0⟩, 0x0⟩, 2),
    ([0xF8028490, 0x00100000], .syQpost ⟨0, 2, 0x84, 0x90, ⟨0x0, false, false, 0, 0x0⟩, 0x0⟩, 2),
    ([0xF8038614, 0x00285010], .syTspawn ⟨0, 3, 0x86, 0x14, ⟨0x85, false, false, 0, 0x10⟩, 0x0⟩, 2),
    ([0xF8038400, 0x00300000], .syTreserve ⟨0, 3, 0x84, 0x0, ⟨0x0, false, false, 0, 0x0⟩, 0x0⟩, 2),
    ([0xF8000000, 0x00400000], .syTcommit ⟨0, 0, 0x0, 0x0, ⟨0x0, false, false, 0, 0x0⟩, 0x0⟩, 2),
    ([0xF800D4C9, 0x00500000], .syEvsig ⟨0, 0, 0xD4, 0xC9, ⟨0x0, false, false, 0, 0x0⟩, 0x0⟩, 2),
    ([0xF800D488, 0x00600000], .syEvwait ⟨0, 0, 0xD4, 0x88, ⟨0x0, false, false, 0, 0x0⟩, 0x0⟩, 2),
    ([0xF804D400, 0x00700000], .syEvread ⟨0, 4, 0xD4, 0x0, ⟨0x0, false, false, 0, 0x0⟩, 0x0⟩, 2),
    ([0xF8000000, 0x04003000], .syBsync ⟨0, 0, 0x0, 0x0, ⟨0x3, false, false, 0, 0x0⟩, 0x0⟩, 2),
    ([0xF8008500, 0x04042000], .syBsyncCluster ⟨0, 0, 0x85, 0x0, ⟨0x42, false, false, 0, 0x0⟩, 0x0⟩, 2),
    ([0xF8000000, 0x04100000], .syBarrive ⟨0, 0, 0x0, 0x0, ⟨0x0, false, false, 0, 0x0⟩, 0x0⟩, 2),
    ([0xF8000000, 0x04200000], .syBwait ⟨0, 0, 0x0, 0x0, ⟨0x0, false, false, 0, 0x0⟩, 0x0⟩, 2),
    ([0xF8000000, 0x04381000], .syRsync ⟨0, 0, 0x0, 0x0, ⟨0x81, false, false, 0, 0x0⟩, 0x0⟩, 2),
    ([0xF8000000, 0x04481000], .syRarrive ⟨0, 0, 0x0, 0x0, ⟨0x81, false, false, 0, 0x0⟩, 0x0⟩, 2),
    ([0xF8000000, 0x04581000], .syRwait ⟨0, 0, 0x0, 0x0, ⟨0x81, false, false, 0, 0x0⟩, 0x0⟩, 2),
    ([0xF801CA00, 0x08000000], .syVgrow ⟨0, 1, 0xCA, 0x0, ⟨0x0, false, false, 0, 0x0⟩, 0x0⟩, 2),
    ([0xF8028300, 0x08100000], .syVshrink ⟨0, 2, 0x83, 0x0, ⟨0x0, false, false, 0, 0x0⟩, 0x0⟩, 2),
    ([0xF8090000, 0x08200000], .syVquery ⟨0, 9, 0x0, 0x0, ⟨0x0, false, false, 0, 0x0⟩, 0x0⟩, 2),
    ([0xF8280000, 0x08300007], .syVzero ⟨0, 40, 0x0, 0x0, ⟨0x0, false, false, 0, 0x7⟩, 0x0⟩, 2),
    ([0xF8000000, 0x0C005000], .syTrap ⟨0, 0, 0x0, 0x0, ⟨0x5, false, false, 0, 0x0⟩, 0x0⟩, 2),
    ([0xF8000000, 0x0C1FF000], .syBrk ⟨0, 0, 0x0, 0x0, ⟨0xFF, false, false, 0, 0x0⟩, 0x0⟩, 2),
    ([0xF8040000, 0x0C208001], .syCsrr ⟨0, 4, 0x0, 0x0, ⟨0x8, false, false, 0, 0x1⟩, 0x0⟩, 2),
    ([0xF8008200, 0x0C310000], .syCsrw ⟨0, 0, 0x82, 0x0, ⟨0x10, false, false, 0, 0x0⟩, 0x0⟩, 2),
    ([0xF8008200, 0x0C410000], .syCsrs ⟨0, 0, 0x82, 0x0, ⟨0x10, false, false, 0, 0x0⟩, 0x0⟩, 2),
    ([0xF8008200, 0x0C510000], .syCsrc ⟨0, 0, 0x82, 0x0, ⟨0x10, false, false, 0, 0x0⟩, 0x0⟩, 2),
    ([0xF8000000, 0x0C600001], .syTret ⟨0, 0, 0x0, 0x0, ⟨0x0, false, false, 0, 0x1⟩, 0x0⟩, 2),
    ([0xF8000000, 0x0C700000], .syCtxsave ⟨0, 0, 0x0, 0x0, ⟨0x0, false, false, 0, 0x0⟩, 0x0⟩, 2),
    ([0xF8028590, 0x10000001], .syMsend ⟨0, 2, 0x85, 0x90, ⟨0x0, false, false, 0, 0x1⟩, 0x0⟩, 2),
    ([0xF8200000, 0x10100000], .syMrecv ⟨0, 32, 0x0, 0x0, ⟨0x0, false, false, 0, 0x0⟩, 0x0⟩, 2),
    ([0xF8018490, 0x10286000], .syMcast ⟨0, 1, 0x84, 0x90, ⟨0x86, false, false, 0, 0x0⟩, 0x0⟩, 2),
    ([0xF8070000, 0x10300000], .syMprobe ⟨0, 7, 0x0, 0x0, ⟨0x0, false, false, 0, 0x0⟩, 0x0⟩, 2)] : List (List Word × Instr × Nat)).all (fun p => decodesTo p.1 p.2.1 p.2.2) = true := by decide

/-- The machine with one group of 16 lanes, group 1 of team 0, at an instruction. -/
def placed (i : Instr) : State := State.reset.withWords (encode i)

/-- The word is at issue in the state, its checks passed, and p holds of the state and of the word's surroundings. -/
def meetsIf (ill : Env → State → Bool) (i : Instr) (f : State → State) (p : State → Env → Bool) : Bool :=
  match gate i ill (f (placed i)) with
  | .go v _ => p (f (placed i)) v
  | _ => false

abbrev meets := meetsIf noIll

/-- What a witness of this form shows: a state in which the instruction is ready and the other hypotheses hold. -/
theorem ready_of_meets {ill : Env → State → Bool} {i : Instr} {f : State → State} {p : State → Env → Bool}
    (h : meetsIf ill i f p = true) : ∃ v, ReadyIf ill i (f (placed i)) v ∧ p (f (placed i)) v = true := by
  unfold meetsIf at h
  split at h
  · rename_i v t hg
    exact ⟨v, (ready_of_gate ill i _ t v hg).1, h⟩
  · cases h

/-- The instruction is ready where it is placed. -/
def isReady (i : Instr) : Bool := meets i id (fun _ _ => true)

/-- A change of the placed group, its team, its core or its context. -/
def inGroup (f : Group → Group) (s : State) : State := s.modGroup 1 f
def inTeam (f : Team → Team) (s : State) : State := s.modTeam 0 f
def inCore (f : Core → Core) (s : State) : State := s.setCore 0 (f (s.core 0))
def inCtx (f : Ctx → Ctx) (s : State) : State := s.modCtx 0 f

/-- A leaf for the 16 GB from address 0: valid, writable, executable, accessed and dirty. -/
def leaf0 : Leaf := { ctx := none, level := 2, vpn := 0, pte := 0x167, entry := 0x1000 }

/-- The caches of core 0 and of die 0 hold these leaves; the first leaf, where the core's caches hold one. -/
def leaves (ls : List Leaf) : Tab (List Leaf) := [(0, ls), (3200, ls)]

/-- Some lane's bytes lie in another module. -/
def reachesFar (bytes : List (Nat × List Loc)) : Bool := bytes.any (fun b => b.2.any Loc.isFar)

/-- The access is granted as the state stands: of the leaf that each address has. -/
def granted (v : Env) (s : State) (k : AccKind) (as : List LaneAcc) : Bool :=
  let leaf (va : Nat) : Leaf := (v.leaf s va).getD leaf0
  let vas := vasOf v k as
  (earlyChecks v s k).all (fun p => as.all (fun a => !p.2 a)) && vas.all (fun va => v.leaf s va == some (leaf va))
    && (!k.write || vas.all (fun va => !pteM (leaf va).pte && pteW (leaf va).pte && (k.rows || pteD (leaf va).pte)))
    && (Site.core v.x.core).caches.all (fun j => (Tab.get [] s.tlb j).length + (pagesOf vas).length ≤ cacheSize j
      && vas.all (fun va => (Tab.get [] s.tlb j).all (fun o => !s.serves o v.c va || o == leaf va)))
    && as.all (fun a => !(v.x.vas k.space k.n a).any (fun va => pteC (leaf va).pte)
      && !(k.locks && !(v.locked s k.space k.n k.write a).isEmpty))
    && (k.write || (linesOf (placesOf v s k as)).all (fun p => s.present p.1 p.2))

/-- The control registers of a group that reaches its scratchpad, its stack, its frame, a ray pool and a tree. -/
def benchCtl (c : Ctl) : Ctl :=
  { c with
    sppriv := 2 ^ 28
    stklim := 1024
    stkbase := 0x100000
    tfbase := 0x200000
    rpbase := 0x300000
    rpcap := 4096
    bvhbase := 0x400000 }

/-- A machine whose group reaches its scratchpad, its stack, the chip scratchpad, another module and the mapped memory. -/
def bench (s : State) : State :=
  inCtx (fun c => { c with d := { c.d with cspg := [2 ^ 12] }, map := [(1, 0x80000000)] })
    (inTeam (fun t => { t with
        kern := { t.kern with hndl := 6, spTeam := 64 }, cores := [{ core := 0, region := 0, handle0 := 0 }] }) (inGroup (fun x => { x with ctl := benchCtl x.ctl })
      { s with tlb := leaves [leaf0], presence := (List.range 64).map (fun n => (n, true)) }))

/-- The same with one lane, the others exited. -/
def bench1 (s : State) : State :=
  inGroup (fun x => { x.mapLanes 0xFFFE (fun _ y => { y with st := .exited }) with
    flow := { x.flow with clause := x.flow.clause.map (fun c => { c with lanes := 1 }) } }) (bench s)

/-- Scalar registers set. -/
def withS (rs : List (Nat × Word)) : State → State := inGroup (fun x => { x with regs := { x.regs with s := rs } })

/-- The checks of an access pass, with these places. -/
def passes (v : Env) (s : State) (k : AccKind) (as : List LaneAcc) (p : State → List (Nat × List Loc) → Bool) : Bool :=
  match v.check s k as with
  | .ok t b => p t b
  | _ => false

/-- Bytes of memory, by rising address, in the state that a word finds. -/
def withMem (m : List (Nat × Byte)) (s : State) : State := { s with mem := m }

/-- A handle of the placed group's core. -/
def withHandle (k : Nat) (h : Handle) : State → State := inCore (fun c => { c with handles := [(k, h)] })

/-- An instruction's own load of a block passes its checks and answers bytes of which p holds. -/
def reads (v : Env) (s : State) (addr n align : Nat) (p : State → List Byte → Bool) : Bool :=
  (v.busy false).isNone && passes v s { space := 0, n := n, align := align, write := false } (v.lanes.map (fun l => ⟨l, addr⟩))
    (fun t bytes => match bytes with
      | [] => p t (List.replicate n 0)
      | b :: _ => !b.2.any Loc.isFar && b.2.all (fun l => (t.readOwn v.g l).isSome)
        && p t (b.2.map (fun l => (t.readOwn v.g l).getD 0)))


/-! The smoke of WellFormed: for each rule of R37 that an encoding can break, a term that breaks it and nothing before it. -/

/-- The instruction is not well formed, for this reason. -/
def illFor (i : Instr) (why : Illegal) : Bool := !i.wf && i.enc.any (fun e => e.illegal == some why)

theorem test_wellFormed_refuses :
    let x (c m1 m2 : Nat) : Word1 := ⟨BitVec.ofNat 8 c, false, false, BitVec.ofNat 3 m1, BitVec.ofNat 7 m2⟩
    ([(.enTcopy ⟨1, 1, 0x88, 0, x 3 0 2, 0⟩, .guardField), (.mxFence ⟨0, 1, 0, 0, x 0 3 0, 0⟩, .dField),
      (.scAddI32 ⟨6, 0x11, 0xCB, 0⟩, .aField), (.vaAddI32 ⟨0, 4, 0xC0, 1, 0⟩, .aField), (.vaAddI32 ⟨0, 4, 1, 0xF1, 0⟩, .bField),
      (.vxFma ⟨9, ⟨0, 10, 1, 2, x 0xC0 1 0, 0⟩⟩, .cField), (.vxFma ⟨9, ⟨0, 10, 1, 2, x 3 5 0, 0⟩⟩, .mod1Field),
      (.vxFma ⟨9, ⟨0, 10, 1, 2, ⟨3, true, false, 1, 0⟩, 0⟩⟩, .flagSelect), (.vxSel ⟨2, ⟨0, 10, 1, 2, x 0 0 0x10, 0⟩⟩, .mod2Field),
      (.mxLd ⟨0, 5, 0x84, 0, x 0xD0 0 0x1F, 0⟩, .reservedCode), (.cfNop ⟨0, 7⟩, .fieldRule),
      (.mxStRel ⟨0, 5, 0x85, 0, x 0xD0 1 2, 0⟩, .oddPair), (.vaAddI32 ⟨0, 4, 1, 2, 5⟩, .strayLiteral)] : List (Instr × Illegal)).all
        (fun p => illFor p.1 p.2) = true := by decide

theorem test_wellFormed_refuses_strayWord1 :
    ({ major := 0, minor := 0, t := ⟨0, 4, 1, 2, ⟨0, false, true, 0, 0⟩, 0⟩ } : Enc).illegal = some .strayWord1 := by decide

/-- The minors that C tells apart (R231, R270). -/
theorem test_wellFormed_refuses_minors :
    ([.syBsync ⟨0, 0, 0x85, 0, ⟨0x42, false, false, 0, 0⟩, 0⟩, .syBsyncCluster ⟨0, 0, 0, 0, ⟨2, false, false, 0, 0⟩, 0⟩,
      .enOmap ⟨0, 0, 0, 0, ⟨1, false, false, 0, 0⟩, 0⟩] : List Instr).all
        (fun i => !i.wf && i.enc.any (fun e => e.illegal == none)) = true := by decide

/-! One step on a small state, with results that the specification works out. -/

/-- After one step of the placed word from a state, the group has the property. -/
def gives (i : Instr) (f : State → State) (p : Group → Bool) : Bool :=
  match exec i (f (placed i)) with
  | .next t => (t.group 1).any p
  | _ => false

/-- v[n] of lanes 0 and 1. -/
def withV (rs : List (Nat × Word × Word)) : State → State := inGroup (fun x =>
  { x with regs := { x.regs with v := (rs.map (fun r => [(64 * r.1, r.2.1), (64 * r.1 + 1, r.2.2)])).flatten } })

/-- 04_lane after R71: bfe.n32, bfe.i32, and the length cut at bit 31. -/
theorem test_bfe :
    gives (.vxBfe ⟨1, ⟨0, 10, 1, 2, ⟨0, false, false, 0, 0⟩, 0⟩⟩) (withV [(1, 0x12345678, 0x12345678), (2, 0x805, 0x81C)])
      (fun x => x.regs.getV 10 0 = 0xB3 && x.regs.getV 10 1 = 1) = true
    ∧ gives (.vxBfe ⟨0, ⟨0, 10, 1, 2, ⟨0, false, false, 0, 0⟩, 0⟩⟩) (withV [(1, 0x12345678, 0x12345678), (2, 0x805, 0x81C)])
      (fun x => x.regs.getV 10 0 = 0xFFFFFFB3) = true := by decide +kernel

/-- 04_lane after R72, with k = 8 and k = 0. -/
theorem test_fshl :
    gives (.vxFshl ⟨2, ⟨0, 10, 1, 2, ⟨3, false, false, 0, 0⟩, 0⟩⟩) (withV [(1, 0x89ABCDEF, 0x89ABCDEF), (2, 0x01234567, 0x01234567), (3, 8, 0)])
      (fun x => x.regs.getV 10 0 = 0xABCDEF01 && x.regs.getV 10 1 = 0x89ABCDEF) = true
    ∧ gives (.vxFshr ⟨2, ⟨0, 10, 1, 2, ⟨3, false, false, 0, 0⟩, 0⟩⟩) (withV [(1, 0x89ABCDEF, 0x89ABCDEF), (2, 0x01234567, 0x01234567), (3, 8, 0)])
      (fun x => x.regs.getV 10 0 = 0xEF012345 && x.regs.getV 10 1 = 0x01234567) = true := by decide +kernel

/-- 03_numbers after R58: cvt to bf16 with .sr, just after the generator was set to 1. -/
theorem test_cvt_stochastic :
    gives (.vxCvt ⟨11, ⟨0, 10, 1, 0, ⟨0x90, false, false, 4, 0⟩, 0⟩⟩) (withV [(1, 0x3F800080, 0x3F800080)])
      (fun x => x.regs.getV 10 0 = 0x3F81 && x.regs.getV 10 1 = 0x3F80) = true := by decide +kernel

/-- 04_lane R68, R85: sums wrap, and a later lane's value does not disturb an earlier one's. -/
theorem test_add_wraps :
    gives (.vaAddI32 ⟨0, 1, 1, 2, 0⟩) (withV [(1, 0xFFFFFFFF, 1), (2, 2, 3)]) (fun x => x.regs.getV 1 0 = 1 && x.regs.getV 1 1 = 4) = true
    ∧ gives (.scAddI32 ⟨5, 0x81, 0xCB, 0⟩) (withS [(1, 0xFFFFFFFE)]) (fun x => x.regs.getS 5 = 1) = true := by decide +kernel

/-- The encodings of 1.0, -3.0 and 0.375 (03_numbers after R49). -/
theorem test_formats :
    [(0x3F800000, [0x3C00, 0x3F80, 0x38, 0x3C, 0x2, 0x40]), (0xC0400000, [0xC200, 0xC040, 0xC4, 0xC2, 0xD, 0xD8])].all (fun p =>
      [Ty.f16, .bf16, .e4m3, .e5m2, .mx4, .mt8].map (fun t => (roundTo t {} .rne (decodeRaw .f32 p.1)).1) == p.2) = true
    ∧ [Ty.f16, .bf16, .e4m3, .e5m2, .mt8].map (fun t => (roundTo t {} .rne (decodeRaw .f32 0x3EC00000)).1) = [0x3600, 0x3EC0, 0x2C, 0x36, 0x34] := by
  decide +kernel

/-- 15_net, a worked evaluation: three rows of a ReLU behind one bf16 layer. -/
theorem test_net_evaluation :
    let relu : ActBank := { lo := 0xC0800000, hi := 0x40800000, segs := List.replicate 32 0 ++ List.replicate 32 0x3C00 }
    let sn : NetSnap := ⟨⟨[0x41, 0, 0, 0, 0x500000, 0, 0x40, 0] ++ List.replicate 56 0, 0⟩, 7, [(0, 0, relu)]⟩
    [(0x3F800000, 0x3EC00000), (0xBF800000, 0), (0x41100000, 0)].map (fun v =>
      netValue sn 0 [⟨[rowCodes .bf16 [0xC0, 0x3F, 0x00, 0xC0]], [0x3E800000]⟩] [v.1, v.2]) = [[0x3F800000], [0], [0x40800000]] := by
  decide +kernel

/-- 17_ray, a box test, worked: child 0 is hit at 1.0, child 1 at 2.0, child 2 is missed. -/
theorem test_box :
    let node : List Word := [0, 0, 0, 0x077C7C7C, 0x07000000, 0x00080707, 0x07070F00, 0x07000800, 0x0000070F] ++ List.replicate 23 0
    (State.reset.boxWords {} [0xBF800000, 0x3F000000, 0x3F000000, 0x3F800000, 0, 0, 0, 0x41200000] node).2
      = [3, 0x3F800000, 0x40000000] ++ List.replicate 6 0x7F800000 := by
  decide +kernel

/-- 09_kernel, a worked placement: the fields of kernel blend. -/
theorem test_kernel_fields :
    let k := Kernel.of ([0x100, 0x48086F10, 0x02010004, 0x01002180, 0x00010000, 0x00010000, 0, 0x00400000] ++ List.replicate 8 0)
    k.entry = 0x100 ∧ k.w = 32 ∧ k.team = 8 ∧ k.prod = 2 ∧ k.vgp = 3 ∧ k.vgc = 15 ∧ k.spPriv = 64 ∧ k.spTeam = 1024 ∧ k.acc = 4
      ∧ k.hndl = 8 ∧ k.lease = 16 ∧ k.tension = 256 ∧ k.promise = true ∧ k.reuse = true ∧ k.msg = false ∧ k.stkLim = 256
      ∧ k.stkArena * 1024 = 0x04000000 ∧ k.stkAreas = 64 := by decide +kernel

/-- 08_queue, the worked record. -/
theorem test_record_fields :
    let r : List Word := [0x40, 0x10001, 0x123400, 0, 0, 0, 0x70C80, 0x30400, 2, 0, 0x800000, 0, 0x100, 0, 0, 0]
    recGx r = 64 ∧ recGy r = 1 ∧ recGz r = 1 ∧ recKdesc r = 0x123400 ∧ recTag r = 7 ∧ recKind r = 0 ∧ recClass r = 2 ∧ recTeamg r = 0
      ∧ recDone r = some 4 ∧ recArgptr r = 0x800000 ∧ recArgs r = [0x100, 0, 0, 0, 0x800000, 0] := by decide +kernel

/-- The integer operations are ready, also at the narrow types. -/
theorem witness_IntegerResults : (
    [.vaAddI32 ⟨3, 5, 0x81, 2, 0⟩,
    .vaSubI32 ⟨3, 5, 0x81, 2, 0⟩,
    .vaMulI32 ⟨3, 5, 0x81, 2, 0⟩,
    .vaAndB32 ⟨3, 5, 0x81, 2, 0⟩,
    .vaOrB32 ⟨3, 5, 0x81, 2, 0⟩,
    .vaXorB32 ⟨3, 5, 0x81, 2, 0⟩,
    .vaShlB32 ⟨3, 5, 0x81, 2, 0⟩,
    .vaShrN32 ⟨3, 5, 0x81, 2, 0⟩,
    .vaShrI32 ⟨3, 5, 0x81, 2, 0⟩,
    .vaMinI32 ⟨3, 5, 0x81, 2, 0⟩,
    .vaMaxI32 ⟨3, 5, 0x81, 2, 0⟩,
    .vaMinN32 ⟨3, 5, 0x81, 2, 0⟩,
    .vaMaxN32 ⟨3, 5, 0x81, 2, 0⟩,
    .vaAndnB32 ⟨3, 5, 0x81, 2, 0⟩,
    .vaMovB32 ⟨0, 9, 0, 0xF0, 0x12345678⟩,
    .vxAdd ⟨0, ⟨0, 10, 0x1, 0x2, ⟨0x0, false, true, 0, 0x0⟩, 0⟩⟩,
    .vxSub ⟨3, ⟨0, 10, 0x1, 0x2, ⟨0x0, false, false, 0, 0x0⟩, 0⟩⟩,
    .vxAnd ⟨2, ⟨0, 10, 0x1, 0x2, ⟨0x0, false, false, 0, 0x0⟩, 0⟩⟩,
    .vxOr ⟨5, ⟨0, 10, 0x1, 0x2, ⟨0x0, false, false, 0, 0x0⟩, 0⟩⟩,
    .vxXor ⟨8, ⟨0, 10, 0x1, 0x2, ⟨0x0, false, false, 0, 0x0⟩, 0⟩⟩,
    .vxShl ⟨2, ⟨0, 10, 0x1, 0x2, ⟨0x0, false, false, 0, 0x0⟩, 0⟩⟩,
    .vxShr ⟨1, ⟨0, 10, 0x1, 0x2, ⟨0x0, false, false, 0, 0x0⟩, 0⟩⟩,
    .vxAndn ⟨2, ⟨0, 10, 0x1, 0x2, ⟨0x0, false, false, 0, 0x0⟩, 0⟩⟩,
    .vxMov ⟨2, ⟨0, 10, 0x0, 0x2, ⟨0x0, false, false, 0, 0x0⟩, 0⟩⟩,
    .vxAdds ⟨6, ⟨0, 10, 0x1, 0x2, ⟨0x0, false, false, 0, 0x0⟩, 0⟩⟩,
    .vxSubs ⟨7, ⟨0, 10, 0x1, 0x2, ⟨0x0, false, false, 0, 0x0⟩, 0⟩⟩,
    .vxMulhi ⟨1, ⟨0, 10, 0x1, 0x2, ⟨0x0, false, false, 0, 0x0⟩, 0⟩⟩,
    .vxMad ⟨0, ⟨0, 10, 0x1, 0x2, ⟨0x3, false, false, 0, 0x0⟩, 0⟩⟩,
    .vxAbs ⟨0, ⟨0, 10, 0x1, 0x0, ⟨0x0, false, false, 0, 0x0⟩, 0⟩⟩,
    .vxMul ⟨1, ⟨0, 10, 1, 2, ⟨0, false, false, 0, 0⟩, 0⟩⟩,
    .vxMin ⟨7, ⟨0, 10, 1, 2, ⟨0, false, false, 0, 0⟩, 0⟩⟩,
    .vxMax ⟨6, ⟨0, 10, 1, 2, ⟨0, false, false, 0, 0⟩, 0⟩⟩,
    .vxNeg ⟨6, ⟨0, 10, 1, 0, ⟨0, false, false, 0, 0⟩, 0⟩⟩] : List Instr).all isReady = true := by decide +kernel

/-- lea, the bit fields, the funnel shifts, the counts and sel are ready. -/
theorem witness_BitFieldResults : (
    [.vxLea ⟨1, ⟨0, 10, 0x1, 0x2, ⟨0x0, false, false, 0, 0x5⟩, 0⟩⟩,
    .vxBfe ⟨0, ⟨0, 10, 0x1, 0x2, ⟨0x0, false, false, 0, 0x0⟩, 0⟩⟩,
    .vxBfi ⟨2, ⟨0, 10, 0x1, 0x2, ⟨0x3, false, false, 0, 0x0⟩, 0⟩⟩,
    .vxFshl ⟨2, ⟨0, 10, 0x1, 0x2, ⟨0x3, false, false, 0, 0x0⟩, 0⟩⟩,
    .vxFshr ⟨2, ⟨0, 10, 0x1, 0x2, ⟨0xC9, false, false, 0, 0x0⟩, 0⟩⟩,
    .vxPopc ⟨2, ⟨0, 10, 0x1, 0x0, ⟨0x0, false, false, 0, 0x0⟩, 0⟩⟩,
    .vxClz ⟨2, ⟨0, 10, 0x1, 0x0, ⟨0x0, false, false, 0, 0x0⟩, 0⟩⟩,
    .vxBrev ⟨2, ⟨0, 10, 0x1, 0x0, ⟨0x0, false, false, 0, 0x0⟩, 0⟩⟩,
    .vxSel ⟨2, ⟨0, 10, 0x1, 0x2, ⟨0x0, false, false, 0, 0xB⟩, 0⟩⟩,
    .vxBfe ⟨1, ⟨0, 10, 1, 2, ⟨0, false, false, 0, 0⟩, 0⟩⟩] : List Instr).all isReady = true := by decide +kernel

/-- The float operations are ready. -/
theorem witness_FloatResults : (
    [.vaAddF32 ⟨3, 5, 0x81, 2, 0⟩,
    .vaSubF32 ⟨3, 5, 0x81, 2, 0⟩,
    .vaMulF32 ⟨3, 5, 0x81, 2, 0⟩,
    .vaMinF32 ⟨3, 5, 0x81, 2, 0⟩,
    .vaMaxF32 ⟨3, 5, 0x81, 2, 0⟩,
    .vxMul ⟨9, ⟨0, 10, 0x1, 0x2, ⟨0x0, false, false, 3, 0x0⟩, 0⟩⟩,
    .vxMin ⟨10, ⟨0, 10, 0x1, 0x2, ⟨0x0, false, false, 0, 0x0⟩, 0⟩⟩,
    .vxMax ⟨11, ⟨0, 10, 0x1, 0x2, ⟨0x0, false, false, 0, 0x0⟩, 0⟩⟩,
    .vxFma ⟨9, ⟨0, 10, 0x1, 0x2, ⟨0x3, false, false, 1, 0x0⟩, 0⟩⟩,
    .vxClamp ⟨9, ⟨0, 10, 0x1, 0x2, ⟨0x3, false, false, 0, 0x0⟩, 0⟩⟩,
    .vxNeg ⟨9, ⟨0, 10, 0x1, 0x0, ⟨0x0, false, false, 0, 0x0⟩, 0⟩⟩,
    .vxFrnd ⟨9, ⟨0, 10, 0x1, 0x0, ⟨0x0, false, false, 2, 0x0⟩, 0⟩⟩,
    .vxFclass ⟨10, ⟨0, 10, 0x1, 0x0, ⟨0x0, false, false, 0, 0x0⟩, 0⟩⟩,
    .vxRcp ⟨9, ⟨0, 10, 0x1, 0x0, ⟨0x0, false, false, 0, 0x0⟩, 0⟩⟩,
    .vxRsq ⟨9, ⟨0, 10, 0x1, 0x0, ⟨0x0, false, false, 0, 0x0⟩, 0⟩⟩,
    .vxSqrt ⟨9, ⟨0, 10, 0x1, 0x0, ⟨0x0, false, false, 0, 0x0⟩, 0⟩⟩,
    .vxExp2 ⟨9, ⟨0, 10, 0x1, 0x0, ⟨0x0, false, false, 0, 0x0⟩, 0⟩⟩,
    .vxLog2 ⟨9, ⟨0, 10, 0x1, 0x0, ⟨0x0, false, false, 0, 0x0⟩, 0⟩⟩,
    .vxSinpi ⟨9, ⟨0, 10, 0x1, 0x0, ⟨0x0, false, false, 0, 0x0⟩, 0⟩⟩,
    .vxCospi ⟨9, ⟨0, 10, 0x1, 0x0, ⟨0x0, false, false, 0, 0x0⟩, 0⟩⟩,
    .vxTanh ⟨9, ⟨0, 10, 0x1, 0x0, ⟨0x0, false, false, 0, 0x0⟩, 0⟩⟩,
    .vxSigm ⟨9, ⟨0, 10, 0x1, 0x0, ⟨0x0, false, false, 0, 0x0⟩, 0⟩⟩,
    .vxAdd ⟨10, ⟨0, 10, 1, 2, ⟨0, false, false, 1, 0⟩, 0⟩⟩,
    .vxSub ⟨11, ⟨0, 10, 1, 2, ⟨0, false, false, 2, 0⟩, 0⟩⟩,
    .vxAbs ⟨9, ⟨0, 10, 1, 0, ⟨0, false, false, 0, 0⟩, 0⟩⟩,
    .vxClamp ⟨0, ⟨0, 10, 1, 2, ⟨3, false, false, 0, 0⟩, 0⟩⟩] : List Instr).all isReady = true := by decide +kernel

/-- The comparisons and predicate operations are ready, the comparison at an integer and at a float type. -/
theorem witness_PredicateResults : (
    [.cmpInt ⟨9, 4, 2, 0x7F, 0xC9, 0⟩,
    .cmpFloat ⟨0, 13, 7, 6, 0xE3, 0⟩,
    .vxCmp ⟨9, ⟨0, 21, 0x1, 0x2, ⟨0x0, false, false, 0, 0x0⟩, 0⟩⟩,
    .vxPand ⟨0, ⟨0, 3, 0x1, 0x82, ⟨0x0, false, false, 0, 0x0⟩, 0⟩⟩,
    .vxPor ⟨0, ⟨0, 3, 0x1, 0x2, ⟨0x0, false, false, 0, 0x0⟩, 0⟩⟩,
    .vxPxor ⟨0, ⟨0, 3, 0x1, 0x2, ⟨0x0, false, false, 0, 0x0⟩, 0⟩⟩,
    .vxPnot ⟨0, ⟨0, 3, 0x1, 0x0, ⟨0x0, false, false, 0, 0x0⟩, 0⟩⟩,
    .vxCmp ⟨1, ⟨0, 21, 1, 2, ⟨0, false, false, 0, 0⟩, 0⟩⟩] : List Instr).all isReady = true := by decide +kernel

/-- cvt, also under .sr with an amax register, pack and unpack are ready. -/
theorem witness_ConversionResults : (
    [.vxCvt ⟨12, ⟨0, 7, 0x4, 0x0, ⟨0x9A, false, false, 0, 0x0⟩, 0⟩⟩,
    .vxPack ⟨10, ⟨0, 10, 0x1, 0x2, ⟨0x0, false, false, 0, 0x0⟩, 0⟩⟩,
    .vxUnpack ⟨6, ⟨0, 10, 0x1, 0x0, ⟨0x0, false, false, 0, 0x3⟩, 0⟩⟩,
    .vxCvt ⟨12, ⟨0, 7, 4, 0, ⟨154, false, false, 4, 0⟩, 0⟩⟩,
    .vxPack ⟨6, ⟨0, 10, 1, 2, ⟨3, false, false, 0, 1⟩, 0⟩⟩,
    .vxUnpack ⟨12, ⟨0, 10, 1, 0, ⟨0, false, false, 0, 1⟩, 0⟩⟩] : List Instr).all isReady = true := by decide +kernel

/-- The scalar operations are ready. -/
theorem witness_ScalarResults : (
    [.scAddI32 ⟨61, 0x81, 0xCB, 0⟩,
    .scSubI32 ⟨61, 0x81, 0xCB, 0⟩,
    .scMulI32 ⟨61, 0x81, 0xCB, 0⟩,
    .scAndB32 ⟨61, 0x81, 0xCB, 0⟩,
    .scOrB32 ⟨61, 0x81, 0xCB, 0⟩,
    .scXorB32 ⟨61, 0x81, 0xCB, 0⟩,
    .scShlB32 ⟨61, 0x81, 0xCB, 0⟩,
    .scShrN32 ⟨61, 0x81, 0xCB, 0⟩,
    .scShrI32 ⟨61, 0x81, 0xCB, 0⟩,
    .scMinI32 ⟨61, 0x81, 0xCB, 0⟩,
    .scMaxI32 ⟨61, 0x81, 0xCB, 0⟩,
    .scMinN32 ⟨61, 0x81, 0xCB, 0⟩,
    .scMaxN32 ⟨61, 0x81, 0xCB, 0⟩,
    .scMovB32 ⟨61, 0x80, 0xBF, 0⟩,
    .scSltI32 ⟨61, 0x81, 0xCB, 0⟩,
    .scSltN32 ⟨61, 0x81, 0xCB, 0⟩,
    .scSeqB32 ⟨61, 0x81, 0xCB, 0⟩,
    .scPopcB32 ⟨61, 0x81, 0x80, 0⟩,
    .scClzB32 ⟨61, 0x81, 0x80, 0⟩,
    .scAddF32 ⟨61, 0x81, 0xCB, 0⟩,
    .scMulF32 ⟨61, 0x81, 0xCB, 0⟩,
    .scMinF32 ⟨61, 0x81, 0xCB, 0⟩,
    .scMaxF32 ⟨61, 0x81, 0xCB, 0⟩,
    .scMad ⟨7, 0x81, 0x82, ⟨0x83, false, false, 0, 0⟩, 0⟩,
    .scFma ⟨7, 0x81, 0x82, ⟨0x83, false, false, 0, 9⟩, 0⟩,
    .scBfe ⟨7, 0x81, 0x82, ⟨0x80, false, false, 0, 0⟩, 0⟩,
    .scBfi ⟨7, 0x81, 0x82, ⟨0x83, false, false, 0, 2⟩, 0⟩,
    .scCvt ⟨7, 0x81, 0x80, ⟨0x90, false, false, 0, 0⟩, 0⟩,
    .scSel ⟨7, 0x81, 0x82, ⟨0x83, false, false, 0, 2⟩, 0⟩] : List Instr).all isReady = true := by decide +kernel

/-- The reductions and scans are ready, on integers and on .f32. -/
theorem witness_ReductionResults : (
    [.xlRedAdd ⟨0, 7, 0x3, 0x0, ⟨0x0, false, false, 0, 0x9⟩, 0x0⟩,
    .xlRedMin ⟨0, 7, 0x3, 0x0, ⟨0x0, false, false, 0, 0x0⟩, 0x0⟩,
    .xlRedMax ⟨0, 7, 0x3, 0x0, ⟨0x0, false, false, 0, 0x1⟩, 0x0⟩,
    .xlRedAnd ⟨0, 7, 0x3, 0x0, ⟨0x0, false, false, 0, 0x2⟩, 0x0⟩,
    .xlRedOr ⟨0, 7, 0x3, 0x0, ⟨0x0, false, false, 0, 0x2⟩, 0x0⟩,
    .xlScanAdd ⟨0, 5, 0x1, 0x0, ⟨0x1, false, false, 0, 0x0⟩, 0x0⟩,
    .xlScanMin ⟨0, 5, 0x1, 0x0, ⟨0x0, false, false, 0, 0x1⟩, 0x0⟩,
    .xlScanMax ⟨0, 5, 0x1, 0x0, ⟨0x0, false, false, 0, 0x9⟩, 0x0⟩,
    .xlRedAdd ⟨0, 7, 3, 0, ⟨0, false, false, 0, 1⟩, 0⟩,
    .xlRedMin ⟨0, 7, 3, 0, ⟨0, false, false, 0, 9⟩, 0⟩,
    .xlRedMax ⟨0, 7, 3, 0, ⟨0, false, false, 0, 9⟩, 0⟩,
    .xlScanAdd ⟨0, 5, 1, 0, ⟨0, false, false, 0, 9⟩, 0⟩,
    .xlScanMin ⟨0, 5, 1, 0, ⟨1, false, false, 0, 9⟩, 0⟩,
    .xlScanMax ⟨0, 5, 1, 0, ⟨1, false, false, 0, 0⟩, 0⟩] : List Instr).all isReady = true := by decide +kernel

/-- The lane moves and votes are ready. -/
theorem witness_LaneMoveAndVoteResults : (
    [.xlLpullAbs ⟨0, 4, 0x2, 0x0, ⟨0x3, false, false, 0, 0x2⟩, 0x0⟩,
    .xlLpullBel ⟨0, 4, 0x2, 0x0, ⟨0xC9, false, false, 0, 0x2⟩, 0x0⟩,
    .xlLpullAbv ⟨0, 4, 0x2, 0x0, ⟨0xC9, false, false, 0, 0x2⟩, 0x0⟩,
    .xlLpullXor ⟨0, 4, 0x2, 0x0, ⟨0xC9, false, false, 0, 0x2⟩, 0x0⟩,
    .xlBcast ⟨0, 4, 0x2, 0x0, ⟨0x87, false, false, 0, 0x2⟩, 0x0⟩,
    .xlLpeek ⟨0, 4, 0x2, 0x0, ⟨0x87, false, false, 0, 0x2⟩, 0x0⟩,
    .xlLpoke ⟨0, 4, 0x82, 0x0, ⟨0x87, false, false, 0, 0x2⟩, 0x0⟩,
    .xlVoteAll ⟨0, 1, 0x3, 0x0, ⟨0x0, false, false, 0, 0x0⟩, 0x0⟩,
    .xlVoteAny ⟨0, 1, 0x83, 0x0, ⟨0x0, false, false, 0, 0x0⟩, 0x0⟩,
    .xlVoteEq ⟨0, 1, 0x3, 0x0, ⟨0x0, false, false, 0, 0x0⟩, 0x0⟩,
    .xlBallot ⟨0, 10, 0x3, 0x0, ⟨0x0, false, false, 0, 0x0⟩, 0x0⟩,
    .xlMatch ⟨0, 7, 0x3, 0x0, ⟨0x0, false, false, 0, 0x2⟩, 0x0⟩] : List Instr).all isReady = true := by decide +kernel


/-- Every lane of the group at a branch reads a target in its first vector registers. -/
def vecAll (n : Nat) (w : Word) : State → State :=
  inGroup (fun x => { x with regs := (List.range 16).foldl (fun r l => r.setV n l w) x.regs })

/-- The branches, brx at targets that are multiples of 4 and at one that is not. -/
theorem witness_BranchResults :
    ([.cfBra ⟨1, 0x3D⟩, .cfJmp ⟨0, 0x7FFC4⟩, .cfJz ⟨0, 0x12007⟩, .cfJnz ⟨0, 0x7FFFF⟩] : List Instr).all isReady = true
    ∧ meets (.cfBrx ⟨0, 0x40800⟩) id (fun _ v => v.lanes.all (fun l => (v.read 0x81 .b32 l).toNat % 4 = 0)) = true
    ∧ meets (.cfBrx ⟨0, 0x40800⟩) (withS [(1, 6)]) (fun _ v => v.lanes.any (fun l => (v.read 0x81 .b32 l).toNat % 4 ≠ 0)) = true := by
  decide +kernel

/-- The ends of lanes: free, with a bound pixel, and behind a commit that must wait. -/
theorem witness_LaneEndResults :
    ([.cfMeet ⟨0, 5⟩, .cfYield ⟨0, 0⟩, .cfNop ⟨0, 0⟩] : List Instr).all isReady = true
    ∧ [Instr.cfExit ⟨0, 0⟩, .cfKill ⟨0, 0⟩].all (fun i => meets i bench (fun _ v => !v.publishWaits v.act
        && v.lanes.all (fun l => (v.x.lane l).vbind.isNone))) = true
    ∧ meets (.cfKill ⟨0, 0⟩) (fun s => inGroup (fun x => x.mapLanes 1 (fun _ y => { y with vbind := some 128 })) (bench s))
        (fun s v => !v.publishWaits v.act && (v.busy true).isNone
          && passes v (v.at_ s) { space := 1, n := 4, align := 4, write := true, atomic := true } [⟨0, 128⟩] (fun _ b => b ≠ [])
          && (v.lanes.filterMap (fun l => (v.x.lane l).vbind.map (fun a => (⟨l, a⟩ : LaneAcc)))) = [⟨0, 128⟩]) = true
    ∧ [Instr.cfExit ⟨0, 0⟩, .cfKill ⟨0, 0⟩].all (fun i => meets i (fun s =>
        inGroup (fun x => { x.mapLanes 1 (fun _ y => { y with committed := false, pending := [(0, 0)] }) with
          io := { x.io with sq := [{ work := .store [], flag := none, pc := 0, lanes := 0, addr := 0, far := false }] } }) (bench s))
        (fun _ v => v.publishWaits v.act)) = true := by decide +kernel

/-- The loads with the kind of their access and their places. -/
def loadCases : List (Instr × AccKind × (Env → List LaneAcc)) :=
  let two (d a b c m1 m2 : Nat) : TwoWord :=
    ⟨0, BitVec.ofNat 7 d, BitVec.ofNat 8 a, BitVec.ofNat 8 b, ⟨BitVec.ofNat 8 c, false, false, BitVec.ofNat 3 m1, BitVec.ofNat 7 m2⟩, 0⟩
  let one (w : TwoWord) : AccKind := { space := spaceOf w, n := tySize w, align := tySize w, write := false }
  let p : ShortMem := ⟨0, 3, 0x84, false, false, 3, 0⟩
  let q : ShortMem := ⟨0, 3, 0x84, true, false, 63, 0⟩
  let a := two 8 0x84 0 0xC8 0 2
  let l := two 8 0x84 0 0xC8 2 2
  let x := two 8 0x84 0 0xC8 0 0x32
  let m := two 8 0x84 20 1 0 0x0C
  [(.ldo p, { space := 0, n := 4, align := 4, write := false }, shortAccs p),
   (.ldo q, { space := 1, n := 4, align := 4, write := false }, shortAccs q),
   (.mxLd a, one a, mxAccs a), (.mxLdRo a, one a, mxAccs a), (.mxLdAcq l, one l, mxAccs l),
   (.mxLdX2 a, { space := 0, n := 8, align := 8, write := false }, mxAccs a),
   (.mxLdX4 x, { space := 3, n := 16, align := 16, write := false }, mxAccs x),
   (.mxLdmx m, { space := 0, n := 33, align := 1, write := false }, fun v => v.accs 0 (fun _ => 0)),
   (.mxSld a, one a, mxAccs a)]

/-- Loads whose checks pass, of this module and, where the space is global, of another. -/
theorem witness_LoadResults :
    loadCases.all (fun c => meets c.1 bench (fun s v => c.2.2 v ≠ [] && (v.busy false).isNone
      && passes v (v.at_ s) c.2.1 (c.2.2 v) (fun t b => !reachesFar b && b.all (fun e => e.2.all (fun l => (t.readOwn v.g l).isSome)))
      && granted v (v.at_ s) c.2.1 (c.2.2 v)
      && (placesOf v (v.at_ s) c.2.1 (c.2.2 v)).all (fun e => e.2.all (fun l => ((v.at_ s).readOwn v.g l).isSome)))) = true
    ∧ loadCases.all (fun c => c.2.1.space ≠ 0 || meets c.1 (fun s => withS [(5, 0x100000)] (bench s)) (fun s v => c.2.2 v ≠ []
      && (v.busy false).isNone && !(v.x.io.sq.any (fun e => e.far))
      && passes v (v.at_ s) c.2.1 (c.2.2 v) (fun _ b => reachesFar b))) = true
    ∧ meets (.mxLd ⟨1, 8, 0x84, 0, ⟨0xC8, false, false, 0, 2⟩, 0⟩) bench (fun _ v =>
        mxAccs ⟨1, 8, 0x84, 0, ⟨0xC8, false, false, 0, 2⟩, 0⟩ v = []) = true := by decide +kernel

/-- The stores with the kind of their access and their places. -/
def storeCases : List (Instr × AccKind × (Env → List LaneAcc)) :=
  let two (d a b c m1 m2 : Nat) : TwoWord :=
    ⟨0, BitVec.ofNat 7 d, BitVec.ofNat 8 a, BitVec.ofNat 8 b, ⟨BitVec.ofNat 8 c, false, false, BitVec.ofNat 3 m1, BitVec.ofNat 7 m2⟩, 0⟩
  let one (w : TwoWord) : AccKind := { space := spaceOf w, n := tySize w, align := tySize w, write := true }
  let p : ShortMem := ⟨0, 127, 0x84, false, true, 63, 0⟩
  let a := two 8 0x84 0 0xC8 0 2
  let r := two 5 0x84 0 0xD0 1 0x12
  let x := two 8 0x84 0 0xC8 0 0x42
  [(.sto p, { space := 1, n := 4, align := 4, write := true }, shortAccs p), (.mxSt a, one a, mxAccs a), (.mxStRel r, one r, mxAccs r),
   (.mxStX2 x, { space := 4, n := 8, align := 8, write := true }, mxAccs x),
   (.mxStX4 a, { space := 0, n := 16, align := 16, write := true }, mxAccs a), (.mxSst a, one a, mxAccs a)]

/-- Stores whose checks pass, and one with no lane. -/
theorem witness_StoreResults :
    storeCases.all (fun c => meets c.1 bench (fun s v => c.2.2 v ≠ [] && (v.busy true).isNone
      && granted v (v.at_ s) c.2.1 (c.2.2 v) && passes v (v.at_ s) c.2.1 (c.2.2 v) (fun _ b => b ≠ []))) = true
    ∧ meets (.mxSt ⟨1, 8, 0x84, 0, ⟨0xC8, false, false, 0, 2⟩, 0⟩) bench (fun _ v =>
        mxAccs ⟨1, 8, 0x84, 0, ⟨0xC8, false, false, 0, 2⟩, 0⟩ v = []) = true := by decide +kernel

/-- Each atomic, with its checks passed, and with no lane. -/
theorem witness_AtomicResults :
    atomTable.all (fun p =>
      let w : TwoWord := ⟨0, 9, 4, 1, ⟨if p.2 = .cas then 3 else 0xC8, false, false, 2, if p.2 = .add ∨ p.2 = .min ∨ p.2 = .max then 1 else 2⟩, 0⟩
      meets (p.1 w) bench (fun s v => atomAccs w p.2 v ≠ [] && (v.busy true).isNone
        && granted v (v.at_ s) { space := spaceOf w, n := 4, align := 4, write := true, atomic := true, sys := w.x.mod1 = 4 } (atomAccs w p.2 v)
        && passes v (v.at_ s) { space := spaceOf w, n := 4, align := 4, write := true, atomic := true, sys := w.x.mod1 = 4 }
          (atomAccs w p.2 v) (fun _ b => b ≠ []))) = true
    ∧ meets (.mxAtomAdd ⟨1, 9, 4, 1, ⟨0xC8, false, false, 2, 1⟩, 0⟩) bench (fun _ v =>
        atomAccs ⟨1, 9, 4, 1, ⟨0xC8, false, false, 2, 1⟩, 0⟩ .add v = []) = true := by decide +kernel

/-- A queued store of the placed group. -/
def queuedStore : SqEnt := { work := .store [], flag := none, pc := 0, lanes := 0, addr := 0, far := false }

/-- The placed group has a store in its queue, so an access of it is not yet performed. -/
def storing : State → State := inGroup (fun x => { x with io := { x.io with sq := [queuedStore] } })

/-- fence with every access performed and with a store queued, and pref. -/
theorem witness_FenceAndPrefetch :
    meets (.mxFence ⟨0, 0, 0, 0, ⟨0, false, false, 3, 0⟩, 0⟩) id (fun _ v => v.x.drained) = true
    ∧ meets (.mxFence ⟨0, 0, 0, 0, ⟨0, false, false, 3, 0⟩, 0⟩) storing (fun _ v => !v.x.drained) = true
    ∧ meets (.mxPref ⟨0, 0, 2, 0, ⟨0xC8, false, false, 0, 2⟩, 0⟩) bench (fun _ _ => true) = true := by decide +kernel

/-- Every lane of the placed group at depth 1. -/
def called : State → State := inGroup (fun x => x.mapLanes 0xFFFF (fun _ y => { y with depth := 1 }))

/-- call and callx with no lane, without room, and with room; callx at a target that is no multiple of 4; ret at depth 0, and with
popped addresses that are, and are not, multiples of 4. -/
theorem witness_CallAndReturnResults :
    meets (.cfCall ⟨1, 5⟩) bench (fun _ v => v.act = 0) = true
    ∧ [Instr.cfCall ⟨0, 5⟩, .cfCallx ⟨0, 0x2000⟩].all (fun i =>
      meets i id (fun _ v => v.act ≠ 0 && v.lanes.any (fun l => v.x.ctl.stklim < 4 * ((v.x.lane l).depth + 1))
        && v.lanes.all (fun l => (v.read 4 .b32 l).toNat % 4 = 0))
      && meets i bench (fun s v => v.act ≠ 0 && (v.busy true).isNone
        && v.lanes.all (fun l => (v.x.lane l).depth < 255 && 4 * ((v.x.lane l).depth + 1) ≤ v.x.ctl.stklim)
        && passes v (v.at_ s) { space := 4, n := 4, align := 4, write := true } (pushAccs v) (fun _ b => b ≠ []))) = true
    ∧ meets (.cfCallx ⟨0, 0x2000⟩) (vecAll 4 6) (fun _ v => v.lanes.any (fun l => (v.read 4 .b32 l).toNat % 4 ≠ 0)) = true
    ∧ meets (.cfRet ⟨0, 0⟩) id (fun _ v => v.lanes.any (fun l => (v.x.lane l).depth = 0)) = true
    ∧ [[], [(0x103FC0, (2 : Byte))]].all (fun m => meets (.cfRet ⟨0, 0⟩) (fun s => called (withMem m (bench s))) (fun s v =>
        v.lanes.all (fun l => (v.x.lane l).depth ≠ 0) && (v.busy false).isNone
        && passes v (v.at_ s) { space := 4, n := 4, align := 4, write := false } (popAccs v) (fun t b =>
          b.all (fun e => e.2.all (fun l => (t.readOwn v.g l).isSome))
          && (b.all (fun e => ofBytes (e.2.map (fun l => (t.readOwn v.g l).getD 0)) % 4 = 0) == (m = []))))) = true := by
  decide +kernel

/-- A record of one dimension of one byte, copied as it stands (13_transfer R237, R238): kind in bits 13:12 of its control word. -/
def recordMem (kind : Nat) : List (Nat × Byte) :=
  [(0x1020, 0x71), (0x1021, BitVec.ofNat 8 (7 + 16 * kind)), (0x1040, 1)]

/-- What a transfer needs to enter its queue. -/
def mayQueue (s : State) (v : Env) (i : Nat) : Bool := v.x.drained && (s.engine v.die i).queue.length < 32

/-- tcopy and tgather with a good record and a handle that fits, with one that does not, and with a bad record; tbin likewise. -/
theorem witness_TransferIssue :
    let at_ (h : Handle) (m : List (Nat × Byte)) (s : State) : State := withS [(8, 0x1000)] (withMem m (withHandle 3 h (bench1 s)))
    let copy : Instr := .enTcopy ⟨0, 1, 0x88, 0, ⟨3, false, false, 0, 2⟩, 0⟩
    let gather : Instr := .enTgather ⟨0, 1, 0x88, 0x89, ⟨3, false, false, 0, 2⟩, 0⟩
    [(copy, 0, HSt.filling), (copy, 1, .full), (copy, 0, .free), (copy, 2, .free), (copy, 3, .free), (gather, 0, .filling)].all
      (fun c => meets c.1 (at_ { st := c.2.2, size := 1 } (recordMem c.2.1)) (fun s v =>
        reads v (v.at_ s) (v.pair 0x88) 256 256 (fun t bs =>
          let r := TRec.of bs
          (r.ok bs ((t.book v.die r.cb).at (t.book v.die r.cb).pinGen).2 == (c.2.1 != 3)) && r.kind = c.2.1 && !r.coded
            && v.handleNo 3 = some 3 && r.total * r.spSize ≤ ((t.core 0).handle 3).size * 128 && mayQueue t v 2
            && v.x.owns 0 4))) = true
    ∧ meets (.enTcopy ⟨0, 1, 0x88, 0, ⟨0xFF, false, false, 0, 2⟩, 0⟩) (at_ {} (recordMem 2)) (fun s v =>
        reads v (v.at_ s) (v.pair 0x88) 256 256 (fun t bs => (TRec.of bs).kind = 2 && mayQueue t v 2)) = true
    ∧ [(HSt.full, 1), (.draining, 1), (.free, 0), (.filling, 0)].all (fun h =>
      meets (.enTbin ⟨0, 1, 0x8C, 0x8D, ⟨4, false, false, 0, 0x15⟩, 0⟩)
        (fun s => inCtx (fun c => { c with bins := [(1, { rowb := 16 })] }) (withHandle 4 { st := h.1, size := 1 } (bench1 s)))
        (fun s v => v.x.owns 0 0 && v.handleNo 4 = some 4 && ((s.ctx v.c).bin v.die 1).rowb ≠ 0 && mayQueue s v 5)) = true := by
  decide +kernel

/-- The buffer-handle instructions on a handle at or above HNDL and on handles in each state. -/
theorem witness_HandleResults :
    let x (c m : Nat) : TwoWord := ⟨0, 0, 0x84, 0, ⟨BitVec.ofNat 8 c, false, false, 0, BitVec.ofNat 7 m⟩, 0⟩
    let z (d c m : Nat) : TwoWord := ⟨0, BitVec.ofNat 7 d, 0, 0, ⟨BitVec.ofNat 8 c, false, false, 0, BitVec.ofNat 7 m⟩, 0⟩
    let g : TwoWord := ⟨0, 1, 0x84, 0, ⟨3, false, false, 0, 0⟩, 0⟩
    let st (h : HSt) (s : State) : State := withHandle 3 { st := h, size := 1 } (bench s)
    [Instr.enHbind (x 6 1), .enHwait (z 0 6 2), .enHstate (z 4 6 0), .enHrel (z 0 6 0), .enHsig ⟨0, 1, 0x84, 0, ⟨6, false, false, 0, 0⟩, 0⟩].all
      (fun i => meets i bench (fun _ v => v.handleNo 6 = none)) = true
    ∧ meets (.enHbind (x 3 1)) (st .full) (fun _ v => v.handleNo 3 = some 3) = true
    ∧ [0x1000, 0x1000 + 63, 64 * 0x1000].all (fun r => [0, 1].all (fun m => meets (.enHbind (x 3 m))
        (fun s => withS [(4, BitVec.ofNat 32 r)] (st .free s)) (fun _ v => v.handleNo 3 = some 3 && v.rangeOk (r % 4096) (r / 4096)))) = true
    ∧ meets (.enHwait (z 0 3 2)) (st .full) (fun _ v => v.handleNo 3 = some 3) = true
    ∧ meets (.enHwait (z 0 3 2)) (st .filling) (fun _ v => v.handleNo 3 = some 3) = true
    ∧ meets (.enHstate (z 6 3 0)) (st .draining) (fun _ v => v.handleNo 3 = some 3) = true
    ∧ [HSt.full, .filling, .draining].all (fun h => meets (.enHrel (z 0 3 0)) (st h) (fun _ v => v.handleNo 3 = some 3)) = true
    ∧ [0, 255, 256].all (fun n => meets (.enHsig g) (fun s => withS [(4, BitVec.ofNat 32 n)] (st .full s))
        (fun _ v => v.handleNo 3 = some 3 && (v.uni 0x84).toNat = n)) = true := by decide +kernel

/-- Codebook slots of this context, of another, and with a shadow; bin tables with good and bad words. -/
theorem witness_CodebookAndBinResults :
    let load : Instr := .enCbload ⟨0, 2, 0x8A, 0, ⟨0xB5, false, false, 0, 0⟩, 0⟩
    [none, some 0, some 1].all (fun o => meets load
      (fun s => ({ withS [(10, 0x1000)] (bench1 s) with books := [(5, { owner := o })] } : State))
      (fun s v => (s.book v.die 5).owner = o && reads v (v.at_ s) (v.pair 0x8A) 512 64 (fun _ bs => bs.length = 512))) = true
    ∧ isReady (.enCbstat ⟨0, 4, 0, 0, ⟨5, false, false, 0, 0⟩, 0⟩) = true
    ∧ [0, 0xFF, 0x100, 0x101, 0x102, 0x103].all (fun n => meets (.enBinrd ⟨0, 4, 0x84, 0, ⟨2, false, false, 0, 0⟩, 0⟩)
        (withS [(4, n)]) (fun _ v => v.uni 0x84 = n)
      && meets (.enBinset ⟨0, 1, 0x84, 0x88, ⟨3, false, false, 0, 0⟩, 0⟩) (withS [(4, n), (8, 32), (10, 5)])
        (fun s v => v.uni 0x84 = n && !s.binBusy v.die v.c 3)) = true
    ∧ meets (.enBinset ⟨0, 1, 0x84, 0x88, ⟨3, false, false, 0, 0⟩, 0⟩) (withS [(4, 0x101), (8, 8)])
        (fun _ v => (v.x.regs.getS 8).toNat % 16 ≠ 0) = true := by decide +kernel

/-- The placed group has eight tiles. -/
def tiled : State → State := inGroup (fun x => { x with tiles := 8 })

/-- The engine is free for the group. -/
def mayIssue (s : State) (v : Env) : Bool :=
  ((s.core v.x.core).holder = none || (s.core v.x.core).holder = some (.group v.g)) && (s.core v.x.core).waitingOps v.g < 4

/-- Tile instructions on tiles below ACC, the engine free, held by the group, and held by another; slices and drain exponents at
their bounds. -/
theorem witness_TileIssue :
    tileTable.all (fun p =>
      let w : TwoWord := ⟨0, 3, 0, 2, ⟨0, false, false, 0, 0⟩, 0⟩
      let w := if p.1 w = .enTzero w then { w with b := 0 } else w
      [none, some (Holder.group 1), some (.group 9)].all (fun h => meetsIf (p.2.1 w) (p.1 w)
        (fun s => inCore (fun c => { c with holder := h }) (tiled s)) (fun s v => mayIssue s v == (h != some (.group 9))))) = true
    ∧ [0, 26].all (fun a => meetsIf (fun v _ => decide (v.x.tiles ≤ 3)) (.enTset ⟨0, 8, 0x82, 3, ⟨5, false, false, 0, 1⟩, 0⟩)
        (fun s => withS [(2, BitVec.ofNat 32 a)] (tiled s)) (fun s v => mayIssue s v && sliceNo ⟨0, 8, 0x82, 3, ⟨5, false, false, 0, 1⟩, 0⟩ v ≤ 31)
      && meetsIf (fun v _ => decide (v.x.tiles ≤ 3)) (.enTget ⟨0, 8, 0x82, 3, ⟨5, false, false, 0, 1⟩, 0⟩)
        (fun s => withS [(2, BitVec.ofNat 32 a)] (tiled s)) (fun s v => mayIssue s v && sliceNo ⟨0, 8, 0x82, 3, ⟨5, false, false, 0, 1⟩, 0⟩ v ≤ 31)) = true
    ∧ [-128, -127, 127, 128].all (fun e => meetsIf (fun v _ => decide (v.x.tiles ≤ 2)) (.enSxsel ⟨0, 2, 0x81, 0, ⟨0, false, false, 0, 0⟩, 0⟩)
        (fun s => withS [(1, BitVec.ofInt 32 e)] (tiled s)) (fun _ v => (v.uni 0x81).toInt = e)) = true := by decide +kernel

/-- An operand map of E4M3 with scales, from the first byte of the scratchpad. -/
def map1 : OMap := { fmt := 12, t := false, sc := true, h := false, base := 0, stride := 64, lock := 0 }

/-- omap with reserved bits, with no free entry, and with one; mma with no map, and with one whose bytes the group owns; tdrain
within its region. -/
theorem witness_MatrixIssue :
    let omap : Instr := .enOmap ⟨0, 0x21, 0x86, 0x87, ⟨0, false, false, 0, 0x3C⟩, 0⟩
    let w : TwoWord := ⟨0, 0x23, 0x10, 0x85, ⟨0x28, false, false, 0, 0x12⟩, 0⟩
    let d : TwoWord := ⟨0, 0x29, 0x94, 0x96, ⟨0x23, false, false, 0, 0x1C⟩, 0⟩
    [(0x80000, 0), (0, 0x80000), (0x7FFFF, 0x7FFFF), (0, 0)].all (fun r => meets omap
      (fun s => withS [(6, BitVec.ofNat 32 r.1), (7, BitVec.ofNat 32 r.2)] (bench s))
      (fun s v => (v.uni 0x86).toNat = r.1 && (v.uni 0x87).toNat = r.2 && Tab.get none v.x.io.maps 1 = none
        && (s.core v.x.core).freeLocks.head? = some 0)) = true
    ∧ meets omap (fun s => inCore (fun c => { c with locks := (List.range 64).map (fun k => (k, some ⟨.sp, 0, 0, false, 9, []⟩)) }) (bench s))
        (fun s v => (s.core v.x.core).freeLocks = []) = true
    ∧ meets omap (fun s => inGroup (fun x => { x with io := { x.io with maps := [(1, some map1)] } }) (bench s))
        (fun _ v => (Tab.get none v.x.io.maps 1).map (·.lock) = some 0) = true
    ∧ isReady (.enOmapRel ⟨0, 0x40, 0, 0, ⟨1, false, false, 0, 0⟩, 0⟩) = true
    ∧ meetsIf (mmaIll w) (.enMma w) (fun s => tiled (inGroup (fun x => { x with io := { x.io with maps := [(1, some map1)] } }) (bench s)))
        (fun s v => mayIssue s v && Tab.get none v.x.io.maps 1 = some map1 && mmaPair .e5m2 .e4m3
          && (map1.offsets 0 0).all (fun o => v.x.owns o 1) && v.x.pendingOf [.v 0x28, .v 0x29] = []) = true
    ∧ meetsIf (mmaIll w) (.enMma w) tiled (fun s v => mayIssue s v && (Tab.get none v.x.io.maps 1).isNone) = true
    ∧ meetsIf (fun v _ => decide (v.x.tiles ≤ 3)) (.enTdrain d) (fun s => withS [(22, 32)] (tiled (bench s))) (fun s v => mayIssue s v
        && match (v.at_ s).acquire v.x.core v.g with
          | some u => passes v ((v.at_ s).setCore v.x.core u) { space := 1, n := 32, align := 1, write := true, locks := false, rows := true }
              ((List.range 32).map (fun (o : Nat) => ⟨o, o * 32⟩)) (fun t b => b ≠ []
                && ((t.core v.x.core).enterLocks [⟨.sp, 0, 31 * 32 + 32, true, t.sched.uid, []⟩]).isSome)
          | none => false) = true := by decide +kernel

/-- A network of one linear layer, from two inputs to one output (15_net R285 to R287). -/
def netMem : List (Nat × Byte) := [(0x1000, 0x41), (0x1018, 0x40), (0x101D, 0x0F)]

def net1 : NetRec := ⟨[0x41, 0, 0, 0, 0, 0, 0x40, 0xF00] ++ List.replicate 56 0, 0⟩

/-- neval on no network, with other register counts, waiting for its accesses, with no lane, and entering rows; nflush; actload with
a good and a bad record; nbind of nothing, of a good and of a bad record; nstat. -/
theorem witness_NetResults :
    let ev : Instr := .enNeval ⟨0, 0x14, 4, 1, ⟨7, false, false, 0, 0⟩, 0⟩
    let bound : State → State := inCtx (fun c => { c with net := [(7, some net1)] })
    let act : Instr := .enActload ⟨0, 1, 0x84, 0, ⟨3, false, false, 0, 0⟩, 0⟩
    let bind : Instr := .enNbind ⟨0, 1, 0x84, 0, ⟨7, false, false, 0, 0⟩, 0⟩
    let rec_ (m : List (Nat × Byte)) (s : State) : State := withS [(4, 0x1000)] (withMem m (bench1 s))
    meets ev id (fun s v => (Tab.get none (s.ctx v.c).net 7).isNone) = true
    ∧ meets ev bound (fun s v => Tab.get none (s.ctx v.c).net 7 = some net1 && net1.nout = 1 && net1.nin = 2 && v.act ≠ 0 && v.x.drained) = true
    ∧ meets ev (fun s => storing (bound s)) (fun _ v => v.act ≠ 0 && !v.x.drained) = true
    ∧ meets (.enNeval ⟨1, 0x14, 4, 1, ⟨7, false, false, 0, 0⟩, 0⟩) bound (fun _ v => v.act = 0) = true
    ∧ meets (.enNeval ⟨0, 0x14, 4, 2, ⟨7, false, false, 0, 0⟩, 0⟩) bound (fun s v => Tab.get none (s.ctx v.c).net 7 = some net1) = true
    ∧ isReady (.enNflush ⟨0, 0, 0, 0, ⟨0, false, false, 0, 0⟩, 0⟩) = true
    ∧ [[], [(0x1006, 0x80), (0x1007, (0x3F : Byte))]].all (fun m => meets act (rec_ m) (fun s v =>
        reads v (v.at_ s) (v.pair 0x84) 272 16 (fun _ bs => (ActBank.of bs).isSome == (m != [])))) = true
    ∧ meets bind id (fun _ v => v.pair 0x84 = 0) = true
    ∧ [[], netMem].all (fun m => meets bind (rec_ m) (fun s v => v.pair 0x84 ≠ 0
        && reads v (v.at_ s) (v.pair 0x84) 256 256 (fun _ bs =>
          (⟨wordsOf bs, (nth 0 (wordsOf bs) 28).toNat⟩ : NetRec).valid == (m != [])))) = true
    ∧ isReady (.enNstat ⟨0, 4, 0, 0, ⟨7, false, false, 0, 0⟩, 0⟩) = true := by decide +kernel

/-- A view record: a raster and a display of 32 by 32, one segment each way, to link tile stream 0 (16_view R306, R307). -/
def viewWords : List Word :=
  List.replicate 16 0 ++ [1, 0, 0, 0, 0, 0, 0, 0] ++ [1, 0, 0, 0, 0, 0, 0, 0] ++ [0x200020, 0x200020, 0x400, 1, 0, 128]
    ++ List.replicate 26 0

/-- The same in memory, behind the header of a set of one view. -/
def viewMem : List (Nat × Byte) :=
  [(0x1000, 1), (0x1080, 1), (0x10A0, 1), (0x10C0, 0x20), (0x10C2, 0x20), (0x10C4, 0x20), (0x10C6, 0x20), (0x10C9, 4), (0x10CC, 1), (0x10D4, 0x80)]

/-- View set 3 of the context in a state, with a frame 1 where it is not bound. -/
def withSet (st : VsSt) (s : State) : State :=
  let views := [ViewRec.of viewWords]
  { s with vsets := [(3, if st = .bound then { st := st, views := views }
      else { st := st, f := 1, views := views, cur := some ⟨1, 0, [{ vbrk := [] }]⟩ })] }

/-- A set that is not there; vset unbinding, binding and refused; vopen that may and may not open; gazeld; vclose with and without a
reconstruction launch. -/
theorem witness_ViewSetResults :
    let n : TwoWord := ⟨0, 1, 0x84, 0, ⟨0, false, false, 0, 3⟩, 0⟩
    let p : TwoWord := ⟨0, 1, 0x84, 0x85, ⟨2, false, false, 0, 3⟩, 0⟩
    let vset : Instr := .gxVset n
    let may : State → State := inCtx (fun c => { c with d := { c.d with classes := 8 } })
    [Instr.gxVopen ⟨0, 6, 0, 0, ⟨0, false, false, 0, 3⟩, 0⟩, .gxVamp p, .gxVclose n, .gxVcov ⟨0, 20, 12, 0x84, ⟨0, false, false, 0, 3⟩, 0⟩,
      .gxVrec p, .gxPresent p, .gxLensmap p, .gxRlaunch ⟨0, 1, 0x90, 0x91, ⟨0x92, false, false, 0, 3⟩, 0⟩].all (fun i =>
        meets i id (fun s _ => (s.vset 3).st = .unbound)) = true
    ∧ meets vset id (fun s v => !(s.ctx v.c).permits 0) = true
    ∧ meets vset (fun s => may (withSet .opened s)) (fun s v => (s.ctx v.c).permits 0 && (s.vset 3).st = .opened) = true
    ∧ meets vset (fun s => may (withSet .bound s)) (fun s v => (s.ctx v.c).permits 0 && (s.vset 3).ctx = v.c && v.pair 0x84 = 0) = true
    ∧ [viewMem, [(0x1000, 1)]].all (fun m => meets vset (fun s => may (withS [(4, 0x1000)] (withMem m (bench1 s))))
        (fun s v => (s.ctx v.c).permits 0 && (s.vset 3).st = .unbound && v.pair 0x84 ≠ 0
          && reads v (v.at_ s) 0x1000 64 64 (fun t b => ofBytes (b.take 1) = 1 && (b.drop 1).all (fun x => x = 0)
            && reads v t 0x1000 320 64 (fun u c =>
              let ws := (List.range 64).map (fun n => BitVec.ofNat 32 (ofBytes ((c.drop (64 + 4 * n)).take 4)))
              (viewRecOk ws && u.viewsOk v.c 3 [ViewRec.of ws]) == (m.length != 1))))) = true
    ∧ [VsSt.bound, .opened, .closed].all (fun st => meets (.gxVopen ⟨0, 6, 0, 0, ⟨0, false, false, 0, 3⟩, 0⟩) (withSet st)
        (fun s _ => (s.vset 3).mayOpen == (st != .opened))) = true
    ∧ [id, withSet .bound].all (fun f => meets (.gxGazeld ⟨0, 0, 0x82, 0x83, ⟨0, false, false, 0, 0⟩, 0⟩) f (fun _ _ => true)) = true
    ∧ [0, 0x1000].all (fun k => meets (.gxVclose n) (fun s => let t := withSet .opened s
          { t with vsets := t.vsets.map (fun e => (e.1, { e.2 with views := e.2.views.map (fun r => { r with rkdesc := k }) })) })
        (fun s v => (s.vset 3).st = .opened && !s.vampsOf v.x.core v.g 3 && v.x.drained && s.room v.c 0
          && ((s.vset 3).cur.map (fun f => (f.view 0).isOpen)) = some true
          && ((s.vset 3).views.map (·.rkdesc))[(v.uni 0x84).toNat]? = some k)) = true := by decide +kernel

/-- A record at a uniform scratchpad offset is read. -/
def readsSp (v : Env) (s : State) (off n : Nat) (p : List Byte → Bool) : Bool :=
  (v.busy false).isNone && passes v s { space := 1, n := n, align := 16, write := false, locks := false } (v.lanes.map (fun l => ⟨l, off⟩))
    (fun t bytes => match bytes with
      | [] => p (List.replicate n 0)
      | b :: _ => b.2.all (fun l => (t.readOwn v.g l).isSome) && p (b.2.map (fun l => (t.readOwn v.g l).getD 0)))

/-- vamp with a range that holds its tiles and one that does not; vrec, present and lensmap on the frame they name; rlaunch within and
beyond the pool. -/
theorem witness_ViewOperationIssue :
    let p : TwoWord := ⟨0, 1, 0x84, 0x85, ⟨2, false, false, 0, 3⟩, 0⟩
    let full (n : Nat) (s : State) : State := withSet .opened (withHandle 2 { st := .full, base := 0, size := n } (bench1 s))
    let named (v : Env) : Bool := v.handleNo 2 = some 2 && v.x.drained
    [63, 64].all (fun n => meets (.gxVamp p) (full n) (fun s v => named v && (s.vset 3).st = .opened && (v.uni 0x85) = 0
        && readsSp v (v.at_ s) 0 1536 meshOk && ((s.core 0).handle 2).size = n && (s.cluster 0).viewq.length < 16)) = true
    ∧ [Instr.gxVrec p, .gxPresent p].all (fun i => meets i (fun s => withS [(5, 0x10000)] (full 64 s)) (fun s v => named v
        && (s.vset 3).views.length = 1 && (v.uni 0x85).toNat / 2 ^ 16 = 1 && ((s.vset 3).cur.map (·.num)) = some 1)) = true
    ∧ [0, 0x10000].all (fun t => meets (.gxLensmap p) (fun s => withS [(5, t)] (full 32 s)) (fun s v => named v && v.uni 0x85 = t
        && (s.vset 3).views.length = 1)) = true
    ∧ [0, 3584, 3585].all (fun a => meets (.gxRlaunch ⟨0, 1, 0x90, 0x91, ⟨0x92, false, false, 0, 3⟩, 0⟩)
        (fun s => withS [(16, BitVec.ofNat 32 a)] (full 32 s)) (fun s v => (s.vset 3).views.length = 1 && (v.uni 0x90).toNat = a
          && v.uni 0x91 = 0 && readsSp v (v.at_ s) 0 80 (fun bs => (bs.drop 68).all (fun b => b = 0)))) = true := by decide +kernel

/-- vtile on the first quads of a tile and on the last one, behind which lanes have none; vcov inside and outside the raster. -/
theorem witness_TileSampleResults :
    let w : TwoWord := ⟨0, 12, 0x8A, 0, ⟨2, false, false, 0, 0⟩, 0⟩
    [0, 255].all (fun t => meets (.gxVtile w) (fun s => withS [(10, BitVec.ofNat 32 t)] (withHandle 2 { st := .full, base := 0, size := 64 } (bench s)))
        (fun s v =>
          let q (l : Nat) : Nat := t + l / 4
          let off (l : Nat) : Nat := 8 * (32 * (2 * (q l / 16) + l % 4 / 2) + 2 * (q l % 16) + l % 2)
          let real := v.lanes.filter (fun l => q l ≤ 255)
          v.handleNo 2 = some 2 && (v.busy false).isNone && real.all (fun l => off l + 8 ≤ 8192) && real ≠ []
            && passes v (v.at_ s) { space := 1, n := 8, align := 4, write := false } (real.map (fun l => ⟨l, off l⟩)) (fun u b =>
              b.all (fun e => e.2.all (fun l => (u.readOwn v.g l).isSome))))) = true
    ∧ meets (.gxVcov ⟨0, 20, 12, 0x84, ⟨0, false, false, 0, 3⟩, 0⟩) (fun s => inGroup (fun x => { x with
          regs := (x.regs.setV 12 1 0x1F001F).setV 12 2 0x20 }) (withSet .closed s))
        (fun s _ => ((s.vset 3).frame (s.vset 3).f).isSome && (s.vset 3).views.length = 1) = true := by decide +kernel

/-- Every lane of the placed group has ray 5 bound. -/
def bound : State → State := inGroup (fun x => x.mapLanes 0xFFFF (fun _ y => { y with ray := { index := some 5, words := List.replicate 16 0 } }))

/-- The ray instructions behind a ray read, and free: with rays of the pool, with bound rays, and with references of both kinds. -/
theorem witness_RayResults :
    let z (d a m : Nat) : TwoWord := ⟨0, BitVec.ofNat 7 d, BitVec.ofNat 8 a, 0, ⟨0, false, false, 0, BitVec.ofNat 7 m⟩, 0⟩
    let wait : State → State := inGroup (fun x => { x with io := { x.io with
      pend := [{ id := 9, regs := [.v 60], flag := none, pc := 0, lanes := 1, kind := .ray (.load 60 []) [] }] } })
    [Instr.gxRload (z 4 9 0), .gxRstore (z 0 9 2), .gxRbox (z 20 8 0), .gxRtri (z 2 8 0), .gxRspush (z 0 8 0), .gxRspop (z 30 0 0)].all
      (fun i => meets i wait (fun _ v => v.x.rayPending = [.v 60])) = true
    ∧ [0, 4095].all (fun n => meets (.gxRload (z 4 9 0)) (fun s => vecAll 9 n (bench1 s)) (fun s v => v.x.rayPending = []
        && (v.busy false).isNone && v.lanes.all (fun l => (v.read 9 .b32 l).toNat < v.x.ctl.rpcap)
        && passes v (v.at_ s) { space := 0, n := 64, align := 64, write := false }
          (v.lanes.map (fun l => ⟨l, addOff v.x.ctl.rpbase (64 * (v.read 9 .b32 l).toNat : Nat)⟩)) (fun _ b => !reachesFar b))) = true
    ∧ [(Instr.gxRbox (z 20 8 0), (0 : Word), 128, 128), (.gxRtri (z 2 8 0), 0x40000000, 48, 16)].all (fun c =>
        meets c.1 (fun s => bound (vecAll 8 c.2.1 (bench1 s))) (fun s v => v.x.rayPending = [] && (v.busy false).isNone
          && v.lanes.all (fun l => (v.x.lane l).ray.index.isSome && v.read 8 .b32 l = c.2.1)
          && passes v (v.at_ s) { space := 0, n := c.2.2.1, align := c.2.2.2, write := false }
            (v.lanes.map (fun l => ⟨l, v.x.ctl.bvhbase⟩)) (fun _ b => !reachesFar b))) = true
    ∧ meets (.gxRstore (z 0 9 2)) (fun s => bound (bench1 s)) (fun s v => v.x.rayPending = [] && (v.busy true).isNone
        && passes v (v.at_ s) { space := 0, n := 64, align := 64, write := true }
          (v.lanes.map (fun l => ⟨l, addOff v.x.ctl.rpbase 320⟩)) (fun _ b => b ≠ [])) = true
    ∧ [Instr.gxRspush (z 0 8 0), .gxRspop (z 30 0 0)].all isReady = true := by decide +kernel

/-- The box instructions; bpack with its checks passed. -/
theorem witness_BoxResults :
    [Instr.gxBunion ⟨0, 8, 2, 0, ⟨0, false, false, 0, 1⟩, 0⟩, .gxBsah ⟨0, 1, 2, 0, ⟨0, false, false, 0, 0⟩, 0⟩].all isReady = true
    ∧ meets (.gxBpack ⟨0, 0, 0x82, 2, ⟨7, false, false, 0, 0⟩, 0⟩) bench1 (fun s v => (v.busy true).isNone
        && passes v (v.at_ s) { space := 1, n := 128, align := 128, write := true } (v.lanes.map (fun l => ⟨l, 0⟩)) (fun _ b => b ≠ []))
      = true := by decide +kernel

/-- A launch record for a grid of one team, and one that is not well formed, in s16 to s31. -/
def goodRecord : List (Nat × Word) := [(16, 1), (17, 0x10001)]

/-- launch without and with permission, with a bad and a good record; qpost to this module, to one of the map, to others; treserve,
tspawn, tcommit and the event instructions at the bounds of their numbers. -/
theorem witness_QueueResults :
    let launch : Instr := .syLaunch ⟨0, 2, 0, 0x90, ⟨0, false, false, 0, 0⟩, 0⟩
    let qpost : Instr := .syQpost ⟨0, 2, 0x84, 0x90, ⟨0, false, false, 0, 0⟩, 0⟩
    let res : Instr := .syTreserve ⟨0, 3, 0x84, 0, ⟨0, false, false, 0, 0⟩, 0⟩
    let may : State → State := inCtx (fun c => { c with d := { c.d with classes := 8 } })
    meets launch id (fun s v => !(s.ctx v.c).permits (recClass (sixteen v 0x90))) = true
    ∧ [[], goodRecord].all (fun r => meets launch (fun s => may (withS r s)) (fun s v =>
        (s.ctx v.c).permits (recClass (sixteen v 0x90)) && recordOk (sixteen v 0x90) == (r != []) && v.x.drained && s.room v.c 0)) = true
    ∧ [(0, true), (1, true), (2, false), (0x1000, false)].all (fun m => meets qpost
        (fun s => withS ((4, BitVec.ofNat 32 m.1) :: goodRecord) (bench s)) (fun s v => (v.uni 0x84).toNat = m.1
          && ((m.1 ≤ 0xFFF && (m.1 = 0 || (s.ctx v.c).mapped m.1) && recordOk (sixteen v 0x90)) == m.2) && v.x.drained)) = true
    ∧ [(0, 1), (0, 2), (63, 0), (64, 0)].all (fun k => meets res (fun s => withS [(4, BitVec.ofNat 32 k.1)] (vecAll 0 (BitVec.ofNat 32 k.2)
          (inCtx (fun c => { c with tq := [(0, { st := .opened, cap := 16 })] }) s)))
        (fun s v =>
          let q := (s.ctx v.c).queue k.1
          (q.st = .opened && (v.lanes.map (fun l => (v.read 0 .b32 l).toNat)).sum ≤ q.free
            && v.lanes.all (fun l => (v.x.lane l).res = 0)) == (k = (0, 1)))) = true
    ∧ [0, 63, 64].all (fun k => meets (.syTspawn ⟨0, 3, 0x86, 0x14, ⟨0x85, false, false, 0, 0x10⟩, 0⟩) (withS [(5, BitVec.ofNat 32 k)])
        (fun _ v => (v.uni 0x85).toNat = k && v.x.drained && v.lanes.all (fun l => (v.read 0x86 .b32 l).toNat % 4 = 0))) = true
    ∧ [false, true].all (fun b => meets (.syTcommit ⟨0, 0, 0, 0, ⟨0, false, false, 0, 0⟩, 0⟩) (fun s => if b then
          storing (inGroup (fun x => x.mapLanes 1 (fun _ y => { y with committed := false, pending := [(0, 0)] })) s) else s)
        (fun _ v => v.publishWaits v.act == b)) = true
    ∧ [(255 : Word), 256].all (fun c => [Instr.syEvsig ⟨0, 0, 0x84, 0xC9, ⟨0, false, false, 0, 0⟩, 0⟩,
          .syEvwait ⟨0, 0, 0x84, 0x88, ⟨0, false, false, 0, 0⟩, 0⟩, .syEvread ⟨0, 4, 0x84, 0, ⟨0, false, false, 0, 0⟩, 0⟩].all
        (fun i => meets i (withS [(4, c)]) (fun s v => v.uni 0x84 = c && v.x.drained && s.counter v.c 255 - v.uni 0x88 = 0))) = true
    ∧ meets (.syEvwait ⟨0, 0, 0x84, 0x88, ⟨0, false, false, 0, 0⟩, 0⟩) (withS [(4, 255), (8, 1)])
        (fun s v => 2 ^ 31 ≤ (s.counter v.c 255 - v.uni 0x88).toNat) = true := by decide +kernel

/-- A kernel of one producer. -/
def withProd : State → State := inTeam (fun t => { t with kern := { t.kern with prod := 1 } })

/-- A second group of the team, behind the producers. -/
def withPeer (s : State) : State :=
  match s.group 1 with
  | some x => s.setGroup 2 { x with gid := 1, flow := {} }
  | none => s

/-- The barriers of a task group and of a kernel without producers; arrivals with every other group arrived and with one missing;
waits that are over and that are not; cluster barriers with a count of 0, 1 and 2. -/
theorem witness_BarrierResults :
    let w (n : Nat) : TwoWord := ⟨0, 0, 0, 0, ⟨BitVec.ofNat 8 n, false, false, 0, 0⟩, 0⟩
    let cl : Instr := .syBsyncCluster ⟨0, 0, 0x85, 0, ⟨0x42, false, false, 0, 0⟩, 0⟩
    let bar (b : GroupBar) : State → State := inGroup (fun x => { x with bar := b })
    [Instr.syBsync (w 3), cl, .syBarrive (w 0), .syBwait (w 0), .syRsync (w 0x81), .syRarrive (w 0x81), .syRwait (w 0x81)].all
      (fun i => meets i (inTeam (fun t => { t with taskq := some 0 })) (fun _ v => v.team.taskq.isSome)) = true
    ∧ [Instr.syRsync (w 0x81), .syRarrive (w 0x81), .syRwait (w 0x81)].all (fun i => meets i id (fun _ v => v.team.kern.prod = 0)) = true
    ∧ [id, withPeer].all (fun f => [Instr.syBsync (w 3), .syBarrive (w 3)].all (fun i => meets i f (fun _ v => v.team.taskq.isNone
        && v.x.bar.arrival .team 3 = v.team.bar.count .team 3 && v.x.drained && (v.x.mark? v.cl.own).isNone))) = true
    ∧ [0, 1].all (fun n => meets (.syBwait (w 3)) (bar { arr := [(3, n)] }) (fun _ v =>
        reached (v.team.bar.count .team 3) (v.x.bar.arrival .team 3) == (n == 0))) = true
    ∧ meets (.syBsync (w 3)) (bar { arrived := [(4, 0)] }) (fun _ v => (v.x.mark? v.cl.own).isSome
        && reached (v.team.bar.count .team 3) (v.x.bar.arrival .team 3)) = true
    ∧ [0, 1].all (fun n => [Instr.syRsync (w 0x81), .syRarrive (w 0x81), .syRwait (w 0x81)].all (fun i =>
        meets i (fun s => withPeer (withProd (bar { we := [(1, n)] } s))) (fun s v => v.team.kern.prod ≠ 0
          && v.x.bar.arrival .full 1 = v.team.bar.count .full 1 && v.x.drained && (v.x.mark? v.cl.own).isNone
          && (s.sideOpen v.x.team v.team .empty || reached (v.team.bar.count .empty 1) (waits v v.x.bar 1 + 1)) == (n == 0)))) = true
    ∧ meets (.syRsync (w 0x81)) (fun s => withProd (bar { arrived := [(4, 0)] } s)) (fun s v => (v.x.mark? v.cl.own).isSome
        && s.sideOpen v.x.team v.team .empty) = true
    ∧ [(0 : Word), 1, 2, 256, 257].all (fun n => meets cl (withS [(5, n)]) (fun s v => v.uni 0x85 = n && (v.x.mark? v.cl.own).isNone
        && v.x.drained && ((s.cluster 0).bar 2).n = 0)) = true
    ∧ meets cl (bar { arrived := [(4, clusterMark 5 2)] }) (fun s v => v.x.mark? v.cl.own = some (clusterMark 5 2)
        && ((s.cluster 0).bar 2).p ≠ 5) = true := by decide +kernel

/-- The allocation instructions: vgrow by nothing, beyond 128 registers, at once and behind another; vshrink at its bound and with a
pending register. -/
theorem witness_AllocationResults :
    let grow : Instr := .syVgrow ⟨0, 1, 0x84, 0, ⟨0, false, false, 0, 0⟩, 0⟩
    let shrink : Instr := .syVshrink ⟨0, 2, 0x83, 0, ⟨0, false, false, 0, 0⟩, 0⟩
    let small : State → State := inGroup (fun x => { x with alloc := 8, grans := [0] })
    [0, 15, 16].all (fun n => [false, true].all (fun b => meets grow (fun s => withS [(4, BitVec.ofNat 32 n)]
        (small (if b then inCore (fun c => { c with vgrowq := [(1, 1)] }) s else s)))
      (fun s v => (v.uni 0x84).toNat = n && v.x.alloc = 8 && n ≤ s.freeCap v.x.core v.x.w
        && (s.core 0).vgrowq.all (fun r => !s.growFits 0 r) == !b))) = true
    ∧ [15, 16].all (fun n => meets shrink (withS [(3, BitVec.ofNat 32 n)]) (fun _ v => (v.uni 0x83).toNat = n && v.x.alloc = 128
        && v.x.pendingOf (regRun .v (128 - 8 * n) (8 * n)) = [])) = true
    ∧ meets shrink (fun s => withS [(3, 1)] (inGroup (fun x => { x with io := { x.io with
          pend := [{ id := 9, regs := [.v 127], flag := none, pc := 0, lanes := 1, kind := .load }] } }) s))
        (fun _ v => v.x.pendingOf (regRun .v 120 8) = [.v 127]) = true
    ∧ [Instr.syVquery ⟨0, 9, 0, 0, ⟨0, false, false, 0, 0⟩, 0⟩, .syVzero ⟨0, 40, 0, 0, ⟨0, false, false, 0, 7⟩, 0⟩].all isReady = true := by
  decide +kernel

/-- csrr of every register of the table in both forms, behind and without tile operations; the writes of each kind; trap and brk
with and without lanes. -/
theorem witness_ControlRegisterResults :
    let w (n m : Nat) : TwoWord := ⟨0, 4, 0, 0, ⟨BitVec.ofNat 8 n, false, false, 0, BitVec.ofNat 7 m⟩, 0⟩
    let a (n : Nat) : TwoWord := ⟨0, 0, 0x82, 0, ⟨BitVec.ofNat 8 n, false, false, 0, 0⟩, 0⟩
    csrTable.all (fun p => [0, 1].all (fun m => (p.1 = 0 && m = 1)
      || meets (.syCsrr (w p.1 m)) id (fun s _ => (s.core 0).tileq = []))) = true
    ∧ meets (.syCsrr (w 0x11 1)) (inCore (fun c => { c with
        tileq := [{ uid := 9, group := 1, fm := {}, lanes := 1, pc := 0, cbase := 0, work := .zero 0 }] }))
        (fun s _ => (s.core 0).tileq.any (fun o => o.group = 1)) = true
    ∧ (([0, 9, 0x28, 0x2E, 0x43, 0x11, 0x0A] : List Nat) ++ writeTable.map (fun p => p.1)).all (fun n => writers.all (fun q => isReady (q.1 (a n)))) = true
    ∧ isReady (.syCsrw (a 0x42)) = true
    ∧ [Instr.syTrap ⟨0, 0, 0, 0, ⟨5, false, false, 0, 0⟩, 0⟩, .syBrk ⟨0, 0, 0, 0, ⟨255, false, false, 0, 0⟩, 0⟩].all
        (fun i => meets i id (fun _ v => v.act ≠ 0)) = true
    ∧ [Instr.syTrap ⟨1, 0, 0, 0, ⟨5, false, false, 0, 0⟩, 0⟩, .syBrk ⟨1, 0, 0, 0, ⟨255, false, false, 0, 0⟩, 0⟩].all
        (fun i => meets i id (fun _ v => v.act = 0)) = true := by decide +kernel

/-- tret outside the handler and inside it, with a frame whose lane goes on and one whose lane exits; ctxsave in and out of
Running. -/
theorem witness_TrapReturnResults :
    let tret : Instr := .syTret ⟨0, 0, 0, 0, ⟨0, false, false, 0, 1⟩, 0⟩
    let save : Instr := .syCtxsave ⟨0, 0, 0, 0, ⟨0, false, false, 0, 0⟩, 0⟩
    meets tret id (fun _ v => v.x.ctl.tdepth = 0) = true
    ∧ [0, 1, 2, 3].all (fun st => meets tret (fun s => withMem (if st = 0 then [] else [(0x200240, BitVec.ofNat 8 st)])
          (inGroup (fun x => { x with ctl := { x.ctl with tdepth := 1 } }) (bench1 s)))
        (fun s v => v.x.ctl.tdepth ≠ 0 && reads v (v.at_ s) (v.x.ctl.tfbase % 2 ^ 52) 1024 1024 (fun _ fr =>
          !v.publishWaits (v.x.goneBy fr) && ofBytes ((fr.drop 0x240).take 1) = st))) = true
    ∧ meets save id (fun s v => (s.ctx v.c).st = .running) = true
    ∧ meets save (inCtx (fun c => { c with st := .draining })) (fun s v => (s.ctx v.c).st ≠ .running) = true := by decide +kernel

/-- The message instructions without MSG; msend and mcast with room, without room in both forms, and to a die outside the partition;
mrecv first in line with a flit, and with none. -/
theorem witness_MessageResults :
    let send (m : Nat) : Instr := .syMsend ⟨0, 2, 0x85, 0x90, ⟨0, false, false, 0, BitVec.ofNat 7 m⟩, 0⟩
    let cast : Instr := .syMcast ⟨0, 1, 0x84, 0x90, ⟨0x86, false, false, 0, 1⟩, 0⟩
    let recv : Instr := .syMrecv ⟨0, 32, 0, 0, ⟨0, false, false, 0, 0⟩, 0⟩
    let probe : Instr := .syMprobe ⟨0, 7, 0, 0, ⟨0, false, false, 0, 0⟩, 0⟩
    let may (n : Nat) (s : State) : State := inTeam (fun t => { t with kern := { t.kern with msg := true } })
      { s with clusters := if n = 0 then [] else [(0, { flits := List.replicate n [] })] }
    [send 0, cast, recv, probe].all (fun i => meets i id (fun _ v => !v.team.kern.msg)) = true
    ∧ [(0, true), (63, true), (64, false)].all (fun n => [0, 1].all (fun m => meets (send m) (may n.1) (fun s v => v.team.kern.msg
        && (s.ctx v.c).hasDie 0 && v.x.drained && decide (0 < s.msgRoom v.c 0) == n.2))) = true
    ∧ meets (send 0) (fun s => withS [(5, 80)] (may 0 s)) (fun s v => !(s.ctx v.c).hasDie ((v.uni 0x85).toNat / 80)) = true
    ∧ [(0, 0), (0, 1), (64, 1)].all (fun n => meets cast (fun s => withS [(6, BitVec.ofNat 32 n.2)] (may n.1 s)) (fun s v => v.team.kern.msg
        && (v.pair 0x86) = n.2 && v.x.drained && decide (s.msgRoom v.c 0 = 0) == (n.1 == 64))) = true
    ∧ meets cast (fun s => withS [(4, 80), (6, 1)] (may 0 s)) (fun s v => !(s.ctx v.c).hasDie ((v.uni 0x84).toNat / 80)) = true
    ∧ [0, 1].all (fun n => meets recv (may n) (fun s v => v.team.kern.msg && (s.cluster 0).mrecvq = [] && (s.cluster 0).flits.length = n)) = true
    ∧ meets probe (may 1) (fun _ v => v.team.kern.msg) = true := by decide +kernel

/-- The module just after its reset sequence. -/
def booted : State := { State.reset with pwr := { ready := true, st := 0, aclk := 12 }, keyFull := [(0, true)] }

/-- Context slot 0 in a state. -/
def inState (st : CtxSt) (s : State) : State := inCtx (fun c => { c with st := st }) s

/-- A page table that maps 16 GB from address 0, writable (06_page R128, R129), for context 0 with its root at 0x10000. -/
def mapped (s : State) : State :=
  inCtx (fun c => { c with d := { c.d with root := 16 } })
    { s with
      mem := s.mem ++ [(0x10000, 1), (0x10001, 0x10), (0x10002, 1), (0x11000, 0x67), (0x11001, 1)]
      keyFull := [(0, true)] }

/-- A context slot in each state, with BUSY 0 and 1; a descriptor that fails its checks and one that passes them. -/
theorem witness_ContextCommandResults :
    let slot (st : CtxSt) (b : Bool) : State := inCtx (fun c => { c with st := st, busy := b }) booted
    [CtxSt.retired, .built, .resident, .running, .draining, .saved, .faulted].all (fun st => [false, true].all (fun b =>
      (slot st b).pwr.ready && (slot st b).wakeModule = slot st b && ((slot st b).ctx 0).st = st && ((slot st b).ctx 0).busy == b)) = true
    ∧ State.reset.pwr.ready = false
    ∧ [CtxSt.built, .saved].all (fun st => ((slot st false).readDesc 0).isNone) = true := by decide +kernel

set_option maxRecDepth 1000000 in
/-- The same of a descriptor that is good: it permits every class and grants nothing (07_context R139, R141). -/
theorem witness_ContextInstalled :
    let s : State := { inState .built booted with mem := [(5, 0x78)], tlb := leaves [leaf0] }
    (s.readDesc 0).isSome = true := by decide +kernel

/-- The placed group between two clauses, its lanes at address 0. -/
def between (s : State) : State :=
  inGroup (fun x => { x.mapLanes 0xFFFF (fun _ y => { y with cb := 0xFFFFFFFF }) with flow := {} }) s

/-- A group parked for a walk that finds a leaf, and one that finds none; fault slots in each state, with one group and with none. -/
theorem witness_PageFaultResults :
    let walks (s : State) : State := inGroup (fun x => { x with flow := { x.flow with park := some (.walk 0x1000 false false) } }) s
    let s := walks (mapped (placed (.cfNop ⟨0, 0⟩)))
    let t := walks (placed (.cfNop ⟨0, 0⟩))
    let slot (st : FaultSt) (ps : List Party) : State := { booted with faults := [(0, { st := st, parties := ps })] }
    let held : State := inGroup (fun x => { x with flow := { x.flow with park := some (.fault 0 0) } })
      { placed (.cfNop ⟨0, 0⟩) with pwr := booted.pwr, faults := [(0, { st := .posted, parties := [.group 1] })] }
    (match s.walk 0 0 0x1000 with
      | .leaf _ => true
      | .fault .. | .link => false) = true
    ∧ (match t.walk 0 0 0x1000 with
      | .fault .. => true
      | .leaf _ | .link => false) = true
    ∧ (t.fault 0 255).st = .free
    ∧ [(FaultSt.free, []), (.posted, []), (.replaying, []), (.posted, [Party.group 1])].all (fun p =>
      (slot p.1 p.2).pwr.ready && ((slot p.1 p.2).fault 0 0).st = p.1 && ((slot p.1 p.2).fault 0 0).parties = p.2 && (slot p.1 p.2).slotless = []) = true
    ∧ held.pwr.ready = true ∧ ((held.group 1).map (fun x => (x.flow.park, x.flow.clause.isSome))) = some (some (.fault 0 0), true)
    := by decide +kernel

/-- A Draining context whose teams have all stopped, with and without RETIRE and a fatal trap; an invalidation that starts, one that
is refused, and one that no access holds up. -/
theorem witness_DrainingAndInvalidationResults :
    let drains (r f b : Bool) : State := inCtx (fun c => { c with st := .draining, retire := r, fatal := f, busy := b }) booted
    [false, true].all (fun r => [false, true].all (fun f => [false, true].all (fun b => ((drains r f b).ctx 0).st = .draining
      && (drains r f b).teams = []))) = true
    ∧ [false, true].all (fun b =>
      let s : State := { booted with pginv := { busy := b } }
      s.pwr.ready && s.pginv.busy == b && s.groups = [] && !s.usesNamed) = true := by decide +kernel

/-- Counters of a live and of another context; appends to a queue that is not mapped, full, and with room; a reply to a qpost; a
record at the head of an entry queue, bad, of a class without permission, and good. -/
theorem witness_EntryQueueResults :
    let live (m : List (Nat × Byte)) (s : State) : State :=
      inCtx (fun c => { c with st := .running, d := { c.d with entryq := 0x2000, classes := 8 } })
        { s with mem := m, tlb := leaves [leaf0], pwr := booted.pwr }
    let header (s : State) (cap tail head : Nat) : Bool := match s.virt 0 0x2000 64 true with
      | (t, some h) => ofBytes ((t.readLocs h).take 1) % 32 = cap && ofBytes (((t.readLocs h).drop 8).take 4) = tail
          && ofBytes (((t.readLocs h).drop 12).take 4) = head && (t.virt 0 (slotAddr s 0 cap tail) 64 true).2.isSome
      | _ => false
    let cap : Nat × Byte := (0x2000, 4)
    let asked : State := inGroup (fun x => { x with io := { x.io with
      pend := [{ id := 9, regs := [.q 2], flag := none, pc := 0, lanes := 1, kind := .qpost 2 1 }] } }) (placed (.cfNop ⟨0, 0⟩))
    [CtxSt.retired, .built, .faulted, .running].all (fun st => (inState st booted).pwr.ready && ((inState st booted).ctx 0).st = st) = true
    ∧ ((inState .running booted).virt 0 0 64 true).2 = none
    ∧ header (live [] State.reset) 0 0 0 = true
    ∧ header (live [cap] State.reset) 4 0 0 = true
    ∧ header (live [cap, (0x2008, 16)] State.reset) 4 16 0 = true
    ∧ (asked.group 1).map (fun x => (x.io.pend.find? (fun p => p.id = 9)).isSome) = some true
    ∧ [[], [(0x2040, (1 : Byte)), (0x2044, 1), (0x2046, 1)], [(0x2040, 1), (0x2044, 1), (0x2046, 1), (0x2058, 0x40)]].all (fun r =>
      let s := live ([cap, (0x2008, 1)] ++ r) State.reset
      (match s.virt 0 (slotAddr s 0 4 0) 64 false with
        | (t, some sl) => (recordOk (wordsOf (t.readLocs sl)), (t.ctx 0).permits (recClass (wordsOf (t.readLocs sl))))
        | _ => (false, false)) == (r != [], r.length != 4)) = true := by decide +kernel

/-- A kernel descriptor at 0x1000 that every check of R182 accepts, and records that launch it, open a queue with it and close one. -/
def kernMem : List (Nat × Byte) := [(0x1005, 2), (0x1007, 1), (0x100D, 2), (0x100E, 1), (0x101E, 1)]
def launchRec : RecordWords := [1, 0x10001, 0x1000] ++ List.replicate 13 0
def openRec : RecordWords := [16, 0, 0x1000, 0, 0, 0, 0x100] ++ List.replicate 9 0
def closeRec : RecordWords := [0, 0, 0, 0, 0, 0, 0x200] ++ List.replicate 9 0

/-- A Running context with one such record, its waits met, and queue 0 in a state. -/
def recorded (m : List (Nat × Byte)) (q : TqSt) (r : RecordWords) : State :=
  { inCtx (fun c => { c with st := .running, tq := [(0, { st := q })] }) (mapped { booted with mem := m }) with
    tlb := leaves [leaf0], records := [(7, { ctx := 0, words := r, age := 7, met0 := true, met1 := true })] }

/-- The kernel of a record is read and passes its checks. -/
def readsKernel (t : State) (n : Nat) (task : Bool) : Bool :=
  match t.readKernel 0 0x1000 n task with
  | (_, .inr _) => true
  | (_, .inl _) => false

/-- A queue with one Queued task whose gather wait is 100. -/
def gathering (now : Nat) : State :=
  { inCtx (fun c => { c with tq := [(0, { st := .opened, cap := 16, gy := 100, slots := [(0, some { st := .queued })] })] }) booted with
    sched := { now := now } }

/-- A launch, an open and a close record, each with its waits met: a kernel that fails its checks and one that passes them, queues in
the states that the records meet, a backing that is mapped and one that is not. -/
theorem witness_RecordResults :
    [(kernMem, true), ([], false)].all (fun c => readsKernel (recorded c.1 .closed launchRec) 0 false == c.2
      && readsKernel (recorded c.1 .closed openRec) 1 true == c.2) = true
    ∧ [recorded kernMem .closed openRec, State.reset].map (fun s => s.backingOk 0 0 2048) = [true, false]
    ∧ [launchRec, openRec, closeRec].map recKind = [0, 1, 2] := by decide +kernel

/-- Their record and their queue; a Closing queue with no slot in use; a gather wait before and after its time. -/
theorem witness_QueueStates :
    [TqSt.closed, .opened, .closing].all (fun q => (recorded kernMem q closeRec).records.any (fun e => e.1 = 7 && e.2.st = .waiting && e.2.met0)
        && (((recorded kernMem q closeRec).ctx 0).queue 0).st = q && (((recorded kernMem q closeRec).ctx 0).queue 0).slots.isEmpty) = true
    ∧ [0, 99, 100].all (fun n => (((gathering n).ctx 0).queue 0).queuedRecs.map (fun e => e.2.since) == [0]
        && !(((gathering n).ctx 0).queue 0).expired && (gathering n).sched.now == n) = true := by decide +kernel

/-- A Ready grid of one team of a context, in a class. -/
def readyGrid (cls age : Nat) (k : Kernel) : Record :=
  { ctx := 0, words := [1, 0x10001, 0, 0, 0, 0, BitVec.ofNat 32 (64 * cls)] ++ List.replicate 9 0, age := age, st := .ready, kern := some k }

/-- A Running context with Ready grids. -/
def gridded (rs : List (Nat × Record)) : State := inState .running { booted with records := rs }

/-- A display grid, and a team of another context on every cluster of the partition. -/
def crowded : State :=
  { gridded [(7, readyGrid 0 9 {})] with
    teams := (List.range 80).map (fun n => (n, { ctx := 1, record := none, kern := {}, cluster := n }))
    groups := (List.range 80).map (fun n => (n, { team := n, gid := 0, core := 4 * n, slot := 0, w := 16, alloc := 8, grans := [0], lanes := [] })) }

/-- Ready grids: none, one that fits, one that does not before one that does; a display grid that fits only where a placed team
gives way; a Running context. -/
theorem witness_PlacementResults :
    (gridded []).candidates.length = 0 ∧ (gridded []).withdrawLeaving.isNone = true
    ∧ (gridded [(7, readyGrid 2 7 {})]).candidates.map (fun c => ((gridded [(7, readyGrid 2 7 {})]).place c).isSome) = [true]
    ∧ (gridded [(7, readyGrid 1 7 { hndl := 65 }), (8, readyGrid 2 8 {})]).candidates.map (fun c =>
        ((gridded [(7, readyGrid 1 7 { hndl := 65 }), (8, readyGrid 2 8 {})]).place c).isSome) = [false, true]
    ∧ [false, true].map (fun b =>
        let s := gridded [(7, { readyGrid 1 7 { hndl := 65 } with blocks := b }), (8, readyGrid 1 8 {})]
        s.candidates.map (fun c => ((s.place c).isSome, c.blocks, c.cls))) =
          [[(false, false, 1), (true, false, 1)], [(false, true, 1), (true, false, 1)]]
    ∧ crowded.candidates.map (fun c => (c.cls, crowded.fits [] c, (crowded.displayVictims c).isSome)) = [(0, false, true)]
    ∧ crowded.candidates.all (fun c => c.ctx = 0 && crowded.fits (crowded.teams.map (·.1)) c) = true ∧ crowded.quantumVictims 1 ≠ []
    ∧ ((gridded []).ctx 0).st = .running := by decide +kernel

/-- A group that has ended with nothing in flight, alone in its team and with another group; a team that is Ending with its work done;
a vgrow that fits, and one for which nothing is left. -/
theorem witness_EndAndGrowthResults :
    let ended (s : State) : State := inGroup (fun x => { x with flow := { ended := true } }) s
    let s := ended (placed (.cfNop ⟨0, 0⟩))
    let ending : State := { booted with teams := [(5, { ctx := 0, record := some 7, kern := {}, cluster := 0, st := .ending })],
                                        records := [(7, { ctx := 0, words := [1, 0x10001] ++ List.replicate 14 0, age := 7 })] }
    let asks (n m : Nat) : State := inCore (fun c => { c with vgrowq := [(1, n)] })
      (inGroup (fun x => { x with alloc := 8, grans := List.replicate m 0 }) (placed (.syVgrow ⟨0, 1, 0x84, 0, ⟨0, false, false, 0, 0⟩, 0⟩)))
    [s, withPeer s].all (fun t => (t.group 1).any (fun x => x.on && x.flow.ended && x.quiet && (t.team x.team).isSome)) = true
    ∧ (ending.team 5).any (fun t => t.st = .ending) = true ∧ ending.workDone 5 = true
    ∧ (((asks 1 1).core 0).vgrowq.find? ((asks 1 1).growFits 0)) = some (1, 1)
    ∧ ((asks 2000 1).core 0).vgrowq.all (fun r => !(asks 2000 1).growFits 0 r) = true
    ∧ ((asks 2000 1).core 0).vgrowq.getLast? = some (1, 2000) := by decide +kernel

/-- The placed group at a clause boundary: with no translation for its header, with headers that break a rule, that wait for a flag,
and that open a clause. -/
theorem witness_ClauseIssue :
    let s (m : List (Nat × Byte)) : State := between { placed (.cfNop ⟨0, 0⟩) with mem := m, tlb := leaves [leaf0] }
    let t : State := between (placed (.cfNop ⟨0, 0⟩))
    -- COUNT 1, class 0, SET0 and SET1 15: bits 31:28, 27:25, 12:9, 8:5
    let hdr : List (Nat × Byte) := [(0, 0xE0), (1, 0x1F), (3, 0x10)]
    let at1 (s : State) (p : State → Group → Pick → Bool) : Bool := (s.group 1).any (fun x => (s.preview x).any (fun k => p s x k))
    at1 t (fun s x k => !k.inside && x.mayOpen && x.flow.abort.isNone && match s.fetchWord (.core 0) 0 k.pc with
      | .walk _ => true
      | _ => false) = true
    ∧ [([], false), (hdr, true)].all (fun c => at1 (s c.1) (fun s x k => !k.inside && x.mayOpen && match s.fetchWord (.core 0) 0 k.pc with
      | .ok u h => hdrOk h == c.2 && (x.waitMet h || !c.2) && match u.fetchWords (.core 0) 0 (k.pc + 4) (hdrCount h) [] with
        | (_, .inl ws) => !c.2 || structOk ws.length ws
        | _ => false
      | _ => false)) = true
    ∧ at1 (inGroup (fun x => { x with regs := { x.regs with f := [(0, 1)] } }) (s [(0, 0xE0), (1, 0x3F), (3, 0x10)])) (fun s x k =>
        match s.fetchWord (.core 0) 0 k.pc with
        | .ok _ h => hdrOk h && !x.waitMet h
        | _ => false) = true := by decide +kernel

/-- A group at a clause boundary whose lane 0 has been passed over as often as its team's bound. -/
def tense : State :=
  between (inTeam (fun t => { t with kern := { t.kern with tension := 8 } })
    (inGroup (fun x => x.mapLanes 1 (fun _ y => { y with bypass := 8 })) (placed (.cfNop ⟨0, 0⟩))))

/-- A watchdog of 1,024 ticks at a time. -/
def watched (n : Nat) (f : State → State) : State :=
  inCtx (fun c => { c with d := { c.d with watch := 1 } }) (f { placed (.cfNop ⟨0, 0⟩) with sched := { now := n } })

/-- A park of each kind whose cause holds and has cleared; a tension round that is due; a group passed over 1,024 times; %wdog below
and at WATCH, with an open clause and without. -/
theorem witness_GroupIssueResults :
    let parked (p : Park) (f : Group → Group) : State := inGroup (fun x => f { x with flow := { x.flow with park := some p } })
      (placed (.cfNop ⟨0, 0⟩))
    let waits (p : Park) (f : Group → Group) (q : State → Group → Bool) : Bool :=
      ((parked p f).group 1).any (fun x => x.on && !x.flow.stop && x.io.rows = [] && x.flow.park = some p && q (parked p f) x)
    [62, 63].all (fun n => waits (.flag 3) (fun x => { x with regs := { x.regs with f := [(3, n)] } }) (fun _ x => x.regs.getF 3 = n)) = true
    ∧ [31, 32].all (fun n => waits .storeFull (fun x => { x with io := { x.io with sq := List.replicate n queuedStore } })
        (fun _ x => x.io.sq.length = n)) = true
    ∧ [0, 1].all (fun n => waits .drain (fun x => { x with io := { x.io with sq := List.replicate n queuedStore } })
        (fun _ x => x.drained == (n == 0))) = true
    ∧ waits (.absent [(0, 5)]) id (fun s _ => !s.present 0 5) = true
    ∧ [0, 1].all (fun n => waits (.handle 3 n) id (fun s _ => (((s.core 0).handle 3).st.code = n) == (n == 0))) = true
    ∧ [4, 5].all (fun n => waits (.reg [.v 4]) (fun x => { x with io := { x.io with
          pend := [{ id := 9, regs := [.v n], flag := none, pc := 0, lanes := 1, kind := .load }] } })
        (fun _ x => x.flow.clause.isSome && (x.pendingOf [.v 4] = []) == (n == 5))) = true
    ∧ [0, 1].all (fun n => waits (.event 7 n) id (fun s _ => decide (s.counter 0 7 - n < 0x80000000) == (n == 0))) = true
    ∧ (tense.group 1).any (fun x => x.mayOpen && x.flow.round = 0 && x.maskWhere (fun l => l.st = .ready && decide (8 ≤ l.bypass)) = 1) = true
    ∧ (inGroup (fun x => { x with flow := { x.flow with passed := [(0, 1024)] } }) (placed (.cfNop ⟨0, 0⟩))).groups.any
        (fun e => e.2.on && Tab.get 0 e.2.flow.passed 0 = 1024 && !(e.2.flow.ahead.contains 0)) = true
    ∧ [1023, 1024].all (fun n => [between, id].all (fun f =>
      ((watched n f).group 1).any (fun x => x.wdog (watched n f).sched.now = n && x.flow.park.isNone && ((watched n f).preview x).isSome))) = true := by decide +kernel

/-- The placed group with one operation in flight, which holds flag 0, and with queued stores. -/
def flying (k : PendKind) (q : List SqEnt) : State :=
  inGroup (fun x => { x with io := { x.io with
      pend := [{ id := 9, regs := [.v 4], vals := [(.v 4, 0, 7)], flag := some 0, pc := 0, lanes := 1, kind := k }], sq := q } })
    (placed (.cfNop ⟨0, 0⟩))

/-- The operation of `flying` is in flight, as a kind. -/
def inFlight (k : PendKind) : Bool :=
  ((flying k []).group 1).any (fun x => (x.io.pend.find? (fun q => q.id = 9)).any (fun p => p.kind = k))

/-- Two lanes at one word of memory. -/
def twoLanes : List AtomLane := [⟨0, .mem 0x1000 0, 5, 0⟩, ⟨1, .mem 0x1000 0, 6, 0⟩]

/-- A load, a load of another module and a ray read in flight; a release behind a load; a store, a store to another module and an
atomic at the head of the queue. -/
theorem witness_AccessPerformedResults :
    [PendKind.load, .far [⟨.v 4, 0, .b32, none⟩], .ray (.load 4 [(0, 5)]) [some (List.replicate 16 0)], .pref].all inFlight = true
    ∧ [{ queuedStore with rel := true }, { queuedStore with work := .store [(.mem 0x1000 0, 7)] },
        { queuedStore with work := .store [(.far 7 3 0 0x1000, 7)], far := true },
        { queuedStore with work := .atomic .add .i32 twoLanes (some 4) }].all (fun e => [PendKind.load, .engine 3].all (fun k =>
          ((flying k [e]).group 1).any (fun x => x.io.sq = [e] && x.io.pend.map (fun p => p.kind) = [k]))) = true
    ∧ (twoLanes.map (fun a => a.lane)).Nodup ∧ twoLanes.all (fun a => a.loc = .mem 0x1000 0) = true := by decide +kernel

/-- The three ray reads of lane 0, whose ray slot holds 16 words; triangles that the ray meets and misses. -/
theorem witness_RayReturnResults :
    [RayWork.load 4 [(0, 5)], .box 4 [(0, 0)], .tri 1 [(0, 0)], .tri 0 [(0, 0)]].all (fun w =>
      inFlight (.ray w [some (List.replicate 16 0)])) = true
    ∧ ((bound (flying .load [])).group 1).any (fun x => x.lanes.length = 16 && (x.lane 0).ray.words.length = 16) = true
    ∧ triTest {} (List.replicate 16 0) (List.replicate 32 0) = none
    -- from the origin along +z, 0 to 10; the triangle (-1, -1, 1), (1, -1, 1), (0, 1, 1): t = 1, u = 1/4, v = 1/2
    ∧ (triTest {} [0, 0, 0, 0, 0, 0x3F800000, 0, 0x41200000, 0xFF, 0, 0, 0, 0, 0, 0, 0]
        ([0xBF800000, 0xBF800000, 0x3F800000, 0x3F800000, 0xBF800000, 0x3F800000, 0, 0x3F800000, 0x3F800000]
          ++ [7, 0xFF] ++ List.replicate 21 0)) = some (0x3F800000, 7, 0x38003400) := by decide +kernel

/-- A raw f32 copy of elements from memory at 0x1000 to the scratchpad. -/
def raw1 (n : Nat) : Transfer :=
  { uid := 9, ctx := 0, team := 0, group := 1, core := 0, pc := 4, lanes := 1, op := .copy,
    ti := { mbase := 0x1000, ctrl := 0x991, dims := [⟨n, false, 4, 0⟩] } }

/-- It heads engine 0, with a leaf or none over its memory. -/
def copying (t : Transfer) (leaf : List Leaf) : State :=
  { flying (.engine 9) [] with tlb := leaves leaf, engines := [(0, { queue := [t] })] }

/-- How its next element ends: 0 done, 1 wait, 2 page fault, 3 stopped. -/
def endsAs (t : Transfer) (leaf : List Leaf) : Nat :=
  match (copying t leaf).transferElem 0 t 1 with
  | .ok .. => 0
  | .wait => 1
  | .fault .. => 2
  | .stop .. => 3
  | .placed .. => 4

/-- A transfer that has not started, fresh, with a seed and restored; one of no element, and one whose last element is done, faults on
an unmapped page and stops outside its grant of the chip scratchpad. -/
theorem witness_TransferEventResults :
    [raw1 1, { raw1 1 with ti := { (raw1 1).ti with ctrl := 0x80000991, seed := 0 } }, { raw1 1 with resume := some 5 },
      { raw1 0 with started := true }, { raw1 1 with started := true }].all (fun t =>
        ((copying t []).engine 0 0).head = some t && (copying t []).groups.any (fun e => e.1 = 1)) = true
    ∧ (raw1 0).count = 0 ∧ (raw1 1).count = 1 ∧ (raw1 1).unit = 1 ∧ (raw1 1).ti.seedv = false
    ∧ [[leaf0], []].map (endsAs (raw1 1)) = [0, 2] ∧ endsAs { raw1 1 with ti := { (raw1 1).ti with mcsp := true } } [leaf0] = 3 := by decide +kernel

/-- A group that waits for the matrix engine, its team of a class, and a team-mate that does not. -/
def tileWait (cls : Nat) : State :=
  inTeam (fun t => { t with cls := cls }) (withPeer (inGroup (fun x => x.modFlow (fun f => { f with park := some .tile }))
    (placed (.cfNop ⟨0, 0⟩))))

/-- The engine with a holder that has used n operations. -/
def holding (n : Nat) : State :=
  inCore (fun c => { c with holder := some (.group 1), leaseUsed := n }) { placed (.cfNop ⟨0, 0⟩) with sched := { now := n } }

/-- No holder, with a display group waiting, another group waiting, none waiting, a closed window; a lease used and not used up,
before and after 16 ac. -/
theorem witness_EngineArbitration :
    [0, 2].all (fun cls => ((tileWait cls).core 0).holder.isNone && ((tileWait cls).core 0).closedWin.isNone
      && ((tileWait cls).firstWaiter 0 (((tileWait cls).engineWaiters 0).filter (fun g => (tileWait cls).isDisplay g.2))).isSome == (cls == 0)
      && ((tileWait cls).firstWaiter 0 ((tileWait cls).engineWaiters 0)).map (fun g => g.1) == some 1) = true
    ∧ (let s := inCore (fun c => { c with leased := some 1 }) ((tileWait 2).modGroup 2 (fun x => x.modFlow (fun f => { f with park := some .tile })))
       (s.engineWaiters 0).map (·.1) = [1, 2] ∧ (s.firstWaiter 0 (s.engineWaiters 0)).map (·.1) = some 2)
    ∧ (placed (.cfNop ⟨0, 0⟩)).engineWaiters 0 = []
    ∧ ((inCore (fun c => { c with windows := [(2, { st := .closed, locked := true })] }) (placed (.cfNop ⟨0, 0⟩))).core 0).closedWin = some 2
    ∧ [15, 16].map (fun n => decide ((holding n).leaseOf 1 ≤ n)) = [false, true]
    ∧ [15, 16].all (fun n => (((holding n).core 0).holder = some (.group 1)) && ((holding n).core 0).leaseUsed = n
        && ((holding n).core 0).lastTile = 0 && (holding n).sched.now = n && (holding n).engineWaiters 0 = []) = true := by decide +kernel

/-- One operation of group 1 on tiles, accepted or not, with the engine held for it. -/
def tileAt (acc : Bool) (w : TileWork) (s : State) : State :=
  inCore (fun c => { c with holder := some (.group 1), tileq := [{ uid := 9, group := 1, fm := {}, lanes := 1, pc := 0, cbase := 0, accepted := acc, work := w }] }) s

/-- Operations that the engine accepts, an mma with a queued store and with none, within its lease and after it; the head of the
queue of each kind, an mma whose lines are present and absent. -/
theorem witness_TileOperationResults :
    let mma : TileWork := .mma 0 .bf16 false [] [] { map1 with fmt := 11, sc := false } 0 0
    let drain : TileWork := .drain { tile := 0, fd := .f32, rnd := 0, am := none, tr := false, z := false, blk := false, sx := 0, addr := 0, rows := [] }
    let works : List TileWork := [.zero 0, .fill 0 true [], .put 0 false 3 [], .mov 0 1 true, .get 0 false 3 4, .stat 5 0, mma, drain]
    works.all (fun w => ((tileAt false w (flying (.engine 9) [])).nextOp 0).any (fun o => o.work = w)
      && (((tileAt true w (flying (.engine 9) [])).core 0).headOp).any (fun o => o.work = w)) = true
    ∧ [[], [queuedStore]].all (fun q => ((flying (.engine 9) q).group 1).any (fun x => x.io.sq = q && x.drained == q.isEmpty)) = true
    ∧ (flying (.engine 9) []).leaseOf 1 = 16
    ∧ [true, false].all (fun b =>
      ({ map1 with fmt := 11, sc := false }.offsets 0 0).all (fun q =>
        { flying (.engine 9) [] with presence := if b then (List.range 32).map (fun n => (n, true)) else [] }.present 0 (q / 128) == b)) = true := by
  decide +kernel

/-- A network of one layer, whose only row waits in window 2 of core 0, in a state. -/
def windowed (st : WinSt) (now : Nat) (leaf : List Leaf) : State :=
  let row : NetRow := { group := 1, team := 0, lane := 0, input := [0, 0], vd := 4, nout := 1, op := 9, pc := 0 }
  let win : Window := { st := st, ctx := 0, snap := some ⟨net1, 0, [(0, 0, {})]⟩, uid := 8, timer := 96, rows := [row] }
  inCore (fun c => { c with windows := [(2, win)] })
    { flying (.engine 9) [] with tlb := leaves leaf, sched := { now := now } }

/-- How the reads of its network end: done, on a page fault. -/
def netEnds (s : State) : Nat :=
  match s.netLayers 0 0 net1 0 net1.nl with
  | .ok .. => 0
  | .fault .. => 1
  | .fail .. => 2

/-- A window that is open before and at its time, one that is closed, with room for its ranges and none, and one that runs; its
network reads and faults; a pending swap of a table that a window pins, and of another. -/
theorem witness_NetEventResults :
    [95, 96].all (fun n => let x := ((windowed .opened n []).core 0).win 2
      x.st = .opened && decide (x.openedAt + x.timer ≤ n) == (n == 96)) = true
    ∧ [WinSt.closed, .running].all (fun st => let x := ((windowed st 0 []).core 0).win 2
      x.st = st && x.snap.isSome && !x.locked && !(windowed st 0 []).winLeaving x
        && x.rows.all (fun q => q.lane < 64 && (windowed st 0 []).rowLive q)) = true
    ∧ net1.nl = 1
    ∧ [0, 64].all (fun n => (({ ((windowed .closed 0 []).core 0) with locks := (List.range n).map (fun k => (k, some ⟨.glob, 0, 1, false, 7, []⟩)) } : Core).enterLocks
        [⟨.glob, 0, 1, false, 8, []⟩]).isSome == (n == 0)) = true
    ∧ [[leaf0], []].map (fun l => netEnds (windowed .running 0 l)) = [0, 1]
    ∧ [0, 1].all (fun t => ({ ((windowed .running 0 []).core 0) with acts := [(t, { pending := some {} })] } : Core).pinned t == (t == 0)) = true := by
  decide +kernel

/-- An operation at the head of a view unit's queue, on set 3 with its frame 1 open. -/
def viewing (o : ViewOp) (leaf : List Leaf) : State :=
  { withSet .opened (flying (.engine 9) []) with tlb := leaves leaf, clusters := [(0, { viewq := [o] })] }
def viewOp (w : ViewWork) : ViewOp :=
  { uid := 9, ctx := 0, team := 0, group := 1, core := 0, pc := 0, cbase := 0, lanes := 1, set := 3, hnum := none, work := w }

/-- How an operation ends: 0 performed, 1 page fault, 2 stopped. -/
def viewEnds (s : State) (o : ViewOp) (cut : Cut := none) : Nat :=
  match s.runView 0 o cut with
  | .ok .. => 0
  | .fault .. => 1
  | .stop .. => 2

/-- An operation that is performed, one that faults and one that stops; one performed of another kind, and presents of a row that is
not out and of one that is. -/
theorem witness_ViewUnitResults :
    let lens := viewOp (.lensmap 0 0 0 0)
    let far (s : State) : State := { s with vsets := s.vsets.map (fun e => (e.1, { e.2 with views := e.2.views.map (fun r => { r with lens := 2 ^ 52 }) })) }
    viewEnds (viewing (viewOp (.lensmap 1 0 0 0)) []) (viewOp (.lensmap 1 0 0 0)) = 0
    ∧ viewEnds (viewing lens []) lens = 1
    ∧ viewEnds (far (viewing lens [])) lens = 2
    ∧ ((viewing lens []).cluster 0).viewq = [lens] ∧ lens.ran = false ∧ lens.parked = false
    ∧ ((viewing lens []).group 1).isSome = true
    ∧ ((viewing (viewOp (.present 0 0 0 1 0 [(.mem 0x3000 0, 7)])) []).vset 3).view? 0 = some (ViewRec.of viewWords)
    ∧ [0, 1].all (fun n => let x : ViewSet := { st := .opened, f := 1, views := [ViewRec.of viewWords], cur := some ⟨1, 0, [{ vbrk := [], emitted := n }]⟩ }
      (x.frame 1).any (fun f => (f.view 0).emitted = n) && x.emitTime 0 (ViewRec.of viewWords) 1 0 == if n = 0 then none else some 0) = true := by
  decide +kernel

/-- View set 3 with frame 1 open, its two strips latched or not. -/
def framed (latched : Bool) : ViewSet :=
  { st := .opened, f := 1, views := [ViewRec.of viewWords],
    cur := some ⟨1, 0, [{ vbrk := [], strips := if latched then [(0, some ([], 0)), (1, some ([], 0))] else [] }]⟩ }

/-- A vset and an unbinding that wait with every row out; strips to latch before and at BOUND; a row before and at its time; tiles
presented in this frame, in an earlier one and in none; streams that are off, without a live port, without credit and with it; the
bounds of the gaze registers; a module that answers. -/
theorem witness_DisplayResults :
    [0x1000, 0].all (fun a => let x : ViewSet := { st := .bound, views := [ViewRec.of viewWords], waiting := some (a, []) }
      x.waiting = some (a, []) && x.allOut x.cur && x.allOut x.prev && !({ State.reset with vsets := [(3, x)] } : State).viewBusy 3) = true
    ∧ (ViewRec.of viewWords).rh / 16 = 2 ∧ (ViewRec.of viewWords).bound * usec = 2772000
    ∧ (framed false).cur.any (fun f => f.views.length = 1 && (Tab.get none (f.view 0).strips 1).isNone) = true
    ∧ (framed true).prev = none ∧ (framed true).view? 0 = some (ViewRec.of viewWords) ∧ (ViewRec.of viewWords).dh / 32 = 1
    ∧ (framed true).emitTime 0 (ViewRec.of viewWords) 1 0 = some 2772000
    ∧ tileKey (ViewRec.of viewWords) 0 0 0 = 0
    ∧ [[(1, 2)], [(0, 1)], []].map (fun (t : Tab Nat) => decide (Tab.get 0 t 1 = 2)) = [true, false, false]
    ∧ 4 ≤ (ViewRec.of viewWords).out
    ∧ [(PortSt.up, true), (.degraded, true), (.down, false)].all (fun p => ({ State.reset with ports := [(2, { st := p.1 })] } : State).portLive 2 == p.2) = true
    ∧ [(0, 4), (0, 8), (4, 4), (7, 1), (8, 8)].all (fun p => p.2 ∈ [1, 2, 4, 8] && p.1 % p.2 = 0 && p.1 + p.2 ≤ 16) = true
    ∧ booted.pwr.ready = true := by decide +kernel

/-- Boots with every step good, with a bad image, an interrupted update, an old version and bad memory. -/
def boots : List Boot :=
  let b : Boot := { code384 := false, imageOk := true, updateComplete := true, memoryOk := true, version := 1, minVersion := 1, measure := [],
                    id := 5, bridge := false, hconf := true, devKey := [], serial := 0 }
  [b, { b with imageOk := false }, { b with updateComplete := false }, { b with minVersion := 2 }, { b with memoryOk := false }]

/-- Each kind of boot; a module that answers, with no attestation running and with one; a key slot that an installed context holds, and
a free one. -/
theorem witness_FirmwareResults :
    boots.map (fun b => (b.imageOk && b.updateComplete && b.minVersion ≤ b.version, b.memoryOk)) =
      [(true, true), (false, true), (false, true), (false, true), (true, false)]
    ∧ [false, true].all (fun b => ({ booted with fw := { booted.fw with busy := b } } : State).pwr.ready
        && ({ booted with fw := { booted.fw with busy := b } } : State).fw.busy == b) = true
    ∧ (List.replicate 114 255).length = 114
    ∧ [0, 5].map (fun k => (inState .running booted).ctxs.any (fun c => c.2.d.key = k && c.2.st = .running)) = [true, false] := by
  decide +kernel

/-- The powered module in each state, cool and throttled, with a Running context and with none; a cluster that may be gated, one with
a group on it and one that is gated. -/
theorem witness_PowerResults :
    let at_ (st : Nat) (th : Bool) : State := { booted with pwr := { booted.pwr with st := st, throt := th } }
    [0, 1, 2].all (fun n => [false, true].all (fun b => (at_ n b).pwr.ready && (at_ n b).pwr.st = n && (at_ n b).pwr.throt == b)) = true
    ∧ (booted.ctxs.all (fun c => c.2.st ≠ .running && c.2.st ≠ .draining)) = true
    ∧ (inState .running booted).ctxs.any (fun c => c.2.st = .running) = true
    ∧ booted.mayGate 639 = true ∧ (booted.cluster 639).gated = false
    ∧ (placed (.cfNop ⟨0, 0⟩)).groups.any (fun g => g.2.on && g.2.core / 4 = 0) = true
    ∧ ((booted.gateCluster 639).cluster 639).gated = true
    ∧ Tab.get false booted.gatedSlices 191 = false := by decide +kernel

/-- The module before READY and after it, with no invalidation running. -/
theorem witness_ManagementWriteResults :
    State.reset.pwr.ready = false ∧ booted.pwr.ready = true ∧ booted.wakeModule.pginv.busy = false
    ∧ writeSize 0xE000 4 ∧ (2 ^ 31 + 5) % 2 ^ 32 / 2 ^ 31 = 1 := by
  refine ⟨by decide, by decide +kernel, by decide +kernel, ⟨?_, ?_⟩, ?_⟩ <;> decide

/-- Ports of each state; a module map that names module 7 and a context there; accesses with a translation and without. -/
theorem witness_LinkAndRemoteResults :
    [PortSt.down, .training, .up, .degraded, .fenced, .draining].all (fun st =>
      (({ State.reset with ports := [(31, { st := st })] } : State).port 31).st = st) = true
    ∧ Tab.get false State.reset.bridgeDown 19 = false
    ∧ (let c := (inCtx (fun c => { c with st := .resident, map := [(7, BitVec.ofNat 32 (2 ^ 31 + 3 * 2 ^ 18 + 7))] }) booted).ctx 0
       c.st = .resident ∧ (c.map.any (fun e => e.2.getLsbD 31 && (e.2.extractLsb' 0 12).toNat = 7 && (e.2.extractLsb' 18 6).toNat = 3)) = true)
    ∧ ({ booted with tlb := leaves [leaf0] }.virt 0 0x1000 4 true).2.isSome = true
    ∧ (booted.virt 0 0x1000 4 false).2 = none
    ∧ ({ booted with modid := { bridge := true } } : State).wakeModule.pwr.ready = true := by decide +kernel

/-- The first of conditions 2 to 5 of R107 that an access of lane 0 meets; the leaf and the check that follow where it meets none. -/
def firstBad (v : Env) (s : State) (k : AccKind) (a : Nat) : Option Nat := (earlyChecks v s k).findIdx? (fun c => c.2 ⟨0, a⟩)

/-- A word at issue with other leaves. -/
def leaved (l : List Leaf) (s : State) : State := { bench1 s with tlb := leaves l }

/-- A word at issue with one leaf cached, and an entry or none in the page table that it came from. -/
def remapped (pte entry : Nat) (s : State) : State :=
  inCtx (fun c => { c with d := { c.d with root := 16 } })
    { leaved [{ leaf0 with pte := pte, entry := 0x11000 }] s with
      mem := [(0x10000, 1), (0x10001, 0x10), (0x10002, 1)] ++ (if entry = 0 then [] else [(0x11000, BitVec.ofNat 8 entry), (0x11001, 1)])
      keyFull := [(0, true)] }

/-- How a check ends: 0 permitted, 1 parked for a walk, 2 parked on a page, 3 trap, 4 parked for lines. -/
def checkEnds (v : Env) (s : State) (k : AccKind) (a : Nat) : Nat :=
  match v.check s k [⟨0, a⟩] with
  | .ok .. => 0
  | .park _ (.walk ..) => 1
  | .park _ (.absent _) => 4
  | .park .. => 2
  | .trap .. => 3

/-- Each early condition met first; then no leaf; leaves that migrate or may not be written, as a fresh walk says too, and as one says
no more that faults; leaves that are compressed, and that are clean; an access that is granted; a locked range; lines that are absent
and present. -/
theorem witness_AccessChecks :
    let nop : Instr := .cfNop ⟨0, 0⟩
    let k : AccKind := { space := 0, n := 4, align := 4, write := true }
    [({ space := 0, n := 4, align := 4, write := false }, 2), ({ space := 4, n := 4, align := 4, write := false }, 1024),
      ({ space := 0, n := 4, align := 4, write := false }, 2 ^ 53)].zipIdx.all (fun e =>
        meets nop bench1 (fun s v => firstBad v s e.1.1 e.1.2 = some e.2)) = true
    ∧ meets nop (fun s => inTeam (fun t => { t with privs := [(1, 0, 0, false)], cores := [], kern := { t.kern with spPriv := 8 } }) (bench1 s))
        (fun s v => firstBad v s { space := 2, n := 4, align := 4, write := false } 0 = some 3) = true
    ∧ meets nop (leaved []) (fun s v => (firstBad v s k 64).isNone && (v.leaf s 64).isNone && checkEnds v s k 64 = 1) = true
    ∧ [(0x177, 0x177, 2), (0x177, 0, 1), (0x165, 0x165, 3), (0x16F, 0x16F, 3), (0x167, 0x167, 0)].all (fun p => meets nop (remapped p.1 p.2.1)
        (fun s v => (firstBad v s k 64).isNone && (v.leaf s 64).map (·.pte) == some p.1 && checkEnds v s k 64 = p.2.2
          && granted v s k [⟨0, 64⟩] == (p.2.2 == 0) && match s.walk 0 v.c 64 with
            | .leaf l => p.2.1 ≠ 0 && l.pte = p.1
            | .fault .. => p.2.1 = 0
            | .link => false)) = true
    ∧ meets nop (fun s => withMem [(0x1000, 0x27), (0x1001, 1)] (leaved [{ leaf0 with pte := 0x127 }] s))
        (fun s v => (v.leaf s 64).any (fun l => !pteD l.pte && s.readPte l.entry (s.ctx v.c).d.key = l.pte) && checkEnds v s k 64 = 0) = true
    ∧ meets nop (fun s => inCore (fun c => { c with locks := [(63, some ⟨.glob, 64, 65, true, 7, []⟩)] }) (leaved [leaf0] s))
        (fun s v => v.locked s 0 4 true ⟨0, 64⟩ = [63] && checkEnds v s k 64 = 3) = true
    ∧ [(true, 0), (false, 4)].all (fun p => meets nop (fun s => { bench1 s with presence := if p.1 then [(0, true)] else [] })
        (fun s v => s.present 0 0 == p.1 && checkEnds v s { space := 1, n := 4, align := 4, write := false } 0 = p.2)) = true := by
  decide +kernel

/-- A group whose frame address has a leaf, in a context with a handler and without, outside the handler and inside it. -/
theorem witness_TrapEntryResults :
    let s := bench (placed (.cfNop ⟨0, 0⟩))
    [(0x4000, 0), (0x4000, 1), (clearWord, 0)].all (fun p =>
      let t := inGroup (fun x => { x with ctl := { x.ctl with tdepth := p.2 } }) (inCtx (fun c => { c with d := { c.d with trappc := p.1 } }) s)
      (t.group 1).any (fun x => (t.team x.team).any (fun m => (t.cached (.core x.core) m.ctx (x.ctl.tfbase % 2 ^ 52)).any (fun l =>
        !pteM l.pte && pteW l.pte && !pteC l.pte && pteD l.pte && (t.ctx m.ctx).d.trappc = p.1 && x.ctl.tdepth = p.2)))) = true := by
  decide +kernel

/-- A clause issue that stands at a word that decodes and at one that does not; an event; a machine with nothing to do. -/
theorem witness_StepRunsWord :
    [[0x680401E1], [0xFFFFFFFF]].map (fun ws => ((State.reset.withWords ws).group 1).any (fun x => x.on && x.flow.park.isNone
      && x.flow.clause.any (fun c => match decode (c.words.drop (c.pos - 1)) with
        | .ok _ => true
        | .error _ => false))) = [true, false]
    ∧ (State.reset.withWords [0x680401E1]).sched.agenda = [] ∧ (State.reset.withWords [0x680401E1]).sched.turn = some 1
    ∧ (Instr.evAttest).enc = none
    ∧ State.reset.sched.agenda = [] ∧ State.reset.groups = [] := by decide +kernel

/-- A canonical state, and a step that it takes. -/
theorem witness_CanonicalKept : State.reset.canonical ∧ (match step State.reset with
    | .next t => decide (t.sched.steps = 1)
    | _ => false) = true := by
  refine ⟨?_, by decide +kernel⟩
  unfold State.canonical
  decide

/-- A well-formed word, and words that decode to it. -/
theorem witness_RoundTrip : (Instr.vaAddF32 ⟨0, 4, 1, 0xE1, 0⟩).wf = true ∧ (Instr.vaAddF32 ⟨0, 4, 1, 0xE1, 0⟩).enc ≠ none
    ∧ (match decode [0x680401E1] with
      | .ok (i, n) => decide (i = .vaAddF32 ⟨0, 4, 1, 0xE1, 0⟩ ∧ n = 1)
      | .error _ => false) = true := by decide +kernel

/-! More cases of the statements: what another module answers, what waits, and what the controller and firmware do. -/

/-- The lanes that end are the last of the group and a store is queued; lanes are left beside them. -/
theorem witness_LaneEndResults_drain :
    [Instr.cfExit ⟨0, 0⟩, .cfKill ⟨0, 0⟩].all (fun i =>
      meets i (fun s => storing (bench s)) (fun _ v => v.act = 0xFFFF && !v.publishWaits v.act && !v.x.drained)
      && meets i (fun s => inGroup (fun x => { x with flow := { x.flow with clause := x.flow.clause.map (fun c => { c with lanes := 1 }) } })
          (storing (bench s))) (fun _ v => v.act = 1 && !v.publishWaits v.act && !v.x.drained && v.x.w = 16
            && (v.x.lane 1).st ≠ .exited && v.lanes.all (fun l => (v.x.lane l).vbind.isNone))) = true := by decide +kernel

/-- Lanes that may not read or test what they name: an index at %rpcap, no binding, a reference of another kind. -/
theorem witness_RayResults_stops :
    let z (d a : Nat) : TwoWord := ⟨0, BitVec.ofNat 7 d, BitVec.ofNat 8 a, 0, ⟨0, false, false, 0, 0⟩, 0⟩
    meets (.gxRload (z 4 9)) (fun s => vecAll 9 4096 (bench1 s)) (fun _ v => v.x.rayPending = [] && v.x.ctl.rpcap = 4096
      && v.lanes ≠ [] && v.lanes.all (fun l => (v.read 9 .b32 l).toNat = 4096)) = true
    ∧ [(Instr.gxRbox (z 20 8), (0x40000000 : Word)), (.gxRtri (z 2 8), 0)].all (fun c =>
      meets c.1 (fun s => vecAll 8 c.2 (bench1 s)) (fun _ v => v.x.rayPending = [] && v.lanes ≠ []
        && v.lanes.all (fun l => (v.x.lane l).ray.index.isNone && v.read 8 .b32 l = c.2))) = true := by decide +kernel

/-- A walk of a group whose table lies on a die that no bridge reaches. -/
theorem witness_PageFaultResults_link :
    let s : State := inGroup (fun x => { x with flow := { x.flow with park := some (.walk 0x1000 false false) } })
      (inCtx (fun c => { c with d := { c.d with root := 2 ^ 24 } }) { placed (.cfNop ⟨0, 0⟩) with bridgeDown := (List.range 64).map (fun k => (k, true)) })
    s.walk 0 0 0x1000 = .link := by decide +kernel

/-- A copy of one element with a leaf over its memory has run; one whose element a lost link may fail; a corrected error counted. -/
theorem witness_TransferEventResults_runs :
    (∃ z v, Runs 0 0 (copying { raw1 1 with started := true } [leaf0]) { raw1 1 with started := true } z v ∧ v.count ≤ v.next)
    ∧ ({ State.reset with sched := { State.reset.sched with agenda := [.soft 3] } } : State).timed = none := by
  refine ⟨?_, by decide +kernel⟩
  have h : (match (copying { raw1 1 with started := true } [leaf0]).transferElem 0 { raw1 1 with started := true }
      ((copying { raw1 1 with started := true } [leaf0]).engine 0 0).seed with
    | .ok .. => true
    | _ => false) = true := by decide +kernel
  split at h
  · rename_i s' seed he
    exact ⟨_, _, .elem _ s' _ _ _ seed (by decide) he (.here _ _), by decide⟩
  · cases h

/-- Transfers of each kind whose next element has its places: a raw fill, a dequantised one, a raw drain whose lines are present, a
move, and a row of a tbin. -/
theorem witness_ElementValues :
    let ti (c : Nat) : Transfer := { raw1 1 with ti := { (raw1 1).ti with dbase := 0x3000, ctrl := c } }
    let plain (l : Loc) : Bool := match l with
      | .sp .. | .csp .. | .mem .. => true
      | .stk .. | .far .. => false
    let has (t : Transfer) (w : Bool) (a n : Nat) : Bool := match (copying t [leaf0]).engBytes 0 0 false w true a n with
      | (_, .ok ls) => ls.length = n && ls.all plain
      | _ => false
    [(0x991, 4), (0x9A1, 2)].all (fun p => (ti p.1).op = .copy && (ti p.1).ti.kind = 0 && (ti p.1).ti.blk = 0 && (ti p.1).ti.memSize = p.2
      && (ti p.1).ti.raw == (p.2 == 4) && has (ti p.1) false ((ti p.1).ti.memAddr (indices (ti p.1).ti.dims 0)) p.2) = true
    ∧ ((ti 0x1991).ti.kind = 1 ∧ (ti 0x1991).ti.raw = true ∧ (ti 0x1991).ti.amaxen = false ∧ has (ti 0x1991) true 0x1000 4 = true
        ∧ ({ copying (ti 0x1991) [leaf0] with presence := [(0, true)] } : State).allPresent (spElement (ti 0x1991) 0) = true)
    ∧ ((ti 0x2991).ti.kind = 2 ∧ (ti 0x2991).ti.dstAddr [0] = 0x3000 ∧ has (ti 0x2991) true 0x3000 4 = true) := by decide +kernel

/-- Formats of an mma and a network that the value statements speak of, an axis with two segments and a sample in the first, a vertex
before the eye, a triangle with its sample, a finite ray and node. -/
theorem witness_ValueStatements :
    (10 ≤ 32 ∧ Ty.bf16 ∈ [Ty.bf16, .e4m3, .e5m2, .mt8, .mx4]) ∧ net1.nl = 1
    ∧ (decodeRaw .f32 (0x3F800000 : Word).toNat ≠ .nan ∧ Fin32 0xBF800000 ∧ Fin32 0x3F800000)
    ∧ (breakpoints ⟨2, [0], [16]⟩ 0).length = 3 ∧ (⟨2, [0], [16]⟩ : Warp).bnd 32 1 = 16
    ∧ (ndc [0x3F800000, 0, 0, 0, 0, 0x3F800000, 0, 0, 0, 0, 0x3F800000, 0, 0, 0, 0, 0x3F800000] [0, 0, 0]).isSome = true
    ∧ (({ a := ⟨⟨0, 1⟩, ⟨0, 1⟩⟩, b := ⟨⟨4, 1⟩, ⟨0, 1⟩⟩, c := ⟨⟨0, 1⟩, ⟨4, 1⟩⟩, za := ⟨1, 2⟩, zb := ⟨1, 2⟩, zc := ⟨1, 2⟩, area := ⟨16, 1⟩ } : Tri).cover
        ⟨⟨1, 1⟩, ⟨1, 1⟩⟩) = some 0x3F000000 := by
  refine ⟨by decide, by decide +kernel, ⟨by decide +kernel, by unfold Fin32; decide, by unfold Fin32; decide⟩, by decide +kernel, by decide +kernel,
    by decide +kernel, by decide +kernel⟩

/-- The box test of 17_ray: a node at the origin with e = 124 on every axis and the children that the chapter's worked example gives. A
ray from (-1, 0.5, 0.5) along +x enters child 0 at 1 and child 1 at 2. -/
theorem test_boxWords_example : (State.reset.boxWords {} [0xBF800000, 0x3F000000, 0x3F000000, 0x3F800000, 0, 0, 0, 0x41200000]
    [0, 0, 0, 0x077C7C7C, 0x07000000, 0x00080707, 0x07070F00, 0x07000800, 0x00000F07]).2.take 4 =
    [3, 0x3F800000, 0x40000000, 0x7F800000] := by decide +kernel

/-- A record in another module that has not been asked for, and one that has come back. -/
theorem witness_TransferIssue_away :
    [(Instr.enTcopy ⟨0, 1, 0x88, 0, ⟨3, false, false, 0, 2⟩, 0⟩, 256), (.enTgather ⟨0, 1, 0x88, 0x89, ⟨3, false, false, 0, 2⟩, 0⟩, 256),
      (.enCbload ⟨0, 2, 0x88, 0, ⟨0xB5, false, false, 0, 0⟩, 0⟩, 512), (.enActload ⟨0, 1, 0x88, 0, ⟨3, false, false, 0, 0⟩, 0⟩, 272),
      (.enNbind ⟨0, 1, 0x88, 0, ⟨7, false, false, 0, 0⟩, 0⟩, 256)].all (fun c => [false, true].all (fun back =>
        meets c.1 (fun s => withS [(8, 0x1000), (9, 0x100000)] (inGroup (fun x => { x with io := { x.io with
            pend := if back then [{ id := 9, regs := [], flag := none, pc := (x.flow.clause.map (·.own)).getD 0, lanes := 1
                                    addr := 0x100000 * 2 ^ 32 + 0x1000, kind := .block c.2 (some (List.replicate c.2 0)) }] else [] } }) (bench1 s)))
          (fun s v => (v.busy false).isNone && !(v.x.io.sq.any (fun e => e.far))
            && ((v.x.io.pend.find? (cameBack v (v.pair 0x88) c.2)).isSome == back)
            && passes v (v.at_ s) { space := 0, n := c.2, align := 16, write := false } (v.lanes.map (fun l => ⟨l, v.pair 0x88⟩))
              (fun _ b => reachesFar b)))) = true := by decide +kernel

/-- A neval that the stitch table serves, one that misses there, and one that goes on. -/
theorem witness_NetResults_stitch :
    let ev : Instr := .enNeval ⟨0, 0x14, 4, 1, ⟨7, false, false, 0, 0⟩, 0⟩
    let bound : State → State := inTeam (fun t => { t with kern := { t.kern with reuse := true } }) ∘ inCtx (fun c => { c with net := [(7, some net1)] })
    let key (s : State) : List (List Nat) := match gate ev noIll s with
      | .go v _ => (v.netKey (v.at_ s) net1).key
      | _ => []
    let hit (s : State) : State := bound s |> fun s => { s with pools := [(0, { stitch := [{ key := key s, value := [List.replicate 16 5] }] })] }
    meets ev hit (fun s v => v.act ≠ 0 && (NevalHit s v net1).any (fun o => o.value = [List.replicate 16 5])) = true
    ∧ meets ev bound (fun s v => v.act ≠ 0 && (NevalHit s v net1).isNone && v.x.drained && (nevalKey s v ⟨0, 0x14, 4, 1, ⟨7, false, false, 0, 0⟩, 0⟩ net1).isSome
        && v.x.resuming v.cl.own = none) = true
    ∧ meets ev (fun s => inGroup (fun x => { x with io := { x.io with nevals := [⟨(x.flow.clause.map (·.own)).getD 0, 9, 1⟩] } }) (bound s))
        (fun s v => v.act ≠ 0 && (NevalHit s v net1).isNone && v.x.drained && (v.x.resuming v.cl.own).map (fun n => (n.op, n.entered)) = some (9, 1)) = true := by decide +kernel

/-- rstore in lanes without a binding, and bound at %rpcap. -/
theorem witness_RayResults_unbound :
    [id, fun s => inGroup (fun x => { x with ctl := { x.ctl with rpcap := 5 } }) (bound s)].all (fun f =>
      meets (.gxRstore ⟨0, 0, 9, 0, ⟨0, false, false, 0, 2⟩, 0⟩) (fun s => f (bench1 s)) (fun _ v => v.x.rayPending = []
        && v.lanes.any (fun l => ((v.x.lane l).ray.index.map (fun i => decide (v.x.ctl.rpcap ≤ i))).getD true))) = true := by decide +kernel

/-- A path to a home of this die and none to another module; with no link, and with a bridge that is Down; an entry of a store queue
that waits for an earlier load. -/
theorem witness_AccessPerformedResults_paths :
    let s := flying .load []
    ((List.range 9).filter (s.reaches 0), s.mayLink 0 9, s.mayLink 0 0) = ([0, 1, 2, 3, 4, 5, 6, 7], true, false)
    ∧ homesOf [.mem 0x1000 0, .sp 0 4, .far 7 3 0 0x1000] = [0, 9]
    ∧ ((flying (.far []) [{ queuedStore with after := [9] }]).group 1).any (fun x => x.io.sq.any (fun e => e.after = [9])
        && x.io.pend.any (fun p => p.id = 9)) = true
    ∧ ({ booted with ports := [(31, { st := .up })] } : State).reaches 0 9 = true := by decide +kernel

/-- The placed group alone on its core, its clause's header and words translated, between clauses and inside one; %wdog due and not;
parked behind a load of another module, and for the engine. -/
theorem witness_GroupIssueResults_resume :
    let s (f : Flow → Flow) : State := inGroup (fun x => { x with flow := f x.flow })
      { placed (.cfNop ⟨0, 0⟩) with mem := [(0, 0xE0), (1, 0x1F), (3, 0x10)], tlb := leaves [leaf0] }
    [Park.drain, .storeFull, .earlierLoad, .flag 3].all (fun p => ((s (fun f => { f with park := some p })).group 1).any (fun x =>
      x.flow.clause.any (fun c => match (s (fun f => { f with park := some p })).fetchWord (.core 0) 0 c.base with
        | .ok u h => hdrOk h && (c.own.toNat - c.base.toNat) / 4 ≤ hdrCount h && match u.fetchWords (.core 0) 0
              (c.base + BitVec.ofNat 32 (4 * ((c.own.toNat - c.base.toNat) / 4))) (hdrCount h + 1 - (c.own.toNat - c.base.toNat) / 4) [] with
            | (_, .inl ws) => structOk ws.length ws
            | _ => false
        | _ => false))) = true
    ∧ (s id).groups.length = 1
    ∧ [[], [{ id := 9, regs := [], flag := none, pc := 0, lanes := 1, kind := .far [] }]].map (fun (ps : List Pend) => ps.any Pend.isFar) = [false, true]
    ∧ ((watched 1024 id).group 1).any (fun x => x.flow.clause.isSome && x.wdog (watched 1024 id).sched.now = 1024) = true
    ∧ [none, some (Holder.group 9)].map (fun h => ((inCore (fun c => { c with holder := h })
        (s (fun f => { f with park := some .tile }))).acquire 0 1).isSome) = [true, false] := by decide +kernel

/-- View set 3 with frame 1 open, before the moment of its first latch and at it; nothing for the controller to do. -/
theorem witness_DisplayResults_moment :
    [2771999, 2772000].all (fun n =>
      let s : State := { booted with vsets := [(3, framed false)], sched := { time := n } }
      (framed false).latchDue 0 = some (⟨1, 0, [{ vbrk := [] }]⟩, 2772000) && s.timed.isSome == (n == 2772000)) = true
    ∧ ((framed true).nextRow 0).map (fun r => r.2.2.2) = some 2772000
    ∧ State.reset.timed.isNone = true
    ∧ [1, 0].all (fun w => (w = 0 ↔ w = 0)) = true := by decide +kernel

/-- Ports to train, all settled and one that goes on; a module that a trip holds; the recovery loader. -/
theorem witness_FirmwareResults_links :
    let b : Boot := { code384 := false, imageOk := true, updateComplete := true, memoryOk := true, version := 1, minVersion := 1, measure := [],
                      id := 5, bridge := false, hconf := true, devKey := [], serial := 0 }
    [[⟨3, 8, 7, 1, true⟩, ⟨4, 4, 7, 2, false⟩], [⟨3, 3, 7, 1, true⟩]].map (fun (ls : List Trained) =>
        match exec (.evColdReset { b with links := ls }) booted with
        | .next t => ((t.port 3).st, (t.port 4).st, t.pwr.ready)
        | _ => (.down, .down, false)) = [(.up, .fenced, true), (.training, .down, false)]
    ∧ ({ State.reset with pwr := { trip := true } } : State).pwr.trip = true
    ∧ ({ State.reset with fw := { recovery := true } } : State).fw.recovery = true := by decide +kernel

/-- Every cluster may be gated, and one that holds a group may not. -/
theorem witness_PowerResults_standby :
    (List.range 640).all booted.mayGate = true ∧ (placed (.cfNop ⟨0, 0⟩)).mayGate 0 = false := by decide +kernel

/-- Bytes that a remote access reaches and does not; routes between dies of one row, one column and neither. -/
theorem witness_LinkAndRemoteResults_access :
    let s : State := { inState .running booted with tlb := leaves [leaf0] }
    (match s.engCheck 0 0 false false false 0x1000 4 with
      | (_, .ok _) => true
      | _ => false) = true
    ∧ (match (inState .running booted).engCheck 0 0 false false false 0x1000 4 with
      | (_, .ok _) => true
      | _ => false) = false
    ∧ [(true, 4), (true, 2), (false, 4)].all (fun p => match s.engBytes 0 0 p.1 true false 0x1000 p.2 with
      | (_, .ok _) => !p.1
      | _ => p.1) = true
    ∧ [(0, 3), (1, 5), (2, 7)].map (fun p => s.dieRoute p.1 p.2) = [some [0, 3], some [1, 5], some [2, 3, 7]]
    ∧ ({ s with bridgeDown := [(2, true)] } : State).hopUp 0 3 = false := by decide +kernel

/-- A header whose page is clean in the cache, with its entry still there and changed; a slot on another page. -/
theorem witness_EntryQueueResults_dirty :
    let live (m : List (Nat × Byte)) : State := inCtx (fun c => { c with st := .running, d := { c.d with entryq := 0x2000, classes := 8, root := 16 } })
      { booted with mem := m, tlb := leaves [{ leaf0 with pte := 0x127, entry := 0x11000 }] }
    let tables : List (Nat × Byte) := [(0x10000, 1), (0x10001, 0x10), (0x10002, 1), (0x11000, 0x27), (0x11001, 1)]
    let upto (m : List (Nat × Byte)) : Option (Bool × Bool) := match (live m).virt 0 0x2000 64 true with
      | (t, some _) => match t.virtD 0 (slotAddr (live m) 0 4 0) 64 false with
        | (u, some _) => some (true, (u.virtD 0 0x2000 64 false).2.isSome)
        | _ => some (false, false)
      | _ => none
    [upto ((0x2000, 4) :: tables), upto [(0x2000, 4)]] = [some (true, true), some (false, false)] := by decide +kernel

/-- The recovery loader takes an image; a request that splits, one that does not, and one of no enabled byte. -/
theorem witness_ManagementWriteResults_requests :
    ({ State.reset with fw := { recovery := true } } : State).pwr.ready = false
    ∧ (8 * 8) % 8 = 0 ∧ ¬ writeSize 4 8 ∧ ¬ writeSize 0 12 ∧ writeSize 4 4 ∧ 0xF0 % 2 ^ 4 = 0
    ∧ booted.wakeModule.fw.recovery = false ∧ ({ booted with modid := { bridge := true } } : State).ints.stat = 0 := by
  refine ⟨by decide, by decide, ?_, ?_, ?_, by decide, by decide +kernel, by decide +kernel⟩ <;> unfold writeSize <;> decide

/-- A bin row whose place is known, to be moved; a drain to another module; a display group that waits while another holds the engine;
an engine's tile queue with nothing to accept. -/
theorem witness_EngineEvents :
    let t : Transfer := { raw1 1 with started := true, op := .bin, rows := 1, table := 1 }
    let s : State := inCtx (fun c => { c with bins := [(1, { rowb := 16, entries := [(0, (0x2000, 4, 0))] })] }) { copying t [leaf0] with presence := [(0, true)] }
    (match s.transferElem 0 t 1 with
      | .placed u p => (match u.transferElem 0 { t with place := some p } 1 with
        | .ok .. => true
        | _ => false)
      | _ => false) = true
    ∧ homesOf ([[Loc.far 7 3 0 0x1000]]).flatten = [9] ∧ s.mayLink 0 9 = true ∧ s.reaches 0 9 = false
    ∧ (let u : State := inCore (fun c => { c with holder := some (.group 2) }) { tileWait 0 with
          teams := (tileWait 0).teams ++ [(9, { ctx := 0, record := none, kern := {}, cluster := 0 })]
          groups := (tileWait 0).groups.map (fun e => if e.1 = 2 then (2, { e.2 with team := 9 }) else e) }
       (u.group 2).any (fun x => !u.isDisplay x) && (u.firstWaiter 0 ((u.engineWaiters 0).filter (fun g => u.isDisplay g.2))).map (·.1) == some 1
         && (u.core 0).tileq.all (fun o => !o.accepted)) = true := by decide +kernel

/-- A clause issue with its port free, and with another group's clause on it; a reset machine, whose core 0 takes a word. -/
theorem witness_StepRunsWord_port :
    let s : State := placed (.scAddI32 ⟨61, 0x81, 0xCB, 0⟩)
    let held : State := match s.group 1 with
      | some x => s.setGroup 2 { x with gid := 1, flow := { x.flow with clause := x.flow.clause.map (fun c => { c with port := some 2 }) } }
      | none => s
    (s.group 1).any (fun x => x.flow.clause.any (fun c => s.portFree 1 x c)) = true
    ∧ s.timed.isNone = true ∧ State.reset.timed.isNone = true ∧ State.reset.groups = []
    ∧ (held.group 1).any (fun x => x.flow.clause.any (fun c => !held.portFree 1 x c)) = true := by decide +kernel

end Sys2Proof.Tests
end

/-!
PROOFS. The vector families VA and VX on integers and bits (04_lane R68 to R73, R82, R83). An operation on the numbers of two
elements computes a bit-vector operation (`Computes`); so it does element by element; so it does in each lane of Active, where
`vector_spec` gives the frame.
-/
namespace Sys2Proof.Proofs.Lane

open Sys2Proof Sys2Proof.Machine Sys2Proof.Claims

/-- The model wraps an integer as a bit vector of that width is made from it. -/
theorem wrap_eq_ofInt (w : Nat) (i : Int) : wrap w i = (BitVec.ofInt w i).toNat := (BitVec.toNat_ofInt ..).symm

theorem wrapped_eq (t : Ty) (i : Int) : wrapped t i = ((BitVec.ofInt t.width i).toNat, 0) :=
  congrArg (·, 0) (wrap_eq_ofInt ..)

theorem width_pos (t : Ty) : 0 < t.width := by cases t <;> decide

theorem signed_toNat {w : Nat} (hw : 0 < w) (x : BitVec w) : signed w x.toNat = x.toInt := by
  have hp := Nat.two_pow_pred_add_two_pow_pred hw
  have hx := x.isLt
  simp only [signed, BitVec.toInt, Nat.mod_eq_of_lt hx]
  split <;> split <;> omega

/-- The integer that an element stands for: signed for .i, else unsigned. -/
theorem int_toNat (t : Ty) (x : BitVec t.width) : t.int x.toNat = if t.isI then x.toInt else x.toNat := by
  rw [Ty.int, signed_toNat (width_pos t), Nat.mod_eq_of_lt x.isLt]

theorem ofInt_toNat {w : Nat} (x : BitVec w) : BitVec.ofInt w (x.toNat : Int) = x := by
  rw [BitVec.ofInt_natCast, BitVec.ofNat_toNat, BitVec.setWidth_eq]

theorem el_lt (t : Ty) (x : Word) (i : Nat) : el t x i < 2 ^ t.width := by
  have h := width_pos t
  have e : t.width * (i + 1) - 1 + 1 - t.width * i = t.width := by rw [Nat.mul_succ]; omega
  rw [el, bits, e]
  exact Nat.mod_lt _ (Nat.two_pow_pos _)

theorem toNat_el (t : Ty) (x : Word) (i : Nat) : (BitVec.ofNat t.width (el t x i)).toNat = el t x i := by
  rw [BitVec.toNat_ofNat, Nat.mod_eq_of_lt (el_lt t x i)]

theorem elInt_el (t : Ty) (x : Word) (i : Nat) : elInt t (el t x i) = t.int (el t x i) := by
  conv_rhs => rw [← toNat_el, int_toNat, toNat_el]
  rfl

theorem map_els {α : Type} (t : Ty) (f : Nat → α) (a : Word) :
    (els t a).map f = (List.range t.count).map (fun i => f (el t a i)) := by
  rw [els, List.map_map]; rfl

/-- Two operands taken element by element, as one pass over the element numbers. -/
theorem zipWith_els {α : Type} (t : Ty) (f : Nat → Nat → α) (a b : Word) :
    (els t a).zipWith f (els t b) = (List.range t.count).map (fun i => f (el t a i) (el t b i)) := by
  rw [els, els, List.zipWith_map, List.zipWith_self]

/-- One flag that some members of a list raise. -/
theorem foldl_or_when {α : Type} (p : α → Bool) (c : Flags) (xs : List α) (acc : Flags) :
    xs.foldl (fun acc x => acc ||| Flags.when (p x) c) acc = acc ||| Flags.when (xs.any p) c := by
  induction xs generalizing acc with
  | nil => simp [Flags.when]
  | cons x xs ih =>
    rw [List.foldl_cons, ih, List.any_cons]
    cases p x <;> cases xs.any p <;> simp [Flags.when, BitVec.or_assoc]

theorem foldl_or_when_zero {α : Type} (p : α → Bool) (c : Flags) (xs : List α) :
    xs.foldl (fun acc x => acc ||| Flags.when (p x) c) 0 = Flags.when (xs.any p) c :=
  (foldl_or_when p c xs 0).trans BitVec.zero_or

theorem foldl_or_zero {α : Type} (xs : List α) : xs.foldl (fun (acc : Flags) _ => acc ||| 0) 0 = 0 := by
  simp

/-- An operation of the model on the numbers of two elements gives the number of a bit-vector operation's result, and raises no
flag. -/
def Computes (t : Ty) (f : Nat → Nat → Nat × Flags) (g : BitOp) : Prop :=
  ∀ x y : BitVec t.width, f x.toNat y.toNat = ((g t t.width x y).toNat, 0)

/-- What such an operation gives on an element of two values. -/
theorem Computes.on_el {t : Ty} {f : Nat → Nat → Nat × Flags} {g : BitOp} (h : Computes t f g) (a b : Word) (i : Nat) :
    f (el t a i) (el t b i) =
      ((g t t.width (BitVec.ofNat t.width (el t a i)) (BitVec.ofNat t.width (el t b i))).toNat, 0) := by
  rw [← h, toNat_el, toNat_el]

theorem Computes.each2_eq {t : Ty} {f : Nat → Nat → Nat × Flags} {g : BitOp} (h : Computes t f g) (a b : Word) :
    each2 t f a b = (eachBits g t a b, 0) := by
  simp only [each2, zipWith_els, h.on_el, List.map_map, List.foldl_map, foldl_or_zero]
  rfl

/-- An operation on one operand is one on two that leaves the second out. -/
theorem Computes.each1_eq {t : Ty} {f : Nat → Nat × Flags} {g : BitOp} (h : Computes t (fun a _ => f a) g) (a b : Word) :
    each1 t f a = (eachBits g t a b, 0) := by
  rw [← h.each2_eq a b, each1, each2, zipWith_els, map_els]

/-! The element functions of the model, each with the bit-vector operation that it computes. -/
section Ops

theorem computes_add {t : Ty} (ht : t.isFloat = false) (fm : FMode) (r : Rnd) :
    Computes t (elAdd t fm r) (fun _ _ a b => a + b) := fun x y => by
  rw [elAdd, if_neg (by simp [ht]), wrapped_eq, BitVec.ofInt_add, ofInt_toNat, ofInt_toNat]

theorem computes_sub {t : Ty} (ht : t.isFloat = false) (fm : FMode) (r : Rnd) :
    Computes t (elSub t fm r) (fun _ _ a b => a - b) := fun x y => by
  rw [elSub, if_neg (by simp [ht]), wrapped_eq, Int.sub_eq_add_neg, BitVec.ofInt_add, BitVec.ofInt_neg, ofInt_toNat, ofInt_toNat,
    ← BitVec.sub_eq_add_neg]

theorem computes_mul {t : Ty} (ht : t.isFloat = false) (fm : FMode) (r : Rnd) :
    Computes t (elMul t fm r) (fun _ _ a b => a * b) := fun x y => by
  rw [elMul, if_neg (by simp [ht]), wrapped_eq, BitVec.ofInt_mul, ofInt_toNat, ofInt_toNat]

theorem computes_and (t : Ty) : Computes t elAnd (fun _ _ a b => a &&& b) := fun x y => by
  rw [elAnd, BitVec.toNat_and]

theorem computes_or (t : Ty) : Computes t elOr (fun _ _ a b => a ||| b) := fun x y => by
  rw [elOr, BitVec.toNat_or]

theorem computes_xor (t : Ty) : Computes t elXor (fun _ _ a b => a ^^^ b) := fun x y => by
  rw [elXor, BitVec.toNat_xor]

/-- What is left of a number when the bits it shares with another are taken away. -/
theorem toNat_and_not {w : Nat} (x y : BitVec w) : (x &&& ~~~y).toNat = x.toNat - (x.toNat &&& y.toNat) := by
  have hd : x &&& ~~~y &&& (x &&& y) = 0#w := by
    ext i hi; cases hx : x[i] <;> cases hy : y[i] <;> simp [hx, hy]
  have hs : (x &&& ~~~y) + (x &&& y) = x := by
    rw [BitVec.add_eq_or_of_and_eq_zero _ _ hd]
    ext i hi; cases hx : x[i] <;> simp [hx]
  have hn := BitVec.toNat_add_of_and_eq_zero hd
  rw [hs, BitVec.toNat_and x y] at hn
  omega

theorem computes_andn (t : Ty) : Computes t elAndn (fun _ _ a b => a &&& ~~~b) := fun x y => by
  rw [elAndn, toNat_and_not]

theorem computes_shl (t : Ty) : Computes t (elShl t) (fun _ w a b => a <<< (b.toNat % w)) := fun x y => by
  rw [elShl, BitVec.toNat_shiftLeft]

theorem computes_shr (t : Ty) : Computes t (elShr t) opShr := fun x y => by
  rw [elShr, wrapped_eq, int_toNat, opShr]
  cases t.isI with
  | true => rw [if_pos rfl, if_pos rfl, BitVec.sshiftRight, Int.shiftRight_eq_div_pow]
  | false =>
    rw [if_neg Bool.false_ne_true, if_neg Bool.false_ne_true, ← Int.natCast_ediv, ← Nat.shiftRight_eq_div_pow,
      ← BitVec.toNat_ushiftRight, ofInt_toNat]

theorem computes_min {t : Ty} (ht : t.isFloat = false) (fm : FMode) : Computes t (elMin t fm) opMin := fun x y => by
  rw [elMin, if_neg (by simp [ht]), int_toNat, int_toNat, opMin]
  cases t.isI with
  | true => simp [BitVec.slt, apply_ite BitVec.toNat]
  | false => simp [BitVec.ult, apply_ite BitVec.toNat]

theorem computes_max {t : Ty} (ht : t.isFloat = false) (fm : FMode) : Computes t (elMax t fm) opMax := fun x y => by
  rw [elMax, if_neg (by simp [ht]), int_toNat, int_toNat, opMax]
  cases t.isI with
  | true => simp [BitVec.slt, apply_ite BitVec.toNat]
  | false => simp [BitVec.ult, apply_ite BitVec.toNat]

theorem computes_abs {t : Ty} (hi : t.isI = true) : Computes t (fun a _ => elAbs t a) (fun _ _ a _ => if a.msb then -a else a) :=
  fun x y => by
  have ht : t.isFloat = false := by simp [Ty.isFloat, hi]
  show elAbs t x.toNat = _
  rw [elAbs, if_neg (by simp [ht]), wrapped_eq, int_toNat, if_pos hi]
  beta_reduce
  rw [BitVec.msb_eq_toInt]
  by_cases h : x.toInt < 0
  · rw [Int.ofNat_natAbs_of_nonpos h.le, BitVec.ofInt_neg, BitVec.ofInt_toInt, if_pos (decide_eq_true h)]
  · rw [Int.natAbs_of_nonneg (not_lt.1 h), BitVec.ofInt_toInt, if_neg (by simpa using h)]

theorem computes_neg {t : Ty} (ht : t.isFloat = false) : Computes t (fun a _ => elNeg t a) (fun _ _ a _ => -a) := fun x y => by
  show elNeg t x.toNat = _
  rw [elNeg, if_neg (by simp [ht]), wrapped_eq, BitVec.ofInt_neg, ofInt_toNat]

end Ops

section Saturate

theorem range_le (t : Ty) : t.range.1 ≤ t.range.2 := by cases t <;> decide

/-- A clamp gives the nearest number of the range, and SAT where that is another number. -/
theorem clampInt_eq (t : Ty) (i : Int) : clampInt t i = (clampTo t i, Flags.when (clampTo t i ≠ i) .sat) := by
  have hr := range_le t
  unfold clampInt clampTo
  by_cases hlo : i < t.range.1
  · have e : max t.range.1 (min t.range.2 i) = t.range.1 := by omega
    rw [if_pos hlo, e, decide_eq_true (by omega)]; rfl
  · rw [if_neg hlo]
    by_cases hhi : i > t.range.2
    · have e : max t.range.1 (min t.range.2 i) = t.range.2 := by omega
      rw [if_pos hhi, e, decide_eq_true (by omega)]; rfl
    · have e : max t.range.1 (min t.range.2 i) = i := by omega
      rw [if_neg hhi, e, decide_eq_false (by simp)]; rfl

/-- Some element of an exact operation is clamped. -/
def clamps (f : Int → Int → Int) (t : Ty) (a b : Word) : Bool :=
  (List.range t.count).any (fun i =>
    let x := f (elInt t (el t a i)) (elInt t (el t b i))
    clampTo t x ≠ x)

theorem satRaised_eq (f : Int → Int → Int) (v : Env) (t : Ty) (a b : BitVec 8) :
    satRaised f v t a b = Flags.when (v.lanes.any (fun l => clamps f t (v.read a t l) (v.read b t l))) .sat := rfl

/-- An exact operation of the integers of two elements, clamped, element by element. -/
theorem each2_clamped (f : Int → Int → Int) (t : Ty) (a b : Word) :
    each2 t (fun x y => (wrap t.width (clampInt t (f (t.int x) (t.int y))).1, (clampInt t (f (t.int x) (t.int y))).2)) a b
      = (eachClamped f t a b, Flags.when (clamps f t a b) .sat) := by
  simp only [each2, zipWith_els, clampInt_eq, wrap_eq_ofInt, ← elInt_el, List.map_map, List.foldl_map, foldl_or_when_zero]
  rfl

end Saturate

section Word32

theorem width_of_word_type {t : Ty} (h : t = .i32 ∨ t = .n32) : t.width = 32 := by
  rcases h with rfl | rfl <;> rfl

variable {t : Ty} (ht : t.width = 32)
include ht

/-- A type of 32 bits has one element, the value itself. -/
theorem els_word (x : Word) : els t x = [x.toNat] := by
  have e : el t x 0 = x.toNat := by
    simp only [el, bits, ht]; exact Nat.mod_eq_of_lt x.isLt
  rw [els, Ty.count, ht, ← e]; rfl

theorem put_word (n : Nat) : put t [n] = BitVec.ofNat 32 n := by
  apply BitVec.eq_of_toNat_eq
  simp [put, ht]

theorem each2_word (f : Nat → Nat → Nat × Flags) (a b : Word) :
    each2 t f a b = (BitVec.ofNat 32 (f a.toNat b.toNat).1, (f a.toNat b.toNat).2) := by
  simp [each2, els_word ht, put_word ht]

theorem each3_word (f : Nat → Nat → Nat → Nat × Flags) (a b c : Word) :
    each3 t f a b c = (BitVec.ofNat 32 (f a.toNat b.toNat c.toNat).1, (f a.toNat b.toNat c.toNat).2) := by
  simp [each3, els_word ht, put_word ht]

/-- A move of the one element of a value moves the value. -/
theorem eachBits_second (a b : Word) : eachBits (fun _ _ _ b => b) t a b = b := by
  simp only [eachBits, toNat_el, ← map_els t (fun x => x), List.map_id', els_word ht, put_word ht, BitVec.ofNat_toNat,
    BitVec.setWidth_eq]

end Word32

/-- The upper half of an exact product of 64 bits. -/
theorem extract_upper (p : Int) : (BitVec.ofInt 64 p).extractLsb' 32 32 = BitVec.ofInt 32 (p / (2 ^ 32 : Nat)) := by
  apply BitVec.eq_of_toNat_eq
  simp only [BitVec.extractLsb'_toNat, BitVec.toNat_ofInt, Nat.shiftRight_eq_div_pow]
  omega

theorem ofInt_zeroExtend (a : Word) : BitVec.ofInt 64 a.toNat = a.zeroExtend 64 := by
  rw [BitVec.ofInt_natCast, BitVec.ofNat_toNat]

/-- mulhi: the upper half of the exact product, signed for .i (R68). -/
theorem each2_mulhi {t : Ty} (h : t = .i32 ∨ t = .n32) (a b : Word) :
    each2 t (elMulhi t) a b = (if t.isI then (a.signExtend 64 * b.signExtend 64).extractLsb' 32 32
      else (a.zeroExtend 64 * b.zeroExtend 64).extractLsb' 32 32, 0) := by
  rcases h with rfl | rfl
  · have ha : Ty.i32.int a.toNat = a.toInt := int_toNat .i32 a
    have hb : Ty.i32.int b.toNat = b.toInt := int_toNat .i32 b
    rw [each2_word rfl, elMulhi, wrapped_eq, ha, hb, if_pos (by decide), BitVec.signExtend, BitVec.signExtend,
      ← BitVec.ofInt_mul, extract_upper]
    exact congrArg (·, 0) ((BitVec.ofNat_toNat ..).trans (BitVec.setWidth_eq _))
  · have ha : Ty.n32.int a.toNat = a.toNat := int_toNat .n32 a
    have hb : Ty.n32.int b.toNat = b.toNat := int_toNat .n32 b
    rw [each2_word rfl, elMulhi, wrapped_eq, ha, hb, if_neg (by decide), ← ofInt_zeroExtend, ← ofInt_zeroExtend,
      ← BitVec.ofInt_mul, extract_upper]
    exact congrArg (·, 0) ((BitVec.ofNat_toNat ..).trans (BitVec.setWidth_eq _))

theorem each3_mad {t : Ty} (h : t.width = 32) (a b c : Word) : each3 t (elMad t) a b c = (a * b + c, 0) := by
  rw [each3_word h, elMad, wrapped, wrap_eq_ofInt, h, BitVec.ofInt_add, BitVec.ofInt_mul, ofInt_toNat, ofInt_toNat, ofInt_toNat,
    BitVec.ofNat_toNat, BitVec.setWidth_eq]

section IntegerInstructions

theorem flagsOf_lanes (ls : List Nat) (F : Nat → Res) (p : Nat → Bool) (c : Flags) (h : ∀ l, (F l).2 = Flags.when (p l) c) :
    flagsOf (ls.map (fun l => (l, F l))) = Flags.when (ls.any p) c := by
  simp only [flagsOf, List.foldl_map, h, foldl_or_when_zero]

/-- A vector instruction whose lanes raise one flag, or none. -/
theorem writesLanes_raising {i : Instr} {s : State} {v : Env} {F : Env → Nat → Res} {d : Nat} {val : Nat → Word}
    {p : Nat → Bool} {c : Flags} (h : Ready i s v) (hx : exec i s = runPure i (vector F) s) (hd : v.d = d)
    (hv : ∀ l, F v l = (val l, Flags.when (p l) c)) : WritesLanes i s v d val (Flags.when (v.lanes.any p) c) := by
  obtain ⟨t, ht, ho⟩ := vector_spec i F s v h
  have hval : (fun l => (F v l).1) = val := funext fun l => by rw [hv]
  rw [hval, flagsOf_lanes v.lanes (F v) p c (fun l => by rw [hv]), hd] at ho
  exact ⟨t, hx.trans ht, ho⟩

/-- A vector instruction that raises no flag. -/
theorem writesLanes_quiet {i : Instr} {s : State} {v : Env} {F : Env → Nat → Res} {d : Nat} {val : Nat → Word}
    (h : Ready i s v) (hx : exec i s = runPure i (vector F) s) (hd : v.d = d) (hv : ∀ l, F v l = (val l, 0)) :
    WritesLanes i s v d val 0 := by
  have := writesLanes_raising (p := fun _ => false) (c := 0) h hx hd hv
  rwa [show Flags.when (v.lanes.any (fun _ => false)) 0 = 0 by simp [Flags.when]] at this

theorem ready_d {i : Instr} {s : State} {v : Env} {e : Enc} (h : Ready i s v) (he : i.enc = some e) (hm : e.major ≠ 0x1B) :
    v.d = e.t.d.toNat := by
  obtain rfl : v.e = e := Option.some.inj (h.enc.symm.trans he)
  rw [Env.d, Enc.dField, if_neg hm]

/-- A VX instruction that is ready has a type that its operation accepts (02_encoding R36, R37). -/
theorem ready_vxType {i : Instr} {s : State} {v : Env} {op : BitVec 8} {w : VxWord} (h : Ready i s v)
    (he : i.enc = some (encVx op w)) (hop : op ≠ 0x40) : vxType op.toNat (tyOf w) = true := by
  have hl := Laws.Encoding.legal_of_wf i _ h.wf he
  unfold Enc.illegal at hl
  have hr : ¬(encVx op w).shape.reserved = true := (check_none hl).1
  have hs : (encVx op w).shape = shapeVx ((op ++ w.ty).toNat / 16) (Ty.ofCode ((op ++ w.ty).toNat % 16)) w.w := rfl
  have ht := w.ty.isLt
  have h1 : (op ++ w.ty).toNat / 16 = op.toNat := by rw [Laws.Encoding.toNat_app]; omega
  have h2 : (op ++ w.ty).toNat % 16 = w.ty.toNat := by rw [Laws.Encoding.toNat_app]; omega
  rw [hs, h1, h2] at hr
  by_contra hv
  refine hr ?_
  have hn : ¬op.toNat = 0x40 := fun e => hop (BitVec.eq_of_toNat_eq e)
  rw [shapeVx, if_neg hn, if_pos (by simpa [tyOf] using hv)]
  rfl

/-- A VA operation on A and B. -/
theorem va2_writes {mk : VaWord → Instr} (major : BitVec 5) {t : Ty} {f : FMode → Nat → Nat → Nat × Flags} {g : BitOp}
    (hc : ∀ fm, Computes t (f fm) g) (he : ∀ w, (mk w).enc = some (encVa major w) := by intros; rfl)
    (hx : ∀ w s, exec (mk w) s = runPure (mk w) (va2 t f w) s := by intros; rfl) (hm : major ≠ 0x1B := by decide)
    (w : VaWord) (s : State) (v : Env) (h : Ready (mk w) s v) :
    WritesLanes (mk w) s v w.d.toNat (fun l => eachBits g t (v.read w.a t l) (v.read w.b t l)) 0 :=
  writesLanes_quiet h (hx w s) (ready_d h (he w) hm) (fun _ => (hc v.fm).each2_eq _ _)

/-- A move of B is a VA operation of one 32-bit element. -/
theorem vaMov_writes (w : VaWord) (s : State) (v : Env) (h : Ready (.vaMovB32 w) s v) :
    WritesLanes (.vaMovB32 w) s v w.d.toNat
      (fun l => eachBits (fun _ _ _ b => b) .b32 (v.read w.a .b32 l) (v.read w.b .b32 l)) 0 :=
  writesLanes_quiet (F := fun v l => plain (v.read w.b .b32 l)) h rfl
    (ready_d h rfl (show (0x13 : BitVec 5) ≠ 0x1B by decide))
    (fun _ => congrArg (·, 0) (eachBits_second rfl _ _).symm)

theorem vaTable_writes : ∀ p ∈ vaTable, ∀ (w : VaWord) (s : State) (v : Env), Ready (p.1 w) s v →
    WritesLanes (p.1 w) s v w.d.toNat (fun l => eachBits p.2.2 p.2.1 (v.read w.a p.2.1 l) (v.read w.b p.2.1 l)) 0 := by
  simp only [vaTable, List.forall_mem_cons]
  exact ⟨va2_writes 0x00 (fun fm => computes_add rfl fm .rne), va2_writes 0x01 (fun fm => computes_sub rfl fm .rne),
    va2_writes 0x02 (fun fm => computes_mul rfl fm .rne), va2_writes 0x03 (fun _ => computes_and _),
    va2_writes 0x04 (fun _ => computes_or _), va2_writes 0x05 (fun _ => computes_xor _),
    va2_writes 0x12 (fun _ => computes_andn _), va2_writes 0x06 (fun _ => computes_shl _),
    va2_writes 0x07 (fun _ => computes_shr _), va2_writes 0x08 (fun _ => computes_shr _),
    va2_writes 0x09 (fun fm => computes_min rfl fm), va2_writes 0x0A (fun fm => computes_max rfl fm),
    va2_writes 0x0B (fun fm => computes_min rfl fm), va2_writes 0x0C (fun fm => computes_max rfl fm),
    vaMov_writes, nofun⟩

theorem vx_d {i : Instr} {s : State} {v : Env} {op : BitVec 8} {w : VxWord} (h : Ready i s v)
    (he : i.enc = some (encVx op w)) : v.d = w.w.d.toNat :=
  ready_d h he (show (0x18 : BitVec 5) ≠ 0x1B by decide)

/-- A VX operation on the elements of A and B. -/
theorem vx2_writes {i : Instr} (op : BitVec 8) {w : VxWord} {s : State} {v : Env} {f : Ty → FMode → Nat → Nat → Nat × Flags}
    {g : BitOp} (h : Ready i s v) (hc : Computes (tyOf w) (f (tyOf w) v.fm) g)
    (he : i.enc = some (encVx op w) := by rfl) (hx : exec i s = runPure i (vx2 w f) s := by rfl) :
    WritesLanes i s v w.w.d.toNat (fun l => eachBits g (tyOf w) (v.read w.w.a (tyOf w) l) (v.read w.w.b (tyOf w) l)) 0 :=
  writesLanes_quiet h hx (vx_d h he) (fun _ => hc.each2_eq _ _)

/-- A VX operation on the elements of A. -/
theorem vx1_writes {i : Instr} (op : BitVec 8) {w : VxWord} {s : State} {v : Env} {f : Ty → FMode → Nat → Nat × Flags}
    {g : BitOp} (h : Ready i s v) (hc : Computes (tyOf w) (fun a _ => f (tyOf w) v.fm a) g)
    (he : i.enc = some (encVx op w) := by rfl) (hx : exec i s = runPure i (vx1 w f) s := by rfl) :
    WritesLanes i s v w.w.d.toNat (fun l => eachBits g (tyOf w) (v.read w.w.a (tyOf w) l) 0) 0 :=
  writesLanes_quiet h hx (vx_d h he) (fun _ => hc.each1_eq _ _)

/-- A VX operation of one word a lane. -/
theorem vxPlain_writes {i : Instr} (op : BitVec 8) {w : VxWord} {s : State} {v : Env} {F : Env → Nat → Word} (h : Ready i s v)
    (he : i.enc = some (encVx op w) := by rfl) (hx : exec i s = runPure i (vector (fun v l => plain (F v l))) s := by rfl) :
    WritesLanes i s v w.w.d.toNat (F v) 0 :=
  writesLanes_quiet h hx (vx_d h he) (fun _ => rfl)

/-- adds and subs: the elements of an exact operation, clamped, and SAT where a lane of Active clamps one (R68). -/
theorem vxClamped_writes {i : Instr} (op : BitVec 8) (f : Int → Int → Int) {w : VxWord} {s : State} {v : Env} (h : Ready i s v)
    (he : i.enc = some (encVx op w))
    (hx : exec i s = runPure i (vx2 w (fun t _ x y =>
      (wrap t.width (clampInt t (f (t.int x) (t.int y))).1, (clampInt t (f (t.int x) (t.int y))).2))) s) :
    WritesLanes i s v w.w.d.toNat (fun l => eachClamped f (tyOf w) (v.read w.w.a (tyOf w) l) (v.read w.w.b (tyOf w) l))
      (satRaised f v (tyOf w) w.w.a w.w.b) :=
  satRaised_eq f v (tyOf w) w.w.a w.w.b ▸ writesLanes_raising h hx (vx_d h he) (fun _ => each2_clamped f _ _ _)

/-- A move is of type .b32, one element (R83). -/
theorem vxMov_writes {w : VxWord} {s : State} {v : Env} (h : Ready (.vxMov w) s v) :
    WritesLanes (.vxMov w) s v w.w.d.toNat
      (fun l => eachBits (fun _ _ _ b => b) (tyOf w) (v.read w.w.a (tyOf w) l) (v.read w.w.b (tyOf w) l)) 0 := by
  have ht : tyOf w = .b32 := of_decide_eq_true (ready_vxType (op := 0x0B) h rfl (by decide))
  have hm := vxPlain_writes (F := fun v l => v.read w.w.b .b32 l) 0x0B h
  rw [ht]
  simpa only [eachBits_second (t := .b32) rfl] using hm

theorem vxTable_writes : ∀ p ∈ vxTable, ∀ (w : VxWord) (s : State) (v : Env), Ready (p.1 w) s v → (tyOf w).isFloat = false →
    WritesLanes (p.1 w) s v w.w.d.toNat (fun l => eachBits p.2 (tyOf w) (v.read w.w.a (tyOf w) l) (v.read w.w.b (tyOf w) l)) 0 := by
  simp only [vxTable, List.forall_mem_cons]
  exact ⟨fun w s v h ht => vx2_writes 0x00 h (computes_add ht v.fm (rndOf w.w)),
    fun w s v h ht => vx2_writes 0x01 h (computes_sub ht v.fm (rndOf w.w)),
    fun w s v h ht => vx2_writes 0x02 h (computes_mul ht v.fm (rndOf w.w)),
    fun _ _ _ h _ => vx2_writes 0x03 h (computes_and _), fun _ _ _ h _ => vx2_writes 0x04 h (computes_or _),
    fun _ _ _ h _ => vx2_writes 0x05 h (computes_xor _), fun _ _ _ h _ => vx2_writes 0x0A h (computes_andn _),
    fun _ _ v h ht => vx2_writes 0x08 h (computes_min ht v.fm), fun _ _ v h ht => vx2_writes 0x09 h (computes_max ht v.fm),
    fun _ _ _ h _ => vx2_writes 0x06 h (computes_shl _), fun _ _ _ h _ => vx2_writes 0x07 h (computes_shr _),
    fun _ _ _ h _ => vxMov_writes h, nofun⟩

theorem vxMulhi_writes {w : VxWord} {s : State} {v : Env} (h : Ready (.vxMulhi w) s v) :
    WritesLanes (.vxMulhi w) s v w.w.d.toNat (fun l =>
      let a := v.read w.w.a (tyOf w) l
      let b := v.read w.w.b (tyOf w) l
      if (tyOf w).isI then (a.signExtend 64 * b.signExtend 64).extractLsb' 32 32
      else (a.zeroExtend 64 * b.zeroExtend 64).extractLsb' 32 32) 0 := by
  have ht : tyOf w = .i32 ∨ tyOf w = .n32 := by
    simpa [vxType] using ready_vxType (op := 0x12) h rfl (by decide)
  exact writesLanes_quiet h rfl (vx_d h rfl) (fun _ => each2_mulhi ht _ _)

theorem vxMad_writes {w : VxWord} {s : State} {v : Env} (h : Ready (.vxMad w) s v) :
    WritesLanes (.vxMad w) s v w.w.d.toNat (fun l =>
      v.read w.w.a (tyOf w) l * v.read w.w.b (tyOf w) l + v.read w.w.x.c (tyOf w) l) 0 := by
  have ht : tyOf w = .i32 ∨ tyOf w = .n32 := by
    simpa [vxType] using ready_vxType (op := 0x13) h rfl (by decide)
  exact writesLanes_quiet h rfl (vx_d h rfl) (fun _ => each3_mad (width_of_word_type ht) _ _ _)

/-- abs takes signed and float types alone (02_encoding R36). -/
theorem isI_of_vxType_abs (t : Ty) : vxType 0x14 t = true → t.isFloat = false → t.isI = true := by
  cases t <;> decide

theorem vxAbs_writes {w : VxWord} {s : State} {v : Env} (h : Ready (.vxAbs w) s v) (ht : (tyOf w).isFloat = false) :
    WritesLanes (.vxAbs w) s v w.w.d.toNat (fun l =>
      eachBits (fun _ _ a _ => if a.msb then -a else a) (tyOf w) (v.read w.w.a (tyOf w) l) 0) 0 :=
  vx1_writes 0x14 h (computes_abs (isI_of_vxType_abs _ (ready_vxType (op := 0x14) h rfl (by decide)) ht))

/-- Settles O1: each instruction is a vector operation whose element function is the bit-vector operation of its table. -/
theorem integerResults : Obligations.IntegerResults :=
  ⟨vaTable_writes, vxTable_writes, fun _ _ _ h => vxClamped_writes 0x10 (· + ·) h rfl rfl,
    fun _ _ _ h => vxClamped_writes 0x11 (· - ·) h rfl rfl, fun _ _ _ h => vxMulhi_writes h, fun _ _ _ h => vxMad_writes h,
    fun _ _ _ h ht => vxAbs_writes h ht, fun _ _ _ h ht => vx1_writes 0x15 h (computes_neg ht)⟩

end IntegerInstructions

section Fields

/-- The model's reading of a field control word is the rule's (R71). -/
theorem fieldOf_eq (ctl : Word) : fieldOf ctl = fieldAt ctl := by
  simp [fieldOf, fieldAt, bits]

/-- A field lies inside the word. -/
theorem fieldAt_le (ctl : Word) : (fieldAt ctl).2 ≤ 32 - (fieldAt ctl).1 := Nat.min_le_right ..

/-- A number of m bits whose sign bits are put above it: its own bits, then ones. -/
theorem getLsbD_wrapWord_sub (f m i : Nat) (hf : f < 2 ^ m) (hm : m ≤ 32) (hi : i < 32) :
    (wrapWord ((f : Int) - ((2 ^ m : Nat) : Int))).getLsbD i = if i < m then f.testBit i else true := by
  have hp : 2 ^ 32 = 2 ^ m * 2 ^ (32 - m) := by rw [← Nat.pow_add, Nat.add_sub_cancel' hm]
  have hw : wrap 32 ((f : Int) - ((2 ^ m : Nat) : Int)) = 2 ^ m * (2 ^ (32 - m) - 1) + f := by
    have hle : 2 ^ m ≤ 2 ^ 32 := Nat.pow_le_pow_right (by decide) hm
    rw [Nat.mul_sub, Nat.mul_one, ← hp, wrap, ← Int.add_emod_right, Int.emod_eq_of_lt (by omega) (by omega)]
    omega
  rw [wrapWord, hw, BitVec.getLsbD_ofNat, decide_eq_true hi, Bool.true_and, Nat.testBit_two_pow_mul_add _ hf,
    Nat.testBit_two_pow_sub_one]
  by_cases h : i < m
  · rw [if_pos h, if_pos h]
  · rw [if_neg h, if_neg h, decide_eq_true (by omega)]

/-- The bits of the m-bit field of a at p. -/
theorem testBit_field (a : Word) (p : Nat) {m j : Nat} (hj : j < m) :
    (a.toNat >>> p % 2 ^ m).testBit j = a.getLsbD (p + j) := by
  rw [Nat.testBit_mod_two_pow, decide_eq_true hj, Nat.testBit_shiftRight, Bool.true_and]; rfl

/-- bfe: the field of a, sign-extended for .i (R71). -/
theorem isBfe_bfeWord (sgn : Bool) (a ctl : Word) : IsBfe sgn a ctl (bfeWord sgn a ctl) := by
  intro i hi
  have hle := fieldAt_le ctl
  unfold bfeWord
  rw [fieldOf_eq]
  generalize fieldAt ctl = pm at hle ⊢
  obtain ⟨p, m⟩ := pm
  dsimp only at hle ⊢
  by_cases hm : m = 0
  · subst hm; simp
  have htop : bit (a.toNat >>> p % 2 ^ m) (m - 1) = a.getLsbD (p + m - 1) := by
    rw [bit, testBit_field _ _ (by omega), Nat.add_sub_assoc (by omega)]
  rw [if_neg hm, htop, decide_eq_true (Nat.pos_of_ne_zero hm), Bool.and_true]
  by_cases hs : (sgn && a.getLsbD (p + m - 1)) = true
  · rw [if_pos hs, getLsbD_wrapWord_sub _ _ _ (Nat.mod_lt _ (Nat.two_pow_pos m)) (by omega) hi, hs]
    by_cases h : i < m
    · rw [if_pos h, if_pos h, testBit_field a p h]
    · rw [if_neg h, if_neg h]
  · rw [if_neg hs, BitVec.getLsbD_ofNat, decide_eq_true hi, Bool.true_and]
    by_cases h : i < m
    · rw [if_pos h, testBit_field a p h]
    · rw [if_neg h, Nat.testBit_mod_two_pow, decide_eq_false h, Bool.false_and]
      exact (Bool.eq_false_of_not_eq_true hs).symm

/-- bfi: the low bits of a at the field's place, the base elsewhere (R71). -/
theorem isBfi_bfiWord (a ctl base : Word) : IsBfi a ctl base (bfiWord a ctl base) := by
  intro i hi
  unfold bfiWord
  rw [fieldOf_eq]
  generalize fieldAt ctl = pm
  obtain ⟨p, m⟩ := pm
  dsimp only
  have hmask : (BitVec.ofNat 32 ((2 ^ m - 1) <<< p)).getLsbD i = decide (p ≤ i ∧ i < p + m) := by
    rw [BitVec.getLsbD_ofNat, decide_eq_true hi, Bool.true_and, Nat.testBit_shiftLeft, Nat.testBit_two_pow_sub_one,
      ← Bool.decide_and]
    exact decide_eq_decide.2 (by omega)
  rw [BitVec.getLsbD_or, BitVec.getLsbD_and, BitVec.getLsbD_and, BitVec.getLsbD_not, hmask, BitVec.getLsbD_shiftLeft]
  by_cases h : p ≤ i ∧ i < p + m
  · simp [h, hi, not_lt.2 h.1]
  · simp [h, hi]

/-- fshl: the upper half of the pair shifted left (R72). -/
theorem getLsbD_fshlWord (a b c : Word) (i : Nat) (hi : i < 32) :
    (fshlWord a b c).getLsbD i = (a ++ b).getLsbD (32 + i - c.toNat % 32) := by
  have hk : c.toNat % 32 < 32 := Nat.mod_lt _ (by decide)
  rw [fshlWord, BitVec.getLsbD_extractLsb', BitVec.getLsbD_shiftLeft, decide_eq_true hi, decide_eq_true (by omega),
    decide_eq_false (by omega)]
  rfl

/-- fshr: the lower half of the pair shifted right (R72). -/
theorem getLsbD_fshrWord (a b c : Word) (i : Nat) (hi : i < 32) :
    (fshrWord a b c).getLsbD i = (a ++ b).getLsbD (i + c.toNat % 32) := by
  rw [fshrWord, BitVec.getLsbD_extractLsb', BitVec.getLsbD_ushiftRight, decide_eq_true hi, Bool.true_and, Nat.zero_add]
  congr 1; omega

theorem popCount_eq (w x : Nat) : popCount w x = ((List.range w).filter x.testBit).length := by
  induction w generalizing x with
  | zero => rfl
  | succ w ih =>
    rw [popCount, ih, List.range_succ_eq_map, List.filter_cons, List.filter_map, Nat.testBit_zero]
    have hs : x.testBit ∘ Nat.succ = (x / 2).testBit := funext fun j => Nat.testBit_succ ..
    rw [hs]
    by_cases h : x % 2 = 1
    · simp [h, Nat.add_comm]
    · simp [show x % 2 = 0 by omega]

/-- popc counts the 1 bits (R73). -/
theorem isPopc_popcWord (a : Word) : IsPopc a (popcWord a) := by
  have hl : ((List.range 32).filter a.toNat.testBit).length ≤ 32 :=
    (List.length_filter_le ..).trans (List.length_range ..).le
  rw [IsPopc, popcWord, popCount_eq, BitVec.toNat_ofNat, Nat.mod_eq_of_lt (by omega)]
  rfl

/-- clz counts the zeros above the highest 1 bit, whose number is the logarithm (R73). -/
theorem isClz_clzWord (a : Word) : IsClz a (clzWord a) := by
  refine ⟨fun h => if_pos h, fun h => ?_⟩
  have hn : a.toNat ≠ 0 := fun e => h (BitVec.eq_of_toNat_eq e)
  have hlog : a.toNat.log2 < 32 := (Nat.log2_lt hn).2 a.isLt
  have hr : (clzWord a).toNat = 31 - a.toNat.log2 := by
    rw [clzWord, if_neg h, BitVec.toNat_ofNat, Nat.mod_eq_of_lt (by omega)]
  have htop : 31 - (31 - a.toNat.log2) = a.toNat.log2 := by omega
  rw [hr, htop]
  exact ⟨by omega, Nat.testBit_log2 hn, fun j hj _ => Nat.testBit_lt_two_pow ((Nat.log2_lt hn).1 hj)⟩

/-- brev puts each bit at the mirrored place (R73). -/
theorem getLsbD_brevWord (a : Word) (j : Nat) (hj : j < 32) : (brevWord a).getLsbD (31 - j) = a.getLsbD j := by
  rw [brevWord, BitVec.getLsbD_reverse, BitVec.getMsbD_eq_getLsbD, decide_eq_true (by omega), Bool.true_and]
  congr 1; omega

end Fields

section BitFieldInstructions

/-- bfe is signed at type code 0, .i32, of the two it takes (02_encoding R36). -/
theorem isI_of_vxType_bfe : ∀ ty : BitVec 4, vxType 0x17 (Ty.ofCode ty.toNat) = true →
    (Ty.ofCode ty.toNat).isI = decide (ty = 0) := by decide

/-- An operand reads the same at every type of 32 bits (02_encoding R33). -/
theorem read_word {t : Ty} (ht : t.width = 32) (v : Env) (c : BitVec 8) (l : Nat) : v.read c t l = v.read c .b32 l := by
  have hc : ∀ k, inlineAs k t = inlineAs k .b32 := fun k => by
    rw [inlineAs, inlineAs, if_pos (.inl ht), if_pos (.inl rfl)]
  simp only [Env.read, readOperand, hc]

theorem vxLea_writes {w : VxWord} {s : State} {v : Env} (h : Ready (.vxLea w) s v) :
    WritesLanes (.vxLea w) s v w.w.d.toNat (fun l =>
      v.read w.w.a .n32 l + (v.read w.w.b .n32 l <<< (w.w.x.mod2.extractLsb' 0 3).toNat)) 0 := by
  have hk : (w.w.x.mod2.extractLsb' 0 3).toNat = w.w.x.mod2.toNat % 8 := BitVec.extractLsb'_toNat ..
  rw [hk]
  exact vxPlain_writes (F := fun v l => leaWord (w.w.x.mod2.toNat % 8) (v.read w.w.a .n32 l) (v.read w.w.b .n32 l)) 0x16 h

theorem vxBfe_writes {w : VxWord} {s : State} {v : Env} (h : Ready (.vxBfe w) s v) : ∃ val,
    (∀ l, IsBfe (tyOf w).isI (v.read w.w.a (tyOf w) l) (v.read w.w.b (tyOf w) l) (val l))
      ∧ WritesLanes (.vxBfe w) s v w.w.d.toNat val 0 := by
  have ht := ready_vxType (op := 0x17) h rfl (by decide)
  have hw : (tyOf w).width = 32 := width_of_word_type (by simpa [vxType] using ht)
  rw [show (tyOf w).isI = decide (w.ty = 0) from isI_of_vxType_bfe w.ty ht]
  simp only [read_word hw]
  exact ⟨_, fun _ => isBfe_bfeWord _ _ _,
    vxPlain_writes (F := fun v l => bfeWord (w.ty = 0) (v.read w.w.a .b32 l) (v.read w.w.b .b32 l)) 0x17 h⟩

theorem vxSel_writes {w : VxWord} {s : State} {v : Env} (h : Ready (.vxSel w) s v) :
    WritesLanes (.vxSel w) s v w.w.d.toNat (fun l =>
      if ((v.x.regs.getQ (w.w.x.mod2.extractLsb' 0 3).toNat).has l).xor (w.w.x.mod2.getLsbD 3) then v.read w.w.a .b32 l
      else v.read w.w.b .b32 l) 0 := by
  have hk : (w.w.x.mod2.extractLsb' 0 3).toNat = w.w.x.mod2.toNat % 8 := BitVec.extractLsb'_toNat ..
  rw [hk]
  exact vxPlain_writes (F := fun v l =>
    if (v.x.regs.getQ (w.w.x.mod2.toNat % 8)).has l != bit w.w.x.mod2.toNat 3 then v.read w.w.a .b32 l
    else v.read w.w.b .b32 l) 0x38 h

/-- Settles O2: each instruction is a vector operation of one word a lane, whose bits are those that the rule names. -/
theorem bitFieldResults : Obligations.BitFieldResults :=
  ⟨fun _ _ _ h => vxLea_writes h, fun _ _ _ h => vxBfe_writes h,
    fun w _ _ h => ⟨_, fun _ => isBfi_bfiWord _ _ _,
      vxPlain_writes (F := fun v l => bfiWord (v.read w.w.a .b32 l) (v.read w.w.b .b32 l) (v.read w.w.x.c .b32 l)) 0x18 h⟩,
    fun w _ _ h => ⟨_, fun _ => getLsbD_fshlWord _ _ _,
      vxPlain_writes (F := fun v l => fshlWord (v.read w.w.a .b32 l) (v.read w.w.b .b32 l) (v.read w.w.x.c .b32 l)) 0x19 h⟩,
    fun w _ _ h => ⟨_, fun _ => getLsbD_fshrWord _ _ _,
      vxPlain_writes (F := fun v l => fshrWord (v.read w.w.a .b32 l) (v.read w.w.b .b32 l) (v.read w.w.x.c .b32 l)) 0x1A h⟩,
    fun w _ _ h => ⟨_, fun _ => isPopc_popcWord _, vxPlain_writes (F := fun v l => popcWord (v.read w.w.a .b32 l)) 0x1B h⟩,
    fun w _ _ h => ⟨_, fun _ => isClz_clzWord _, vxPlain_writes (F := fun v l => clzWord (v.read w.w.a .b32 l)) 0x1C h⟩,
    fun w _ _ h => ⟨_, fun _ => getLsbD_brevWord _, vxPlain_writes (F := fun v l => brevWord (v.read w.w.a .b32 l)) 0x1D h⟩,
    fun _ _ _ h => vxSel_writes h⟩

end BitFieldInstructions
end Sys2Proof.Proofs.Lane

/-!
PROOFS. Taking a trap (07_context R145 to R147): the bytes of the frame, the translation of a page that a site holds, what
asking a context's teams to give way leaves, and the two ends of a trap whose frame is queued.
-/
namespace Sys2Proof.Proofs.Context

open Sys2Proof Sys2Proof.Machine Sys2Proof.Claims

section FrameBytes

@[simp] theorem length_toBytes (n x : Nat) : (toBytes n x).length = n := by
  induction n generalizing x with
  | zero => rfl
  | succ n ih => rw [toBytes, List.length_cons, ih]

theorem ofBytes_toBytes (n x : Nat) : ofBytes (toBytes n x) = x % 256 ^ n := by
  induction n generalizing x with
  | zero => rw [Nat.pow_zero, Nat.mod_one]; rfl
  | succ n ih =>
    rw [toBytes, ofBytes, ih, BitVec.toNat_ofNat, Nat.pow_succ' (m := 256)]
    exact (Nat.mod_mul ..).symm

theorem ofBytes_replicate_zero (n : Nat) : ofBytes (List.replicate n 0) = 0 := by
  induction n with
  | zero => rfl
  | succ n ih => rw [List.replicate_succ, ofBytes, ih]; rfl

/-- A number that stands behind the first of two runs of bytes. -/
theorem numAt_append_right {a : List Byte} {off : Nat} (h : a.length ≤ off) (b : List Byte) (n : Nat) :
    numAt (a ++ b) off n = numAt b (off - a.length) n := by
  rw [numAt, List.drop_append, List.drop_of_length_le h, List.nil_append]
  rfl

/-- A number that stands within the first of two runs of bytes. -/
theorem numAt_append_left {a : List Byte} {off n : Nat} (h : off + n ≤ a.length) (b : List Byte) :
    numAt (a ++ b) off n = numAt a off n := by
  rw [numAt, numAt, List.drop_append_of_le_length (by omega), List.take_append_of_le_length (by rw [List.length_drop]; omega)]

theorem numAt_toBytes (n x : Nat) : numAt (toBytes n x) 0 n = x % 256 ^ n := by
  rw [numAt, List.drop_zero, List.take_of_length_le (length_toBytes n x).le, ofBytes_toBytes]

theorem numAt_replicate_zero (n : Nat) : numAt (List.replicate n 0) 0 n = 0 := by
  rw [numAt, List.drop_zero, List.take_of_length_le (List.length_replicate ..).le, ofBytes_replicate_zero]

/-- One number of n bytes for each of a list, in its order. -/
def numbers (n : Nat) (vs : List Nat) : List Byte := (vs.map (toBytes n)).flatten

@[simp] theorem length_numbers (n : Nat) (vs : List Nat) : (numbers n vs).length = n * vs.length := by
  induction vs with
  | nil => rfl
  | cons v vs ih =>
    rw [numbers, List.map_cons, List.flatten_cons, List.length_append, length_toBytes, ← numbers, ih, List.length_cons]
    ring

theorem numAt_numbers (n : Nat) {vs : List Nat} {i v : Nat} (h : vs[i]? = some v) :
    numAt (numbers n vs) (n * i) n = v % 256 ^ n := by
  induction vs generalizing i with
  | nil => cases h
  | cons w vs ih =>
    rw [numbers, List.map_cons, List.flatten_cons, ← numbers]
    cases i with
    | zero =>
      obtain rfl : w = v := Option.some.inj h
      rw [Nat.mul_zero, numAt_append_left (by simp), numAt_toBytes]
    | succ i =>
      have hi : n * (i + 1) - n = n * i := by rw [Nat.mul_succ, Nat.add_sub_cancel]
      rw [numAt_append_right (by simp [Nat.mul_succ]), length_toBytes, hi, ih h]

/-- A field of every lane, 0 for the lanes that the group has not (07_context R146). -/
def laneFields (x : Group) (f : Lane → Nat) : List Nat := (List.range 64).map (fun l => if l < x.w then f (x.lane l) else 0)

@[simp] theorem length_laneFields (x : Group) (f : Lane → Nat) : (laneFields x f).length = 64 := by
  rw [laneFields, List.length_map, List.length_range]

/-- A lane's record in a table of the frame, of a field that its bytes can hold. -/
theorem numAt_laneFields {n : Nat} {x : Group} {f : Lane → Nat} (hf : ∀ a, f a < 256 ^ n) {l : Nat} (hl : l < 64)
    {off : Nat} (ho : off = n * l) : numAt (numbers n (laneFields x f)) off n = if l < x.w then f (x.lane l) else 0 := by
  have h : (laneFields x f)[l]? = some (if l < x.w then f (x.lane l) else 0) := by
    rw [laneFields, List.getElem?_map, List.getElem?_range hl]; rfl
  rw [ho, numAt_numbers n h]
  refine Nat.mod_eq_of_lt ?_
  split
  · exact hf _
  · positivity

/-- What follows the header of a trap frame: the tables of the lanes' records, and zeros (07_context R146). -/
def laneTables (x : Group) : List Byte :=
  numbers 4 (laneFields x (fun l => l.pc.toNat)) ++ (numbers 4 (laneFields x (fun l => l.mr.toNat))
    ++ (numbers 1 (laneFields x (fun l => l.st.code)) ++ (numbers 4 (laneFields x (fun l => l.cb.toNat))
    ++ List.replicate 128 0)))

theorem frameBytes_eq (x : Group) (t : Trap) (ipc npc cbase : Word) (imask : Mask) :
    frameBytes x t ipc npc cbase imask = frameHead t ipc npc cbase imask ++ laneTables x := by
  simp only [frameBytes, laneTables, numbers, laneFields, List.map_map, List.append_assoc]
  rfl

@[simp] theorem length_frameHead (t : Trap) (ipc npc cbase : Word) (imask : Mask) :
    (frameHead t ipc npc cbase imask).length = 64 := by simp [frameHead]

/-- The header of a trap frame holds each field at its place, whatever follows it (07_context R146). -/
theorem numAt_frameHead (t : Trap) (ipc npc cbase : Word) (imask : Mask) (b : List Byte) :
    let h := frameHead t ipc npc cbase imask ++ b
    numAt h 0x38 8 = t.addr % 2 ^ 64 ∧ numAt h 0x30 8 = imask.toNat ∧ numAt h 0x28 8 = t.tmask.toNat
      ∧ numAt h 0x24 4 = ipc.toNat ∧ numAt h 0x20 4 = npc.toNat ∧ numAt h 0x1C 4 = cbase.toNat
      ∧ numAt h 0x18 4 = t.info % 2 ^ 32 ∧ numAt h 0x17 1 = t.cause.code ∧ numAt h 0 23 = 0 := by
  have hc : t.cause.code < 256 := by cases t.cause <;> decide
  have word (w : Word) : w.toNat % 256 ^ 4 = w.toNat := Nat.mod_eq_of_lt w.isLt
  have mask (m : Mask) : m.toNat % 256 ^ 8 = m.toNat := Nat.mod_eq_of_lt m.isLt
  have code : t.cause.code % 256 ^ 1 = t.cause.code := Nat.mod_eq_of_lt hc
  simp only [frameHead, List.append_assoc]
  refine ⟨?_, ?_, ?_, ?_, ?_, ?_, ?_, ?_, ?_⟩ <;>
    simp (disch := simp) only [numAt_append_right, numAt_append_left, length_toBytes, List.length_replicate, Nat.reduceSub,
      numAt_toBytes, numAt_replicate_zero, word, mask, code] <;> rfl

/-- The bytes that a trap writes are its frame. -/
theorem isFrame_frameBytes (x : Group) (t : Trap) (ipc npc cbase : Word) (imask : Mask) :
    IsFrame (frameBytes x t ipc npc cbase imask) x t ipc npc cbase imask := by
  obtain ⟨haddr, himask, htmask, hipc, hnpc, hcbase, hinfo, hcause, hzero⟩ :=
    numAt_frameHead t ipc npc cbase imask (laneTables x)
  have word (f : Lane → Word) (a : Lane) : (f a).toNat < 256 ^ 4 := (f a).isLt
  have code (a : Lane) : a.st.code < 256 ^ 1 := by cases a.st <;> decide
  rw [frameBytes_eq]
  refine ⟨by simp [laneTables], haddr, himask, htmask, hipc, hnpc, hcbase, hinfo, hcause, hzero, fun l hl => ?_, ?_⟩
  · refine ⟨?_, ?_, ?_, ?_⟩ <;>
      simp (disch := simp only [length_frameHead, length_numbers, length_laneFields]; omega) only [laneTables,
        numAt_append_right, numAt_append_left, numAt_laneFields (word _) hl, numAt_laneFields code hl]
  · simp (disch := simp) only [laneTables, numAt_append_right, length_frameHead, length_numbers, length_laneFields,
      Nat.reduceSub, Nat.reduceMul, numAt_replicate_zero]

end FrameBytes

section Translation

/-- A state with the translation caches and fault slots that a translation leaves. -/
def translated (s : State) (tlb : Tab (List Leaf)) (faults : Tab FaultSlot) : State := { s with tlb := tlb, faults := faults }

/-- A leaf entering the nearest cache of a site changes the translation caches alone. -/
theorem touch_eq (s : State) (p : Site) (c va : Nat) : ∃ tlb, s.touch p c va = translated s tlb s.faults := by
  unfold State.touch
  split
  · split
    · exact ⟨s.tlb, rfl⟩
    · exact ⟨_, rfl⟩
  · exact ⟨s.tlb, rfl⟩

/-- A write through a cached leaf that lets it through, with D set, walks no table (06_page R131, R132). -/
theorem xlatD_of_cached {s : State} {p : Site} {c va : Nat} {l : Leaf} (hl : s.cached p c (va % 2 ^ 52) = some l)
    (hm : pteM l.pte = false) (hw : pteW l.pte = true) (hc : pteC l.pte = false) (hd : pteD l.pte = true) :
    ∃ tlb, s.xlatD p c va false = (translated s tlb s.faults, .ok l) := by
  obtain ⟨tlb, ht⟩ := touch_eq s p c (va % 2 ^ 52)
  have hx : s.xlat p c (va % 2 ^ 52) true false = (translated s tlb s.faults, .ok l) := by
    simp only [State.xlat, State.look, Nat.mod_mod, hl, pteOpen, ht]
    simp [hm, hw, hc]
  exact ⟨tlb, by simp only [State.xlatD, hx, State.entryHolds, State.setDirty, hd, Bool.true_or, if_true]⟩

end Translation

section GivingWay

/-- A change of every value of a table that keeps its key, read at one key. -/
theorem find_map {α : Type} (m : Tab α) (k : Nat) (f : Nat × α → Nat × α) (hf : ∀ e, (f e).1 = e.1) :
    Tab.find (m.map f) k = (Tab.find m k).map (fun x => (f (k, x)).2) := by
  induction m with
  | nil => rfl
  | cons e m ih =>
    obtain ⟨j, x⟩ := e
    rw [List.map_cons, ← Prod.mk.eta (p := f (j, x)), hf, Tab.find, Tab.find, ih]
    split
    · next h => obtain rfl : j = k := h; rfl
    · rfl

/-- What asking teams to give way leaves of a state: everything but the teams, the cores and the groups, and of each group
everything but its request to stop (07_context R152). -/
def GaveWay (s u : State) : Prop :=
  ∃ teams cores groups, u = { s with teams := teams, cores := cores, groups := groups }
    ∧ ∀ g x, s.group g = some x → ∃ b, u.group g = some (x.modFlow (fun f => { f with stop := b }))

theorem GaveWay.refl (s : State) : GaveWay s s := ⟨_, _, _, rfl, fun _ x hx => ⟨x.flow.stop, hx⟩⟩

theorem GaveWay.trans {s t u : State} (h : GaveWay s t) (h' : GaveWay t u) : GaveWay s u := by
  obtain ⟨_, _, _, rfl, hg⟩ := h
  obtain ⟨_, _, _, rfl, hg'⟩ := h'
  refine ⟨_, _, _, rfl, fun g x hx => ?_⟩
  obtain ⟨_, hb⟩ := hg g x hx
  obtain ⟨b, hb'⟩ := hg' g _ hb
  exact ⟨b, hb'⟩

theorem gaveWay_modTeam (s : State) (t : Nat) (f : Team → Team) : GaveWay s (s.modTeam t f) := by
  unfold State.modTeam
  split
  · exact ⟨_, _, _, rfl, fun _ x hx => ⟨x.flow.stop, hx⟩⟩
  · exact .refl s

theorem gaveWay_askPreempt (s : State) (t : Nat) : GaveWay s (s.askPreempt t) := by
  refine (gaveWay_modTeam s t (fun y => { y with preempt := true })).trans ⟨_, _, _, rfl, fun g x hx => ?_⟩
  refine ⟨if x.team = t ∧ x.on then true else x.flow.stop, (find_map _ _ _ fun e => ?_).trans ?_⟩
  · split <;> rfl
  · rw [show Tab.find _ g = some x from hx, Option.map_some]
    split <;> rfl

/-- The teams of a context asked, one after another. -/
theorem gaveWay_foldl (ts : Tab Team) (s : State) (c : Nat) :
    GaveWay s (ts.foldl (fun s e => if (e : Nat × Team).2.ctx = c ∧ e.2.st ≠ .saved then s.askPreempt e.1 else s) s) := by
  induction ts generalizing s with
  | nil => exact .refl s
  | cons e ts ih =>
    refine GaveWay.trans ?_ (ih _)
    dsimp only
    split
    · exact gaveWay_askPreempt s e.1
    · exact .refl s

/-- Draining changes a context that runs to Draining, and asks its teams to give way (07_context R142). -/
theorem drain_gaveWay (s : State) (c : Nat) : ∃ ctxs, GaveWay { s with ctxs := ctxs } (s.drain c)
    ∧ Tab.get {} ctxs c = { s.ctx c with st := if (s.ctx c).st = .running then .draining else (s.ctx c).st } := by
  unfold State.drain
  split
  · exact ⟨_, gaveWay_foldl _ _ _, Tab.get_set_self ..⟩
  · exact ⟨s.ctxs, .refl s, rfl⟩

end GivingWay

section Ends

/-- Groups, teams, cores, contexts, translation caches and fault slots hold no byte of memory. -/
theorem sameMemory_replaced (s : State) (groups : Tab Group) (teams : Tab Team) (cores : Tab Core) (ctxs : Tab Ctx)
    (tlb : Tab (List Leaf)) (faults : Tab FaultSlot) :
    SameMemory s { s with groups := groups, teams := teams, cores := cores, ctxs := ctxs, tlb := tlb, faults := faults } :=
  ⟨fun _ _ => rfl, fun _ _ => rfl, fun _ _ => rfl, fun _ _ => rfl⟩

/-- A group whose clause issue a trap ends. -/
def stopped (x : Group) : Group := x.modFlow (fun f => { f with clause := none, park := none, abort := none })

/-- The store of a trap frame at %tfbase through a leaf (07_context R146). -/
def frameStore (x : Group) (l : Leaf) (t : Trap) (ipc npc cbase : Word) (imask : Mask) : SqEnt :=
  let va := x.ctl.tfbase % 2 ^ 52
  { work := .store ((frameBytes x t ipc npc cbase imask).mapIdx (fun i b => (Loc.mem (l.pa va + i) (pteKey l.pte), b)))
    flag := none, pc := ipc, lanes := 0, addr := va, far := false, via := [l] }

/-- A group that takes a trap: its clause issue is over, and its frame is queued as a store (07_context R146). -/
def trapped (x : Group) (l : Leaf) (t : Trap) (ipc npc cbase : Word) (imask : Mask) : Group :=
  (stopped x).modIo (fun io => { io with sq := io.sq ++ [frameStore x l t ipc npc cbase imask] })

theorem frameQueued_of_io {x y : Group} {l : Leaf} {t : Trap} {ipc npc cbase : Word} {imask : Mask}
    (h : y.io = (trapped x l t ipc npc cbase imask).io) : FrameQueued x y l t ipc npc cbase imask := by
  have hf := isFrame_frameBytes x t ipc npc cbase imask
  refine ⟨_, _, h, rfl, rfl, rfl, fun i hi => ?_, ?_⟩
  · rw [List.getElem?_map, List.getElem?_mapIdx, List.getElem?_eq_getElem (hi.trans_eq hf.1.symm)]
    rfl
  · rwa [show List.map _ _ = frameBytes x t ipc npc cbase imask from List.ext_getElem? fun i => by
      rw [List.getElem?_map, List.getElem?_mapIdx, Option.map_map]; exact Option.map_id' ..]

/-- A trap whose frame's page the group's core holds: the frame is queued, and the trap is fatal or enters the handler
(07_context R145, R147). -/
theorem takeTrap_of_cached {s : State} {g : Nat} {x : Group} {tm : Team} {l : Leaf} (t : Trap) (ipc npc cbase : Word)
    (imask : Mask) (hx : s.group g = some x) (ht : s.team x.team = some tm)
    (hl : s.cached (.core x.core) tm.ctx (x.ctl.tfbase % 2 ^ 52) = some l) (hm : pteM l.pte = false)
    (hw : pteW l.pte = true) (hc : pteC l.pte = false) (hd : pteD l.pte = true) :
    ∃ tlb faults, s.takeTrap g t ipc npc cbase imask =
      if (s.ctx tm.ctx).d.trappc = clearWord ∨ x.ctl.tdepth ≠ 0 then
        ((translated s tlb faults).setGroup g (trapped x l t ipc npc cbase imask)).fatal g tm.ctx
          (if (s.ctx tm.ctx).d.trappc = clearWord then 1 else 2) t (x.ctl.tfbase % 2 ^ 52)
      else (translated s tlb faults).setGroup g
        ((trapped x l t ipc npc cbase imask).enterHandler (s.ctx tm.ctx).d.trappc s.sched.now) := by
  have hstop : s.modGroup g (fun x => x.modFlow (fun f => { f with clause := none, park := none, abort := none }))
      = s.setGroup g (stopped x) := s.modGroup_eq g x _ hx
  have hcached : ((s.setGroup g (stopped x)).walked (Party.isGroup g)).cached (.core x.core) tm.ctx
      (x.ctl.tfbase % 2 ^ 52 % 2 ^ 52) = some l := by rwa [Nat.mod_mod]
  obtain ⟨tlb, hz⟩ := xlatD_of_cached hcached hm hw hc hd
  have hz : ((s.setGroup g (stopped x)).walked (Party.isGroup g)).xlatD (.core x.core) tm.ctx (x.ctl.tfbase % 2 ^ 52) false
      = ((translated s tlb (s.walked (Party.isGroup g)).faults).setGroup g (stopped x), .ok l) := hz
  refine ⟨tlb, (s.walked (Party.isGroup g)).faults, ?_⟩
  simp only [State.takeTrap, hx, ht, hstop, hz, State.modGroup_setGroup]
  rfl

/-- Handler entry (07_context R147). -/
theorem enterHandler_spec (y : Group) (pc : Word) (now : Nat) :
    let z := y.enterHandler pc now
    z.io = y.io ∧ z.regs = y.regs ∧ z.ctl = { y.ctl with tdepth := 1, wdog0 := now } ∧ z.flow.clause = none
      ∧ z.flow.park = none ∧ z.flow.round = 0 ∧ z.flow.stepAside = 0 ∧ z.lanes.length = y.lanes.length
      ∧ ∀ (i : Nat) (a : Lane), y.lanes[i]? = some a → ∃ b, z.lanes[i]? = some b ∧ b.bypass = 0
        ∧ (a.st = .exited → b = { a with bypass := 0 })
        ∧ (a.st ≠ .exited → b.pc = pc ∧ b.mr = clearWord ∧ b.cb = clearWord ∧ b.st = .ready) := by
  refine ⟨rfl, rfl, rfl, rfl, rfl, rfl, rfl, List.length_map .., fun i a ha => ?_⟩
  refine ⟨_, (List.getElem?_map ..).trans (congrArg (Option.map _) ha), ?_⟩
  by_cases h : a.st = .exited
  · simp [h]
  · simp [h]

/-- The first fatal trap of a context as it is recorded (07_context R145). -/
def recorded (y : Ctx) (how : Nat) (t : Trap) (frame : Nat) : Ctx :=
  if y.fatal then y else { y with fatal := true, how := how, cause := t.cause.code, frame := frame / 1024 }

/-- The first fatal trap of a context is recorded, and none after it. -/
theorem recorded_spec (y : Ctx) (how : Nat) (t : Trap) (frame : Nat) :
    let z := recorded y how t frame
    z.fatal = true ∧ (y.fatal = false → z.how = how ∧ z.cause = t.cause.code ∧ z.frame = frame / 1024)
      ∧ (y.fatal = true → z.how = y.how ∧ z.cause = y.cause ∧ z.frame = y.frame) ∧ z.st = y.st := by
  cases h : y.fatal <;> simp [recorded, h]

/-- A group that a fatal trap stops (07_context R145). -/
def fatalStop (x : Group) : Group := x.modFlow (fun f => { f with clause := none, park := some .fatal, fatal := true })

/-- A fatal trap stops its group and is recorded in its context, which drains (07_context R145). -/
theorem fatal_spec {s : State} {g : Nat} {x : Group} (hx : s.group g = some x) (c how : Nat) (t : Trap) (frame : Nat) :
    let u := s.fatal g c how t frame
    let y := recorded (s.ctx c) how t frame
    SameMemory s u
      ∧ (∃ b, u.group g = some ((fatalStop x).modFlow (fun f => { f with stop := b })))
      ∧ u.ctx c = { y with st := if y.st = .running then .draining else y.st } := by
  intro u y
  have hu : u = ((s.setGroup g (fatalStop x)).modCtx c (fun y => recorded y how t frame)).drain c := by
    rw [← s.modGroup_eq g x fatalStop hx]
    rfl
  obtain ⟨ctxs, ⟨teams, cores, groups, hd, hg⟩, hc⟩ := drain_gaveWay
    ((s.setGroup g (fatalStop x)).modCtx c (fun y => recorded y how t frame)) c
  rw [← hu] at hd hg
  refine ⟨?_, hg g _ (State.group_setGroup ..), ?_⟩
  · rw [hd]; exact sameMemory_replaced ..
  · rw [State.ctx_modCtx] at hc
    rw [hd]; exact hc

end Ends

/-- Settles O55: the frame's page is held, so the frame is queued; what follows is handler entry or a fatal trap. -/
theorem trapEntryResults : Obligations.TrapEntryResults := by
  intro s g x tm t ipc npc cbase imask l hx ht hl hm hw hc hd c u
  obtain ⟨tlb, faults, hu⟩ := takeTrap_of_cached t ipc npc cbase imask hx ht hl hm hw hc hd
  by_cases hf : c.d.trappc = clearWord ∨ x.ctl.tdepth ≠ 0
  · rw [if_pos hf] at hu
    obtain ⟨hmem, ⟨b, hg⟩, hctx⟩ := fatal_spec (State.group_setGroup (translated s tlb faults) g
      (trapped x l t ipc npc cbase imask)) tm.ctx (if c.d.trappc = clearWord then 1 else 2) t (x.ctl.tfbase % 2 ^ 52)
    rw [← hu] at hmem hg hctx
    refine ⟨hmem, fun h1 h2 => absurd hf (not_or.2 ⟨h1, not_not.2 h2⟩), fun _ =>
      ⟨⟨_, hg, frameQueued_of_io rfl, rfl, rfl, rfl, rfl, rfl, rfl⟩, ?_⟩⟩
    obtain ⟨hfatal, hfirst, hlater, hst⟩ := recorded_spec c (if c.d.trappc = clearWord then 1 else 2) t
      (x.ctl.tfbase % 2 ^ 52)
    rw [hctx]
    exact ⟨hfatal, hfirst, hlater, hst ▸ rfl⟩
  · rw [if_neg hf] at hu
    have hg : u.group g = some _ := congrArg (State.group · g) hu |>.trans (State.group_setGroup ..)
    obtain ⟨hio, hregs, hctl, hflow⟩ := enterHandler_spec (trapped x l t ipc npc cbase imask) c.d.trappc s.sched.now
    refine ⟨?_, fun _ _ => ⟨fun h hh => ?_, _, hg, frameQueued_of_io hio, hregs, hctl, hflow⟩, fun h => absurd h hf⟩
    · show SameMemory s (s.takeTrap g t ipc npc cbase imask)
      rw [hu]; exact sameMemory_replaced ..
    · exact (congrArg (State.group · h) hu).trans (State.group_setGroup_ne _ _ _ _ hh)

end Sys2Proof.Proofs.Context

/-!
PROOFS. Lane moves, votes, ballot and match (10_group R206, R207). Lane pulls, bcast and votes are the vector and predicate
operations of Laws/Lane; lpeek, lpoke, ballot and match replace their group's registers once (`runPure_modRegs`).
-/
namespace Sys2Proof.Proofs.CrossLane

open Sys2Proof Sys2Proof.Machine Sys2Proof.Claims Sys2Proof.Proofs.Lane

section Moves

theorem xl_d {i : Instr} {s : State} {v : Env} {minor : BitVec 12} {w : TwoWord} (h : Ready i s v)
    (he : i.enc = some ⟨0x19, minor, w⟩) : v.d = w.d.toNat :=
  ready_d h he (show (0x19 : BitVec 5) ≠ 0x1B by decide)

/-- The predicate that an XL word names. -/
theorem xl_qd {i : Instr} {s : State} {v : Env} {minor : BitVec 12} {w : TwoWord} (h : Ready i s v)
    (he : i.enc = some ⟨0x19, minor, w⟩) : v.qd = (w.d.extractLsb' 0 3).toNat := by
  have hv : v.e = ⟨0x19, minor, w⟩ := Option.some.inj (h.enc.symm.trans he)
  rw [Env.qd, hv, BitVec.extractLsb'_toNat]
  rfl

/-- What a lane pull gives lane l: the source lane's value where it is valid, below W and in Active, else its own (R206). -/
def pulled (src : Nat → Nat → Option Nat) (w : TwoWord) (v : Env) (l : Nat) : Word :=
  match src l (v.read w.x.c .b32 l).toNat with
  | some j => if j < v.x.w ∧ v.act.has j = true then v.read w.a .b32 j else v.read w.a .b32 l
  | none => v.read w.a .b32 l

/-- A lane pull is a vector operation. -/
theorem xlPull_eq_vector (src : Nat → Nat → Option Nat) (w : TwoWord) :
    xlPull src w = vector (fun v l => plain (pulled src w v l)) := by
  funext v s
  have hl : ∀ l, plain (pulled src w v l) = match src l (v.read w.x.c .b32 l).toNat with
      | some j => plain (if decide (j < v.x.w) && v.act.has j then v.read w.a .b32 j else v.read w.a .b32 l)
      | none => plain (v.read w.a .b32 l) := fun l => by
    unfold pulled
    split <;> simp
  simp only [vector, hl]
  rfl

theorem pullTable_exec : ∀ p ∈ pullTable, ∃ minor, ∀ w, (p.1 w).enc = some ⟨0x19, minor, w⟩
    ∧ ∀ s, exec (p.1 w) s = runPure (p.1 w) (xlPull p.2 w) s := by
  simp only [pullTable, List.forall_mem_cons]
  exact ⟨⟨0x000, fun _ => ⟨rfl, fun _ => rfl⟩⟩, ⟨0x001, fun _ => ⟨rfl, fun _ => rfl⟩⟩, ⟨0x002, fun _ => ⟨rfl, fun _ => rfl⟩⟩,
    ⟨0x003, fun _ => ⟨rfl, fun _ => rfl⟩⟩, nofun⟩

theorem pullTable_writes (p : (TwoWord → Instr) × (Nat → Nat → Option Nat)) (hp : p ∈ pullTable) (w : TwoWord) (s : State)
    (v : Env) (h : Ready (p.1 w) s v) : WritesLanes (p.1 w) s v w.d.toNat (pulled p.2 w v) 0 := by
  obtain ⟨minor, hm⟩ := pullTable_exec p hp
  obtain ⟨he, hx⟩ := hm w
  exact writesLanes_quiet h (xlPull_eq_vector p.2 w ▸ hx s) (xl_d h he) (fun _ => rfl)

/-- bcast writes the named lane's value in every lane of Active (R206). -/
theorem bcast_writes {w : TwoWord} {s : State} {v : Env} (h : Ready (.xlBcast w) s v) :
    WritesLanes (.xlBcast w) s v w.d.toNat (fun _ => v.read w.a .b32 ((v.uni w.x.c).toNat % v.x.w)) 0 :=
  writesLanes_quiet (F := fun v _ => plain (v.read w.a .b32 (v.named w))) h rfl (xl_d (minor := 0x004) h rfl) (fun _ => rfl)

/-- An XL word that replaces its group's registers and raises no flag. -/
theorem runPure_modRegs {i : Instr} {f : Env → State → Eff} {s : State} {v : Env} {g : Regs → Regs} {P : Regs → Prop}
    (h : Ready i s v) (hf : f v (v.at_ s) = v.set (v.at_ s) (v.x.modRegs g)) (hP : P (g v.x.regs)) :
    ∃ t, runPure i f s = .next t ∧ v.Only s t P 0 :=
  runPure_regs i f s v (g v.x.regs) 0 P h (by rw [hf]; simp [Env.set, Group.modRegs]) hP

/-- lpeek writes the named lane's value to an s register (R206). -/
theorem lpeek_writes {w : TwoWord} {s : State} {v : Env} (h : Ready (.xlLpeek w) s v) :
    WritesScalar (.xlLpeek w) s v w.d.toNat (v.read w.a .b32 ((v.uni w.x.c).toNat % v.x.w)) 0 := by
  refine runPure_modRegs (f := xlLpeekEff w) h rfl ⟨fun n => ?_, rfl, rfl, rfl⟩
  rw [xl_d (minor := 0x005) h rfl, Regs.getS_setS]
  exact if_congr eq_comm rfl rfl

/-- lpoke writes one register of the named lane (R206). -/
theorem lpoke_writes {w : TwoWord} {s : State} {v : Env} (h : Ready (.xlLpoke w) s v) :
    ∃ t, exec (.xlLpoke w) s = .next t
      ∧ v.Only s t (fun r => r = v.x.regs.setV w.d.toNat ((v.uni w.x.c).toNat % v.x.w) (v.uni w.a)) 0 := by
  rw [← xl_d (minor := 0x006) h rfl]
  exact runPure_modRegs (f := xlLpokeEff w) h rfl rfl

end Moves

section Votes

/-- The model's reading of a predicate selector is the rule's (04_lane R81). -/
theorem sel_eq_selected (v : Env) (x : BitVec 8) : v.sel x = selected v x := by
  have hk : (x.extractLsb' 0 3).toNat = x.toNat % 8 := BitVec.extractLsb'_toNat ..
  funext l
  rw [selected, hk]
  rfl

theorem voteTable_exec : ∀ p ∈ voteTable, ∃ minor f, (∀ ps, f ps = p.2 ps) ∧ ∀ w, (p.1 w).enc = some ⟨0x19, minor, w⟩
    ∧ ∀ s, exec (p.1 w) s = runPure (p.1 w) (xlVote f w) s := by
  simp only [voteTable, List.forall_mem_cons]
  exact ⟨⟨0x010, _, fun _ => rfl, fun _ => ⟨rfl, fun _ => rfl⟩⟩, ⟨0x011, _, fun _ => rfl, fun _ => ⟨rfl, fun _ => rfl⟩⟩,
    ⟨0x012, _, fun ps => congrArg (ps.all id || ·) List.not_any_eq_all_not, fun _ => ⟨rfl, fun _ => rfl⟩⟩, nofun⟩

/-- A vote writes one truth value over Active (R207). -/
theorem voteTable_writes (p : (TwoWord → Instr) × (List Bool → Bool)) (hp : p ∈ voteTable) (w : TwoWord) (s : State) (v : Env)
    (h : Ready (p.1 w) s v) :
    WritesPred (p.1 w) s v (w.d.extractLsb' 0 3).toNat (fun _ => p.2 (v.lanes.map (selected v w.a))) := by
  obtain ⟨minor, f, hf, hm⟩ := voteTable_exec p hp
  obtain ⟨he, hx⟩ := hm w
  obtain ⟨t, ht, ho⟩ := predicate_spec (p.1 w) (fun v _ => f (v.lanes.map (v.sel w.a))) s v h
  rw [xl_qd h he, sel_eq_selected, hf] at ho
  exact ⟨t, (hx s).trans ht, ho⟩

/-- One lane's mask placed in v[d], and at W = 64 its high half in v[d + 1] (R207). -/
def putMask (w d : Nat) (r : Regs) (p : Nat × Mask) : Regs :=
  let r := r.setV d p.1 (p.2.extractLsb' 0 32)
  if w = 64 then r.setV (d + 1) p.1 (p.2.extractLsb' 32 32) else r

theorem putMask_keeps (w d : Nat) (r : Regs) (p : Nat × Mask) :
    (putMask w d r p).s = r.s ∧ (putMask w d r p).q = r.q ∧ (putMask w d r p).f = r.f := by
  unfold putMask
  by_cases h : w = 64 <;> simp [h]

theorem getV_putMask (w d : Nat) (r : Regs) (k : Nat) (m : Mask) (n l : Nat) (hk : k < 64) (hl : l < 64) :
    (putMask w d r (k, m)).getV n l =
      if l = k ∧ n = d then m.extractLsb' 0 32 else if l = k ∧ w = 64 ∧ n = d + 1 then m.extractLsb' 32 32 else r.getV n l := by
  by_cases hw : w = 64
  · rw [putMask, if_pos hw, Regs.getV_setV _ _ _ _ _ _ hk hl, Regs.getV_setV _ _ _ _ _ _ hk hl]
    grind
  · rw [putMask, if_neg hw, Regs.getV_setV _ _ _ _ _ _ hk hl]
    grind

/-- The masks of some lanes placed one after the other. -/
theorem getV_foldl_putMask (w d : Nat) (ls : List Nat) (m : Nat → Mask) (r : Regs) (n l : Nat) (hls : ∀ k ∈ ls, k < 64)
    (hl : l < 64) :
    (ls.foldl (fun r k => putMask w d r (k, m k)) r).getV n l =
      if l ∈ ls ∧ n = d then (m l).extractLsb' 0 32
      else if l ∈ ls ∧ w = 64 ∧ n = d + 1 then (m l).extractLsb' 32 32 else r.getV n l := by
  induction ls generalizing r with
  | nil => simp
  | cons k ls ih =>
    rw [List.foldl_cons, ih _ (fun j hj => hls j (List.mem_cons_of_mem _ hj)),
      getV_putMask _ _ _ _ _ _ _ (hls k List.mem_cons_self) hl]
    grind

theorem foldl_putMask_keeps (w d : Nat) (ls : List Nat) (m : Nat → Mask) (r : Regs) :
    (ls.foldl (fun r k => putMask w d r (k, m k)) r).s = r.s ∧ (ls.foldl (fun r k => putMask w d r (k, m k)) r).q = r.q
      ∧ (ls.foldl (fun r k => putMask w d r (k, m k)) r).f = r.f := by
  induction ls generalizing r with
  | nil => exact ⟨rfl, rfl, rfl⟩
  | cons k ls ih =>
    obtain ⟨hs, hq, hf⟩ := putMask_keeps w d r (k, m k)
    rw [List.foldl_cons, ← hs, ← hq, ← hf]
    exact ih _

/-- A mask for each lane of Active, placed as R207 says. -/
theorem wroteMasks_foldl (v : Env) (d : Nat) (m : Nat → Mask) :
    WroteMasks v d m (v.lanes.foldl (fun r k => putMask v.x.w d r (k, m k)) v.x.regs) := by
  refine ⟨fun n l hl => ?_, foldl_putMask_keeps ..⟩
  rw [Env.lanes, getV_foldl_putMask _ _ _ _ _ _ _ (fun k hk => ((mem_lanesOf _ _).1 hk).1) hl]
  simp only [mem_lanesOf, hl, true_and]

/-- An instruction that writes a lane mask in each lane of Active. -/
theorem masks_written {i : Instr} {f : Env → State → Eff} {s : State} {v : Env} {m : Nat → Mask} (h : Ready i s v)
    (hf : f v (v.at_ s) = v.set (v.at_ s) (v.x.writeMasks v.d (v.lanes.map (fun l => (l, m l))))) :
    ∃ t, runPure i f s = .next t ∧ v.Only s t (WroteMasks v v.d m) 0 := by
  refine runPure_modRegs h hf ?_
  rw [List.foldl_map]
  exact wroteMasks_foldl v v.d m

theorem isMask_maskOf (v : Env) (p : Nat → Bool) : IsMask v p (maskOf (fun l => v.act.has l && p l)) :=
  fun _ hl => has_maskOf _ _ hl

/-- ballot writes the mask of the lanes of Active of which the predicate holds (R207). -/
theorem ballot_writes {w : TwoWord} {s : State} {v : Env} (h : Ready (.xlBallot w) s v) :
    ∃ t m, exec (.xlBallot w) s = .next t ∧ IsMask v (selected v w.a) m
      ∧ v.Only s t (WroteMasks v w.d.toNat (fun _ => m)) 0 := by
  obtain ⟨t, ht, ho⟩ := masks_written (f := xlBallotEff w) h rfl
  rw [xl_d (minor := 0x013) h rfl] at ho
  exact ⟨t, _, ht, sel_eq_selected v w.a ▸ isMask_maskOf v (v.sel w.a), ho⟩

/-- match writes, in each lane of Active, the mask of the lanes of Active that hold its value (R207). -/
theorem match_writes {w : TwoWord} {s : State} {v : Env} (h : Ready (.xlMatch w) s v) :
    ∃ t m, exec (.xlMatch w) s = .next t
      ∧ (∀ l, IsMask v (fun k => v.read w.a .b32 k = v.read w.a .b32 l) (m l))
      ∧ v.Only s t (WroteMasks v w.d.toNat m) 0 := by
  obtain ⟨t, ht, ho⟩ := masks_written (f := xlMatchEff w) h rfl
  rw [xl_d (minor := 0x030) h rfl] at ho
  exact ⟨t, _, ht, fun l => isMask_maskOf v (fun k => v.read w.a .b32 k == v.read w.a .b32 l), ho⟩

end Votes

/-- Settles O9: pulls, bcast and votes are vector and predicate operations; the others replace the registers alone. -/
theorem laneMoveAndVoteResults : Obligations.LaneMoveAndVoteResults :=
  ⟨⟨pullTable_writes, fun _ _ _ h => bcast_writes h, fun _ _ _ h => lpeek_writes h, fun _ _ _ h => lpoke_writes h⟩,
    voteTable_writes, fun _ _ _ h => ballot_writes h, fun _ _ _ h => match_writes h⟩

end Sys2Proof.Proofs.CrossLane

/-!
PROOFS. Sums and extremes of two encodings (04_lane R74, R75): the model's mantissas at a common exponent against the reals that
the values stand for. Every float format shares these, in any rounding mode.
-/
namespace Sys2Proof.Proofs.Float

open Sys2Proof Sys2Proof.Machine Sys2Proof.Claims

/-- A signed mantissa at a smaller exponent stands for the same real. -/
theorem signedMant_mul_zpow (n : Bool) (m : Nat) (e e0 : Int) (h : e0 ≤ e) :
    (signedMant n m e e0 : ℝ) * 2 ^ e0 = realOf (.fin n m e) := by
  have hs : (scaleTo m e e0 : ℝ) * 2 ^ e0 = m * 2 ^ e := by
    have he : e = (e - e0).toNat + e0 := by omega
    conv_rhs => rw [he, zpow_add₀ (by norm_num), zpow_natCast]
    rw [scaleTo, Nat.shiftLeft_eq]
    push_cast
    ring
  cases n with
  | false => simp only [signedMant, realOf, Bool.false_eq_true, if_false, Int.cast_natCast, hs, one_mul]
  | true =>
    simp only [signedMant, realOf, if_true, Int.cast_neg, Int.cast_natCast, neg_mul, hs, one_mul]

/-- A value made of a signed integer stands for that integer at its exponent. -/
theorem realOf_natAbs (s e : Int) : realOf (.fin (s < 0) s.natAbs e) = s * 2 ^ e := by
  by_cases h : s < 0
  · have ha : ((s.natAbs : ℤ) : ℝ) = -s := by rw [Int.ofNat_natAbs_of_nonpos h.le, Int.cast_neg]
    simp only [realOf, decide_eq_true h, if_true, ← Int.cast_natCast (R := ℝ), ha]
    ring
  · have ha : ((s.natAbs : ℤ) : ℝ) = s := by rw [Int.natAbs_of_nonneg (not_lt.1 h)]
    simp only [realOf, decide_eq_false h, Bool.false_eq_true, if_false, ← Int.cast_natCast (R := ℝ), ha]
    ring

section Sum

/-- The model's sum of two values is the exact one. -/
theorem isSum_addVal (rnd : Rnd) (x y : Val) : IsSum rnd x y (addVal rnd x y).1 (addVal rnd x y).2 := by
  cases x with
  | nan => exact ⟨rfl, rfl⟩
  | inf n =>
    cases y with
    | nan => exact ⟨rfl, rfl⟩
    | inf n' =>
      by_cases h : n = n' <;> simp [IsSum, addVal, h, Flags.none]
    | fin n' m' e' => exact ⟨rfl, rfl⟩
  | fin n m e =>
    cases y with
    | nan => exact ⟨rfl, rfl⟩
    | inf n' => exact ⟨rfl, rfl⟩
    | fin n' m' e' =>
      have hs : ((signedMant n m e (min e e') + signedMant n' m' e' (min e e') : ℤ) : ℝ) * 2 ^ min e e'
          = realOf (.fin n m e) + realOf (.fin n' m' e') := by
        rw [Int.cast_add, add_mul, signedMant_mul_zpow _ _ _ _ (min_le_left ..), signedMant_mul_zpow _ _ _ _ (min_le_right ..)]
      simp only [IsSum, addVal]
      generalize hsum : signedMant n m e (min e e') + signedMant n' m' e' (min e e') = sum at hs ⊢
      by_cases h0 : sum = 0
      · rw [if_pos h0]
        refine ⟨rfl, _, 0, 0, rfl, ?_, fun _ => rfl⟩
        rw [← hs, h0]
        simp [Val.zero, realOf]
      · rw [if_neg h0]
        exact ⟨rfl, _, _, _, rfl, (realOf_natAbs ..).trans hs, fun h => absurd (Int.natAbs_eq_zero.1 h) h0⟩

/-- add: the exact sum of the operands as read, rounded once (R74). -/
theorem sumOf_fAdd (t : Ty) (fm : FMode) (rnd : Rnd) (a b : Nat) : SumOf t fm rnd a b (fAdd t fm rnd a b) :=
  ⟨_, _, isSum_addVal rnd _ _, rfl⟩

end Sum

section Extreme

/-- The model reads an operand of min and max as the rule does (R75). -/
theorem flushEnc_eq_asRead (t : Ty) (fm : FMode) (a : Nat) : flushEnc t fm a = asRead t fm a := by
  unfold flushEnc asRead
  by_cases h : (isSubnormal t a && t.flushed fm) = true
  · have ht : t ≠ .mt8 := by rintro rfl; simp [isSubnormal] at h
    rw [if_pos h, if_pos h, Ty.encode, if_neg (fun e => ht e.1), bit, Nat.testBit_eq_decide_div_mod_eq]
    rcases Nat.mod_two_eq_zero_or_one (a / 2 ^ (t.width - 1)) with e | e <;> simp [e]
  · rw [if_neg h, if_neg h]

theorem signedMant_lt_iff (n n' : Bool) (m m' : Nat) (e e' : Int) :
    signedMant n m e (min e e') < signedMant n' m' e' (min e e') ↔ realOf (.fin n m e) < realOf (.fin n' m' e') := by
  rw [← signedMant_mul_zpow n m e _ (min_le_left e e'), ← signedMant_mul_zpow n' m' e' _ (min_le_right e e'),
    mul_lt_mul_iff_left₀ (zpow_pos two_pos _), Int.cast_lt]

/-- The model's order of min and max is the rule's. -/
theorem fBefore_iff (x y : Val) : fBefore x y = true ↔ Precedes x y := by
  cases x <;> cases y <;> simp [fBefore, Val.lt, Val.isZero, Val.neg, Precedes, signedMant_lt_iff, and_assoc]

/-- No two values come one before the other both ways. -/
theorem precedes_asymm {x y : Val} (h : Precedes x y) : ¬ Precedes y x := by
  cases x with
  | nan => exact h.elim
  | inf n =>
    cases y with
    | nan => exact h.elim
    | inf n' =>
      obtain ⟨rfl, rfl⟩ := h
      exact fun h' => Bool.false_ne_true h'.1
    | fin n' m' e' =>
      obtain rfl : n = true := h
      exact fun h' => Bool.false_ne_true h'.symm
  | fin n m e =>
    cases y with
    | nan => exact h.elim
    | inf n' =>
      obtain rfl : n' = false := h
      exact fun h' => Bool.false_ne_true h'
    | fin n' m' e' =>
      rintro (h' | ⟨rfl, rfl, rfl, rfl⟩)
      · rcases h with h | ⟨rfl, rfl, -, -⟩
        · exact lt_asymm h h'
        · simp [realOf] at h'
      · rcases h with h | ⟨-, -, h, -⟩
        · simp [realOf] at h
        · exact Bool.false_ne_true h

/-- The shape that min and max share: NaNs first, then b where it comes before a. -/
def extreme (before : Val → Val → Bool) (t : Ty) (fm : FMode) (a b : Nat) : Nat :=
  let x := decodeRaw t (flushEnc t fm a)
  let y := decodeRaw t (flushEnc t fm b)
  if x.isNan && y.isNan then t.canonNan
  else if x.isNan then flushEnc t fm b
  else if y.isNan then flushEnc t fm a
  else if before y x then flushEnc t fm b else flushEnc t fm a

theorem isNan_iff (x : Val) : x.isNan = true ↔ x = .nan := by
  cases x <;> simp [Val.isNan]

/-- What `extreme` gives is an operand that none comes before, in an order without cycles of two. -/
theorem extremeOf_extreme {before : Val → Val → Bool} {B : Val → Val → Prop} (hB : ∀ x y, before x y = true ↔ B x y)
    (ha : ∀ x y, B x y → ¬ B y x) (t : Ty) (fm : FMode) (rnd : Rnd) (a b : Nat) :
    ExtremeOf B t fm rnd a b (extreme before t fm a b, 0) := by
  unfold ExtremeOf extreme
  simp only [flushEnc_eq_asRead]
  generalize asRead t fm a = a'
  generalize asRead t fm b = b'
  have hirr : ∀ x, ¬ B x x := fun x h => ha x x h h
  by_cases hx : decodeRaw t a' = .nan
  · by_cases hy : decodeRaw t b' = .nan <;> simp [hx, hy, isNan_iff]
  · by_cases hy : decodeRaw t b' = .nan
    · simp [hx, hy, isNan_iff]
    · by_cases h : B (decodeRaw t b') (decodeRaw t a')
      · simp [hx, hy, isNan_iff, hB, h, hirr, ha _ _ h]
      · simp [hx, hy, isNan_iff, hB, h, hirr]

/-- min (R75). -/
theorem leastOf_fMin (t : Ty) (fm : FMode) (rnd : Rnd) (a b : Nat) : LeastOf t fm rnd a b (fMin t fm a b, 0) :=
  extremeOf_extreme fBefore_iff (fun _ _ => precedes_asymm) t fm rnd a b

/-- max: min in the turned order (R75). -/
theorem greatestOf_fMax (t : Ty) (fm : FMode) (rnd : Rnd) (a b : Nat) : GreatestOf t fm rnd a b (fMax t fm a b, 0) :=
  extremeOf_extreme (before := fun x y => fBefore y x) (fun x y => fBefore_iff y x) (fun _ _ => precedes_asymm) t fm rnd a b

end Extreme
end Sys2Proof.Proofs.Float

/-!
PROOFS. Reductions and scans over Active (10_group R208, 03_numbers R62). A level of the tree pairs its nodes by `Option.merge`,
so an associative operation gives the leaves combined in lane order (`treeValue_eq_merged`), which is how integers combine; a
node of a float tree is the relation of 04_lane R74 or R75 in itself.
-/
namespace Sys2Proof.Proofs.CrossLane

open Sys2Proof Sys2Proof.Machine Sys2Proof.Claims Sys2Proof.Proofs.Lane Sys2Proof.Proofs.Float

section Tree

variable {α : Type} (f : α → α → α)

/-- The values that are present, combined in their order; none where no value is. -/
def merged (xs : List (Option α)) : Option α := xs.foldl (Option.merge f) none

theorem treeLevel_pair (a b : Option α) (r : List (Option α)) :
    treeLevel f (a :: b :: r) = Option.merge f a b :: treeLevel f r := by
  cases a <;> cases b <;> rfl

/-- A node of a level stands over two of the level below. -/
theorem drop_treeLevel : ∀ (n : Nat) (xs : List (Option α)), (treeLevel f xs).drop n = treeLevel f (xs.drop (2 * n))
  | 0, _ => rfl
  | n + 1, [] => by simp [treeLevel]
  | n + 1, [a] => by
    rw [show 2 * (n + 1) = 2 * n + 1 + 1 by omega]
    cases a <;> simp [treeLevel]
  | n + 1, a :: b :: r => by
    rw [treeLevel_pair, List.drop_succ_cons, drop_treeLevel n r]
    rfl

/-- No value comes of absent nodes. -/
theorem treeLevel_absent : ∀ xs : List (Option α), (∀ x ∈ xs, x = none) → ∀ x ∈ treeLevel f xs, x = none
  | [], _ => nofun
  | [a], h => by obtain rfl := h a List.mem_cons_self; simp [treeLevel]
  | a :: b :: r, h => by
    obtain ⟨rfl, hb⟩ := List.forall_mem_cons.1 h
    obtain ⟨rfl, hr⟩ := List.forall_mem_cons.1 hb
    rw [treeLevel_pair]
    exact List.forall_mem_cons.2 ⟨rfl, treeLevel_absent r hr⟩

/-- Absent values change nothing. -/
theorem foldl_merge_absent (c : Option α) (xs : List (Option α)) (h : ∀ x ∈ xs, x = none) :
    xs.foldl (Option.merge f) c = c := by
  induction xs with
  | nil => rfl
  | cons x xs ih =>
    obtain ⟨rfl, hxs⟩ := List.forall_mem_cons.1 h
    rw [List.foldl_cons, Option.merge_none_right, ih hxs]

/-- The tree's value by its levels. -/
theorem treeValue_eq_iterate (xs : List (Option α)) : treeValue f xs = ((treeLevel f)^[6] xs).headD none := by
  have h : (List.range 6).foldl (fun ys _ => treeLevel f ys) xs = (treeLevel f)^[6] xs := rfl
  unfold treeValue
  rw [h]
  cases (treeLevel f)^[6] xs <;> rfl

variable [Std.Associative f]

theorem foldl_merge_treeLevel : ∀ (c : Option α) (xs : List (Option α)),
    (treeLevel f xs).foldl (Option.merge f) c = xs.foldl (Option.merge f) c
  | _, [] => rfl
  | c, [a] => by cases a <;> rfl
  | c, a :: b :: r => by
    rw [treeLevel_pair, List.foldl_cons, foldl_merge_treeLevel, ← Std.Associative.assoc (op := Option.merge f)]
    rfl

/-- n levels over leaves that stand below 2^n leave one node, the leaves combined in order. -/
theorem headD_iterate_treeLevel (n : Nat) (xs : List (Option α)) (h : ∀ x ∈ xs.drop (2 ^ n), x = none) :
    ((treeLevel f)^[n] xs).headD none = merged f xs := by
  induction n generalizing xs with
  | zero =>
    cases xs with
    | nil => rfl
    | cons x xs =>
      have hx := foldl_merge_absent f (Option.merge f none x) xs h
      rw [merged, List.foldl_cons, hx, Option.merge_none_left]
      rfl
  | succ n ih =>
    have hd := treeLevel_absent f (xs.drop (2 * 2 ^ n)) (by rwa [← Nat.pow_succ'])
    rw [← drop_treeLevel] at hd
    rw [Function.iterate_succ_apply, ih _ hd]
    exact foldl_merge_treeLevel f none xs

/-- An associative operation makes the order of the tree that of its leaves (03_numbers R62). -/
theorem treeValue_eq_merged (xs : List (Option α)) (h : ∀ x ∈ xs.drop 64, x = none) : treeValue f xs = merged f xs :=
  (treeValue_eq_iterate f xs).trans (headD_iterate_treeLevel f 6 xs h)

end Tree

section Leaves

/-- Some members of a list, the others absent, combined. -/
theorem foldl_merge_filter {α β : Type} (f : α → α → α) (p : β → Bool) (g : β → α) (ls : List β) (c : Option α) :
    (ls.map (fun l => if p l then some (g l) else none)).foldl (Option.merge f) c =
      (ls.filter p).foldl (fun c l => Option.merge f c (some (g l))) c := by
  induction ls generalizing c with
  | nil => rfl
  | cons l ls ih =>
    by_cases h : p l = true
    · rw [List.map_cons, List.foldl_cons, ih, if_pos h, List.filter_cons_of_pos h, List.foldl_cons]
    · rw [List.map_cons, List.foldl_cons, ih, if_neg h, Option.merge_none_right, List.filter_cons_of_neg h]

/-- The numbers of which a condition holds, below any bound that it implies. -/
theorem filter_range_eq {p : Nat → Bool} {m n : Nat} (hm : ∀ k, p k = true → k < m) (hn : ∀ k, p k = true → k < n) :
    (List.range m).filter p = (List.range n).filter p := by
  have key : ∀ {a b : Nat}, (∀ k, p k = true → k < a) → (List.range (a + b)).filter p = (List.range a).filter p := by
    intro a b ha
    have hnil : ((List.range b).map (a + ·)).filter p = [] := List.filter_eq_nil_iff.2 fun k hk hpk => by
      obtain ⟨j, -, rfl⟩ := List.mem_map.1 hk
      have := ha _ hpk
      omega
    rw [List.range_add, List.filter_append, hnil, List.append_nil]
  rw [← key (b := n) hm, Nat.add_comm, key hn]

theorem has_lt {m : Mask} {l : Nat} (h : m.has l = true) : l < 64 := BitVec.lt_of_getLsbD h

/-- The lanes that a tree's leaves stand for. -/
theorem filter_range_w (v : Env) (n : Nat) :
    (List.range v.x.w).filter (fun l => v.act.has l && decide (l < n)) =
      v.lanes.filter (fun l => decide (l < v.x.w) && decide (l < n)) := by
  have h : v.lanes.filter (fun l => decide (l < v.x.w) && decide (l < n)) =
      (List.range 64).filter (fun l => decide (l < v.x.w) && decide (l < n) && v.act.has l) := List.filter_filter ..
  have hw : (List.range v.x.w).filter (fun l => v.act.has l && decide (l < n)) =
      (List.range v.x.w).filter (fun l => decide (l < v.x.w) && decide (l < n) && v.act.has l) :=
    List.filter_congr fun l hl => by rw [decide_eq_true (List.mem_range.1 hl), Bool.true_and, Bool.and_comm]
  rw [h, hw]
  refine filter_range_eq (fun k hk => ?_) (fun k hk => ?_) <;> simp only [Bool.and_eq_true, decide_eq_true_eq] at hk
  · obtain ⟨⟨hkw, -⟩, -⟩ := hk
    exact hkw
  · obtain ⟨-, hka⟩ := hk
    exact has_lt hka

theorem drop_leaves_absent (w : TwoWord) (v : Env) (t : Ty) (n : Nat) : ∀ x ∈ (leaves w v t n).drop 64, x = none := by
  intro x hx
  obtain ⟨i, hi, rfl⟩ := List.mem_iff_getElem.1 hx
  simp [leaves]

/-- `comb` combines the values of two nodes by `op`, and keeps their flags. -/
def Wordwise (comb : Res → Res → Res) (op : Word → Word → Word) : Prop :=
  ∀ a b, comb a b = (op a.1 b.1, a.2 ||| b.2)

theorem Wordwise.associative {comb : Res → Res → Res} {op : Word → Word → Word} (hc : Wordwise comb op)
    (ho : Std.Associative op) : Std.Associative comb :=
  ⟨fun a b c => by simp only [hc _ _, ho.assoc, BitVec.or_assoc]⟩

theorem foldl_merge_plain {comb : Res → Res → Res} {op : Word → Word → Word} (hc : Wordwise comb op) (a : Nat → Word)
    (ls : List Nat) (x : Word) :
    ls.foldl (fun c l => Option.merge comb c (some (plain (a l)))) (some (plain x)) =
      some (plain (ls.foldl (fun x k => op x (a k)) x)) := by
  induction ls generalizing x with
  | nil => rfl
  | cons l ls ih =>
    rw [List.foldl_cons, List.foldl_cons, ← ih, Option.merge_some_some, hc]
    simp [plain]

/-- Lanes that raise no flag, combined from the lowest on. -/
theorem foldl_merge_eq_foldLanes {comb : Res → Res → Res} {op : Word → Word → Word} (hc : Wordwise comb op) (a : Nat → Word)
    (ls : List Nat) :
    ls.foldl (fun c l => Option.merge comb c (some (plain (a l)))) none = (foldLanes op a ls).map plain := by
  cases ls with
  | nil => rfl
  | cons l ls => exact foldl_merge_plain hc a ls (a l)

/-- A tree of an operation on words, over the lanes of Active below a bound, combines them in lane order. -/
theorem treeValue_leaves {comb : Res → Res → Res} {op : Word → Word → Word} (hc : Wordwise comb op)
    (ho : Std.Associative op) (w : TwoWord) (v : Env) (t : Ty) (n : Nat) :
    treeValue comb (leaves w v t n) = (foldLanes op (fun k => v.read w.a t k)
      (v.lanes.filter (fun k => decide (k < v.x.w) && decide (k < n)))).map plain := by
  have := hc.associative ho
  rw [treeValue_eq_merged comb _ (drop_leaves_absent w v t n), merged, leaves, foldl_merge_filter, filter_range_w]
  exact foldl_merge_eq_foldLanes hc ..

end Leaves

section Nodes

/-- The number by which integers are ordered: signed for .i (R208). -/
def key (t : Ty) (x : Word) : Int := if t.isI then x.toInt else x.toNat

theorem opMin_eq (t : Ty) (a b : Word) : opMin t 32 a b = if key t b < key t a then b else a := by
  cases h : t.isI <;> simp [opMin, key, h, BitVec.slt, BitVec.ult]

theorem opMax_eq (t : Ty) (a b : Word) : opMax t 32 a b = if key t a < key t b then b else a := by
  cases h : t.isI <;> simp [opMax, key, h, BitVec.slt, BitVec.ult]

theorem wMin_associative (t : Ty) : Std.Associative (wMin t) :=
  ⟨fun a b c => by simp only [wMin, opMin_eq]; grind⟩

theorem wMax_associative (t : Ty) : Std.Associative (wMax t) :=
  ⟨fun a b c => by simp only [wMax, opMax_eq]; grind⟩

/-- An element operation on the one element of a type of 32 bits. -/
theorem computes_word {t : Ty} (ht : t.width = 32) {f : Nat → Nat → Nat × Flags} {g : BitOp} (h : Computes t f g)
    (x y : Word) : f x.toNat y.toNat = ((g t 32 x y).toNat, 0) := by
  unfold Computes at h
  generalize t.width = n at h ht
  subst ht
  exact h x y

/-- What the node of an integer tree is, from what its element operation computes. -/
theorem wordwise_redCombine {op : RedOp} {t : Ty} {fm : FMode} {f : Nat → Nat → Nat × Flags} {g : BitOp}
    (ht : t.width = 32) (hc : Computes t f g)
    (hr : ∀ a b : Res, redCombine op t fm a b =
      (BitVec.ofNat 32 (f a.1.toNat b.1.toNat).1, a.2 ||| b.2 ||| (f a.1.toNat b.1.toNat).2)) :
    Wordwise (redCombine op t fm) (g t 32) := fun a b => by
  rw [hr, computes_word ht hc, BitVec.ofNat_toNat, BitVec.setWidth_eq]
  exact congrArg _ BitVec.or_zero

theorem wordwise_add {t : Ty} (hf : t.isFloat = false) (ht : t.width = 32) (fm : FMode) :
    Wordwise (redCombine .add t fm) (wAdd t) :=
  wordwise_redCombine ht (computes_add hf fm .rne) (fun _ _ => rfl)

theorem wordwise_min {t : Ty} (hf : t.isFloat = false) (ht : t.width = 32) (fm : FMode) :
    Wordwise (redCombine .min t fm) (wMin t) :=
  wordwise_redCombine ht (computes_min hf fm) (fun _ _ => rfl)

theorem wordwise_max {t : Ty} (hf : t.isFloat = false) (ht : t.width = 32) (fm : FMode) :
    Wordwise (redCombine .max t fm) (wMax t) :=
  wordwise_redCombine ht (computes_max hf fm) (fun _ _ => rfl)

theorem wordwise_and {t : Ty} (ht : t.width = 32) (fm : FMode) : Wordwise (redCombine .and t fm) (· &&& ·) :=
  wordwise_redCombine ht (computes_and t) (fun _ _ => rfl)

theorem wordwise_or {t : Ty} (ht : t.width = 32) (fm : FMode) : Wordwise (redCombine .or t fm) (· ||| ·) :=
  wordwise_redCombine ht (computes_or t) (fun _ _ => rfl)

theorem combines_add (fm : FMode) : Combines SumOf fm (redCombine .add .f32 fm) :=
  fun _ _ => ⟨_, sumOf_fAdd .f32 fm .rne _ _, rfl⟩

theorem combines_min (fm : FMode) : Combines LeastOf fm (redCombine .min .f32 fm) :=
  fun _ _ => ⟨_, leastOf_fMin .f32 fm .rne _ _, rfl⟩

theorem combines_max (fm : FMode) : Combines GreatestOf fm (redCombine .max .f32 fm) :=
  fun _ _ => ⟨_, greatestOf_fMax .f32 fm .rne _ _, rfl⟩

end Nodes

section Instructions

/-- The type that an XL word names. -/
def xlTy (w : TwoWord) : Ty := Ty.ofCode (w.x.mod2.extractLsb' 0 4).toNat

theorem ofCode_mod2 (w : TwoWord) : Ty.ofCode (w.x.mod2.toNat % 16) = xlTy w := by
  rw [xlTy, BitVec.extractLsb'_toNat]
  rfl

/-- The minors of scans and reductions (10_group R205). -/
def redMinors : List (BitVec 12) := [0x020, 0x021, 0x022, 0x028, 0x029, 0x02A, 0x02B, 0x02C]

/-- The types that scans and reductions accept have 32 bits (10_group R205). -/
theorem width_of_shapeXl (w : TwoWord) (minor : BitVec 12)
    (hm : minor ∈ redMinors) (hr : (shapeXl minor.toNat w).reserved = false) :
    (Ty.ofCode (w.x.mod2.toNat % 16)).width = 32 := by
  have hty : ∀ k : Nat, k = 0 ∨ k = 1 ∨ k = 2 ∨ k = 9 → (Ty.ofCode k).width = 32 := by
    rintro k (rfl | rfl | rfl | rfl) <;> rfl
  refine hty _ (by_contra fun hk => ?_)
  simp only [not_or] at hk
  simp only [redMinors, List.mem_cons, List.not_mem_nil, or_false] at hm
  rcases hm with rfl | rfl | rfl | rfl | rfl | rfl | rfl | rfl <;> simp [shapeXl, Shape.bad, hk] at hr

theorem ready_xlWidth {i : Instr} {s : State} {v : Env} {minor : BitVec 12} {w : TwoWord} (h : Ready i s v)
    (he : i.enc = some ⟨0x19, minor, w⟩) (hm : minor ∈ redMinors) : (xlTy w).width = 32 := by
  have hl := Laws.Encoding.legal_of_wf i _ h.wf he
  unfold Enc.illegal at hl
  have hr : ¬(⟨0x19, minor, w⟩ : Enc).shape.reserved = true := (check_none hl).1
  rw [← ofCode_mod2]
  exact width_of_shapeXl w minor hm (Bool.eq_false_of_not_eq_true hr)

theorem orFlags_eq_flagsOf (v : Env) (F : Nat → Res) :
    orFlags v (fun l => (F l).2) = flagsOf (v.lanes.map (fun l => (l, F l))) := by
  simp only [orFlags, flagsOf, List.foldl_map]

theorem orFlags_zero (v : Env) : orFlags v (fun _ => 0) = 0 :=
  List.foldl_map.trans (foldl_or_zero v.lanes)

/-- A result without flags in each lane is a value in each lane. -/
theorem writesLanes_of_results {i : Instr} {s : State} {v : Env} {d : Nat} {F : Nat → Res} {val : Nat → Word}
    (h : WritesResults i s v d F) (hv : ∀ l, F l = plain (val l)) : WritesLanes i s v d val 0 := by
  obtain rfl : F = fun l => plain (val l) := funext hv
  exact orFlags_zero v ▸ h

theorem xlRed_of_none {op : RedOp} {w : TwoWord} {v : Env} (s : State)
    (hT : treeValue (redCombine op (xlTy w) v.fm) (leaves w v (xlTy w) v.x.w) = none) : xlRed op w v s = .done s := by
  rw [← ofCode_mod2] at hT
  simp only [xlRed, hT]

theorem xlRed_of_some {op : RedOp} {w : TwoWord} {v : Env} {r : Res} (s : State)
    (hT : treeValue (redCombine op (xlTy w) v.fm) (leaves w v (xlTy w) v.x.w) = some r) :
    xlRed op w v s = vector (fun _ _ => r) v s := by
  rw [← ofCode_mod2] at hT
  simp only [xlRed, hT, vector]

/-- A word that leaves its group as it is. -/
theorem writesResults_own {i : Instr} {f : Env → State → Eff} {s : State} {v : Env} (d : Nat) (h : Ready i s v)
    (hx : exec i s = runPure i f s) (hf : f v (v.at_ s) = .done (v.at_ s)) :
    WritesResults i s v d (fun l => (v.x.regs.getV d l, 0)) := by
  have hset : v.at_ s = (v.at_ s).setGroup v.g
      { v.x with regs := v.x.regs, ctl := { v.x.ctl with fstat := v.x.ctl.fstat ||| 0 } } := by
    simp [Env.at_]
  rw [WritesResults, WritesLanes, hx, orFlags_zero]
  exact runPure_regs i f s v v.x.regs 0 _ h (hf.trans (congrArg _ hset)) ⟨fun n l _ => by grind, rfl, rfl, rfl⟩

/-- A vector operation, with the flags of its lanes as the statements say them. -/
theorem writesResults_vector {i : Instr} {f : Env → State → Eff} {s : State} {v : Env} {minor : BitVec 12} {w : TwoWord}
    (F : Env → Nat → Res) (h : Ready i s v) (he : i.enc = some ⟨0x19, minor, w⟩) (hx : exec i s = runPure i f s)
    (hf : f v (v.at_ s) = vector F v (v.at_ s)) : WritesResults i s v w.d.toNat (F v) := by
  rw [WritesResults, WritesLanes, hx, orFlags_eq_flagsOf, ← xl_d h he]
  exact runPure_regs i f s v _ _ _ h (hf.trans (by rw [vector, Env.set, Group.writeLanes_eq])) (v.wroteLanes_foldl v.d (F v))

/-- A reduction writes the tree's value in every lane of Active, and nothing where the tree has none (R208). -/
theorem red_writes {i : Instr} {s : State} {v : Env} {minor : BitVec 12} {op : RedOp} {w : TwoWord} (h : Ready i s v)
    (he : i.enc = some ⟨0x19, minor, w⟩) (hx : exec i s = runPure i (xlRed op w) s) :
    WritesResults i s v w.d.toNat (fun l =>
      (treeValue (redCombine op (xlTy w) v.fm) (leaves w v (xlTy w) v.x.w)).getD (v.x.regs.getV w.d.toNat l, 0)) := by
  cases hT : treeValue (redCombine op (xlTy w) v.fm) (leaves w v (xlTy w) v.x.w) with
  | none => exact writesResults_own _ h hx (xlRed_of_none _ hT)
  | some r => exact writesResults_vector (fun _ _ => r) h he hx (xlRed_of_some _ hT)

/-- A scan writes each lane of Active the value of its own tree (R208). -/
theorem scan_writes {i : Instr} {s : State} {v : Env} {minor : BitVec 12} {op : RedOp} {w : TwoWord} (h : Ready i s v)
    (he : i.enc = some ⟨0x19, minor, w⟩) (hx : exec i s = runPure i (xlScan op w) s) :
    WritesResults i s v w.d.toNat (fun l =>
      (treeValue (redCombine op (xlTy w) v.fm) (leaves w v (xlTy w) (if w.x.c.getLsbD 0 then l else l + 1))).getD
        (redIdentity op (xlTy w), 0)) := by
  rw [← ofCode_mod2]
  exact writesResults_vector (fun v l =>
    (treeValue (redCombine op (Ty.ofCode (w.x.mod2.toNat % 16)) v.fm)
      (leaves w v (Ty.ofCode (w.x.mod2.toNat % 16)) (if w.x.c.getLsbD 0 then l else l + 1))).getD
        (redIdentity op (Ty.ofCode (w.x.mod2.toNat % 16)), 0)) h he hx rfl

/-- A reduction on integers combines the lanes of Active in order. -/
theorem red_writes_int {i : Instr} {s : State} {v : Env} {minor : BitVec 12} {op : RedOp} {w : TwoWord} {g : Word → Word → Word}
    (h : Ready i s v) (he : i.enc = some ⟨0x19, minor, w⟩) (hx : exec i s = runPure i (xlRed op w) s)
    (hc : Wordwise (redCombine op (xlTy w) v.fm) g) (ho : Std.Associative g) :
    WritesLanes i s v w.d.toNat (fun l =>
      (foldLanes g (fun k => v.read w.a (xlTy w) k) (v.lanes.filter (fun k => k < v.x.w))).getD
        (v.x.regs.getV w.d.toNat l)) 0 := by
  refine writesLanes_of_results (red_writes h he hx) fun l => ?_
  rw [treeValue_leaves hc ho]
  simp only [Bool.and_self]
  cases foldLanes g (fun k => v.read w.a (xlTy w) k) (v.lanes.filter (fun k => k < v.x.w)) <;> rfl

/-- A scan on integers combines the lanes of Active up to each lane, or below it, in order. -/
theorem scan_writes_int {i : Instr} {s : State} {v : Env} {minor : BitVec 12} {op : RedOp} {w : TwoWord}
    {g : Word → Word → Word} {e : Word} (h : Ready i s v) (he : i.enc = some ⟨0x19, minor, w⟩)
    (hx : exec i s = runPure i (xlScan op w) s) (hc : Wordwise (redCombine op (xlTy w) v.fm) g) (ho : Std.Associative g)
    (hid : redIdentity op (xlTy w) = e) :
    WritesLanes i s v w.d.toNat (fun l =>
      (foldLanes g (fun k => v.read w.a (xlTy w) k)
        (v.lanes.filter (fun k => k < v.x.w && if w.x.c.getLsbD 0 then k < l else k ≤ l))).getD e) 0 := by
  subst hid
  refine writesLanes_of_results (scan_writes h he hx) fun l => ?_
  have hb : ∀ k, decide (k < if w.x.c.getLsbD 0 then l else l + 1) =
      if w.x.c.getLsbD 0 then decide (k < l) else decide (k ≤ l) := fun k => by
    cases w.x.c.getLsbD 0
    · exact decide_eq_decide.2 Nat.lt_succ_iff
    · rfl
  rw [treeValue_leaves hc ho]
  simp only [hb]
  cases foldLanes g (fun k => v.read w.a (xlTy w) k)
    (v.lanes.filter (fun k => k < v.x.w && if w.x.c.getLsbD 0 then k < l else k ≤ l)) <;> rfl

/-- The reductions, each with its minor and its node on integers. -/
theorem redTable_exec : ∀ p ∈ redTable, ∃ minor op, minor ∈ redMinors
    ∧ (∀ t fm, t.isFloat = false → t.width = 32 → Wordwise (redCombine op t fm) (p.2 t)) ∧ (∀ t, Std.Associative (p.2 t))
    ∧ ∀ w, (p.1 w).enc = some ⟨0x19, minor, w⟩ ∧ ∀ s, exec (p.1 w) s = runPure (p.1 w) (xlRed op w) s := by
  simp only [redTable, List.forall_mem_cons]
  exact ⟨⟨0x028, .add, by decide, fun _ fm hf ht => wordwise_add hf ht fm, fun _ => ⟨BitVec.add_assoc⟩,
      fun _ => ⟨rfl, fun _ => rfl⟩⟩,
    ⟨0x029, .min, by decide, fun _ fm hf ht => wordwise_min hf ht fm, wMin_associative, fun _ => ⟨rfl, fun _ => rfl⟩⟩,
    ⟨0x02A, .max, by decide, fun _ fm hf ht => wordwise_max hf ht fm, wMax_associative, fun _ => ⟨rfl, fun _ => rfl⟩⟩,
    ⟨0x02B, .and, by decide, fun _ fm _ ht => wordwise_and ht fm, fun _ => ⟨BitVec.and_assoc⟩, fun _ => ⟨rfl, fun _ => rfl⟩⟩,
    ⟨0x02C, .or, by decide, fun _ fm _ ht => wordwise_or ht fm, fun _ => ⟨BitVec.or_assoc⟩, fun _ => ⟨rfl, fun _ => rfl⟩⟩,
    nofun⟩

/-- The scans, each with its minor, its node on integers and its identity. -/
theorem scanTable_exec : ∀ p ∈ scanTable, ∃ minor op, minor ∈ redMinors
    ∧ (∀ t fm, t.isFloat = false → t.width = 32 → Wordwise (redCombine op t fm) (p.2.1 t)) ∧ (∀ t, Std.Associative (p.2.1 t))
    ∧ (∀ t, t.isFloat = false → t.width = 32 → redIdentity op t = p.2.2 t)
    ∧ ∀ w, (p.1 w).enc = some ⟨0x19, minor, w⟩ ∧ ∀ s, exec (p.1 w) s = runPure (p.1 w) (xlScan op w) s := by
  simp only [scanTable, List.forall_mem_cons]
  exact ⟨⟨0x020, .add, by decide, fun _ fm hf ht => wordwise_add hf ht fm, fun _ => ⟨BitVec.add_assoc⟩,
      fun t => by cases t <;> decide, fun _ => ⟨rfl, fun _ => rfl⟩⟩,
    ⟨0x021, .min, by decide, fun _ fm hf ht => wordwise_min hf ht fm, wMin_associative, fun t => by cases t <;> decide,
      fun _ => ⟨rfl, fun _ => rfl⟩⟩,
    ⟨0x022, .max, by decide, fun _ fm hf ht => wordwise_max hf ht fm, wMax_associative, fun t => by cases t <;> decide,
      fun _ => ⟨rfl, fun _ => rfl⟩⟩, nofun⟩

/-- The float reductions and scans, each with its minors, its node and its identity. -/
theorem floatRedTable_exec : ∀ p ∈ floatRedTable, ∃ m m' op, (∀ fm, Combines p.2.2.1 fm (redCombine op .f32 fm))
    ∧ redIdentity op .f32 = p.2.2.2
    ∧ (∀ w, (p.1 w).enc = some ⟨0x19, m, w⟩ ∧ ∀ s, exec (p.1 w) s = runPure (p.1 w) (xlRed op w) s)
    ∧ ∀ w, (p.2.1 w).enc = some ⟨0x19, m', w⟩ ∧ ∀ s, exec (p.2.1 w) s = runPure (p.2.1 w) (xlScan op w) s := by
  simp only [floatRedTable, List.forall_mem_cons]
  exact ⟨⟨0x028, 0x020, .add, combines_add, rfl, fun _ => ⟨rfl, fun _ => rfl⟩, fun _ => ⟨rfl, fun _ => rfl⟩⟩,
    ⟨0x029, 0x021, .min, combines_min, rfl, fun _ => ⟨rfl, fun _ => rfl⟩, fun _ => ⟨rfl, fun _ => rfl⟩⟩,
    ⟨0x02A, 0x022, .max, combines_max, rfl, fun _ => ⟨rfl, fun _ => rfl⟩, fun _ => ⟨rfl, fun _ => rfl⟩⟩, nofun⟩

end Instructions

/-- Settles O7: on integers a tree of an associative operation combines in lane order; on .f32 the model's tree is the rule's,
node by node. -/
theorem reductionResults : Obligations.ReductionResults := by
  refine ⟨fun p hp w s v h hf => ?_, fun p hp w s v h hf => ?_, fun p hp w s v h ht => ?_, fun p hp w s v h ht => ?_⟩
  · obtain ⟨minor, op, hm, hc, ho, hi⟩ := redTable_exec p hp
    obtain ⟨he, hx⟩ := hi w
    exact red_writes_int h he (hx s) (hc _ v.fm hf (ready_xlWidth h he hm)) (ho _)
  · obtain ⟨minor, op, hm, hc, ho, hid, hi⟩ := scanTable_exec p hp
    obtain ⟨he, hx⟩ := hi w
    have hw := ready_xlWidth h he hm
    exact scan_writes_int h he (hx s) (hc _ v.fm hf hw) (ho _) (hid _ hf hw)
  · obtain ⟨m, m', op, hc, hid, hi, hi'⟩ := floatRedTable_exec p hp
    obtain ⟨he, hx⟩ := hi w
    refine ⟨_, hc v.fm, ?_⟩
    rw [← show xlTy w = .f32 from ht]
    exact red_writes h he (hx s)
  · obtain ⟨m, m', op, hc, hid, hi, hi'⟩ := floatRedTable_exec p hp
    obtain ⟨he, hx⟩ := hi' w
    refine ⟨_, hc v.fm, ?_⟩
    rw [← hid, ← show xlTy w = .f32 from ht]
    exact scan_writes h he (hx s)

end Sys2Proof.Proofs.CrossLane
